-- ==== Sys2Proof/Word.lean ====
section
/-! DEFINITION. The words of the device: bytes, 32-bit words, 64-bit words and 96-lane masks (R3). -/

namespace Sys2Proof

/-- One byte of memory. -/
abbrev Byte := BitVec 8
/-- One 32-bit word: a scalar register, one lane of a vector register, one instruction word. -/
abbrev W32 := BitVec 32
/-- One 64-bit word: a scalar pair, a program counter, a structure word in memory. -/
abbrev W64 := BitVec 64
/-- A 96-lane mask: bit l is lane l (R20). -/
abbrev Mask := BitVec 96

end Sys2Proof
end

