-- ==== Sys2Proof/Machine/SMap.lean ====
section
/-! DEFINITION. Sparse stores in one canonical form: lists of (key, value) with keys strictly rising. A sparse word store
lists no zero word, so an unlisted key reads zero and equal stores are equal lists; a table lists what is there. -/

namespace Sys2Proof.Machine

/-- A store of w-bit words by key; an unlisted key reads zero. -/
abbrev SMap (w : Nat) := List (Nat × BitVec w)

/-- The word at a key. -/
def SMap.get {w : Nat} : SMap w → Nat → BitVec w
  | [], _ => 0
  | (k, v) :: m, a => if a = k then v else SMap.get m a

/-- List nothing at a key. -/
def SMap.drop {w : Nat} : SMap w → Nat → SMap w
  | [], _ => []
  | (k, v) :: m, a => if a = k then SMap.drop m a else (k, v) :: SMap.drop m a

/-- Put an entry before a tail, leaving a zero word out. -/
def SMap.cons {w : Nat} (a : Nat) (v : BitVec w) (m : SMap w) : SMap w := if v = 0 then SMap.drop m a else (a, v) :: m

/-- Write the word at a key, keeping the canonical form. -/
def SMap.set {w : Nat} : SMap w → Nat → BitVec w → SMap w
  | [], a, x => SMap.cons a x []
  | (k, v) :: m, a, x =>
    if a < k then SMap.cons a x ((k, v) :: m)
    else if a = k then SMap.cons a x m
    else (k, v) :: SMap.set m a x

/-- Every key of the list lies above a bound, keys rise strictly, and no word is zero. -/
def SMap.wfFrom {w : Nat} : Nat → SMap w → Bool
  | _, [] => true
  | b, (k, v) :: m => decide (b ≤ k) && decide (v ≠ 0) && SMap.wfFrom (k + 1) m

/-- The canonical form. -/
def SMap.wf {w : Nat} (m : SMap w) : Bool := SMap.wfFrom 0 m

/-- A table of things by key. -/
abbrev AMap (α : Type) := List (Nat × α)

/-- The entry at a key. -/
def AMap.get {α : Type} : AMap α → Nat → Option α
  | [], _ => none
  | (k, v) :: m, a => if a = k then some v else AMap.get m a

/-- Write the entry at a key, keys rising. -/
def AMap.set {α : Type} : AMap α → Nat → α → AMap α
  | [], a, x => [(a, x)]
  | (k, v) :: m, a, x =>
    if a < k then (a, x) :: (k, v) :: m
    else if a = k then (a, x) :: m
    else (k, v) :: AMap.set m a x

/-- Remove the entry at a key. -/
def AMap.erase {α : Type} : AMap α → Nat → AMap α
  | [], _ => []
  | (k, v) :: m, a => if a = k then AMap.erase m a else (k, v) :: AMap.erase m a

/-- Change the entry at a key, when there is one. -/
def AMap.upd {α : Type} (m : AMap α) (a : Nat) (f : α → α) : AMap α :=
  match m.get a with
  | some x => m.set a (f x)
  | none => m

/-- Change every entry. -/
def AMap.mapV {α : Type} (m : AMap α) (f : Nat → α → α) : AMap α := m.map (fun p => (p.1, f p.1 p.2))

/-- The entries. -/
def AMap.vals {α : Type} (m : AMap α) : List α := m.map Prod.snd

/-- Keys rise strictly. -/
def AMap.wf {α : Type} (m : AMap α) : Prop := List.Pairwise (fun a b => a.1 < b.1) m

/-- Change the first element that a test picks. -/
def updFirst {α : Type} (p : α → Bool) (f : α → α) : List α → List α
  | [] => []
  | x :: l => if p x then f x :: l else x :: updFirst p f l

end Sys2Proof.Machine
end

