-- ==== Sys2Proof/Syntax.lean ====
section
/-! DEFINITION. The instruction formats of R64 to R76 as plain data, and the one inductive `Instr` of every row of
the table of operations and events: device events with their inputs, then the instructions, then the two outcomes of
a fetch that is no instruction. -/

namespace Sys2Proof

/-- Element types with their TY codes 0 to 14 (R36). Code 15 names no type. -/
inductive Ty | b32 | n32 | s32 | i32 | i16 | i8 | i4 | f32 | f16 | bf16 | e4m3 | e5m2 | e2m1 | c4 | e8m0
  deriving DecidableEq, Repr

/-- The RM field of R68: 0 rounds under RMODE; 6 and 7 are no mode. -/
inductive Rm | dflt | rne | rz | rd | ru | rs
  deriving DecidableEq, Repr

/-- The MS field of R21: no predicate, or a triple t0 to t20. -/
inductive Pred | none | t (k : Fin 21)
  deriving DecidableEq, Repr

/-- Scopes of R71. -/
inductive Scope | grp | team | core | dev | sys
  deriving DecidableEq, Repr

/-- The ORD field of R71. -/
inductive MemOrd | plain | acq | rel | acqrel
  deriving DecidableEq, Repr

/-- Access widths of R71. -/
inductive Width | w8 | w16 | w32 | w64 | w128
  deriving DecidableEq, Repr

/-- A scalar register number (R17). -/
abbrev SReg := BitVec 6
/-- A 9-bit register field (R13, R70). -/
abbrev VReg := BitVec 9

/-- Format SI (R66). -/
structure FmtSI where
  i : Bool
  fn : BitVec 3
  sb : SReg
  sa : SReg
  sd : SReg
  xf : BitVec 16
  lit : W32
  deriving DecidableEq, Repr

/-- Format V (R67, R68). -/
structure FmtV where
  s : Bool
  rm : Rm
  ty : Ty
  ms : Pred
  vc : VReg
  vb : VReg
  md : BitVec 4
  va : VReg
  vd : VReg
  deriving DecidableEq, Repr

/-- Format VI (R69): format V and a literal word. -/
structure FmtVI where
  v : FmtV
  lit : W32
  deriving DecidableEq, Repr

/-- Format M (R71). `sc` is the shift of the index scale. -/
structure FmtM where
  off : BitVec 8
  ms : Pred
  scope : Scope
  ord : MemOrd
  xi : Bool
  sc : Fin 5
  w : Width
  sa : SReg
  md : BitVec 4
  vx : VReg
  vd : VReg
  deriving DecidableEq, Repr

/-- Format MI (R72): format M and an operand word. -/
structure FmtMI where
  m : FmtM
  vc : VReg
  vb : VReg
  deriving DecidableEq, Repr

/-- Format X (R73). -/
structure FmtX where
  xop : BitVec 3
  rm : Rm
  sf : BitVec 2
  bs : BitVec 2
  tb : Ty
  xs : VReg
  xb : VReg
  ta : Ty
  xa : VReg
  xd : VReg
  deriving DecidableEq, Repr

/-- Format B (R74). -/
structure FmtB where
  tsel : BitVec 5
  off : BitVec 24
  all : Bool
  cnd : BitVec 3
  sb : SReg
  sa : SReg
  sd : SReg
  deriving DecidableEq, Repr

/-- Format W (R75). -/
structure FmtW where
  off3 : BitVec 16
  off2 : BitVec 16
  off1 : BitVec 16
  off0 : BitVec 16
  sel3 : BitVec 5
  sel2 : BitVec 5
  sel1 : BitVec 5
  sel0 : BitVec 5
  deriving DecidableEq, Repr

/-- Format T (R76). -/
structure FmtT where
  t : Bool
  opt : BitVec 3
  sub : BitVec 4
  ms : Pred
  vb : VReg
  va : VReg
  md : BitVec 4
  sb : SReg
  sa : SReg
  sd : SReg
  deriving DecidableEq, Repr

/-- The two engines of a cluster (R337). -/
inductive EngineKind | col | dyn
  deriving DecidableEq, Repr

/-- Where the host writes a register: the control window of R364, R418 and R430, or the management port of R412. -/
inductive RegSpace | bar0 | i3c
  deriving DecidableEq, Repr

/-- One host-link access into BAR2 (R365, R393, R413), the AtomicOps of a peer included. -/
inductive HostAccess
  | read (off size : Nat)
  | write (off : Nat) (bytes : List Byte)
  | fetchAdd (off : Nat) (wide : Bool) (v : W64)
  | swap (off : Nat) (wide : Bool) (v : W64)
  | cas (off : Nat) (wide : Bool) (cmp v : W64)
  deriving DecidableEq, Repr

/-- A physical location at which an error is met, one constructor per store of R425; `pa` is the physical address of
the 16 B sector held there, `slot` the group slot whose data the row holds. -/
inductive ErrLoc
  | regFile (core row slot : Nat)
  | scratchpad (core row : Nat)
  | sealStore (core row slot : Nat)
  | l1 (core row pa : Nat)
  | icache (core row pa : Nat)
  | l2 (slice line pa : Nat)
  | dram (chan row pa : Nat)
  deriving DecidableEq, Repr

/-- The meter readings of one charging interval in nJ (R419, R421); a core, cluster or channel not listed used none.
`core` lists (core, nJ), `copies` (core, context, nJ), `clu` (cluster, nJ), `col` and `dyn` (cluster, context, nJ),
`mem` (channel, nJ), `bytes` (channel, context, bytes moved), and `rest` is what only ETOT counts. -/
structure EnergyReading where
  core : List (Nat × Nat)
  copies : List (Nat × Nat × Nat)
  clu : List (Nat × Nat)
  col : List (Nat × Nat × Nat)
  dyn : List (Nat × Nat × Nat)
  mem : List (Nat × Nat)
  bytes : List (Nat × Nat × Nat)
  rest : Nat
  deriving DecidableEq, Repr

/-- Every row of the table of operations and events: the instructions in the table's order (R78 gives the opcodes), the
fault of a fetch, then the events (the chapters give the steps). An event of the host or the world carries its input; an event of
the device names the object that moves. -/
inductive Instr
  | nop
  | smov (d a : SReg)
  | smovPair (d a : SReg)
  | smovImm (d : SReg) (imm : BitVec 9)
  | sli (f : FmtSI)
  | sadd (d a b : SReg)
  | saddImm (d a : SReg) (imm : BitVec 9)
  | ssub (d a b : SReg)
  | ssubImm (d a : SReg) (imm : BitVec 9)
  | smul (d a b : SReg)
  | smulImm (d a : SReg) (imm : BitVec 9)
  | smulhs (d a b : SReg)
  | smulhsImm (d a : SReg) (imm : BitVec 9)
  | smulhn (d a b : SReg)
  | smulhnImm (d a : SReg) (imm : BitVec 9)
  | sand (d a b : SReg)
  | sandImm (d a : SReg) (imm : BitVec 9)
  | sor (d a b : SReg)
  | sorImm (d a : SReg) (imm : BitVec 9)
  | sxor (d a b : SReg)
  | sxorImm (d a : SReg) (imm : BitVec 9)
  | sandn (d a b : SReg)
  | sandnImm (d a : SReg) (imm : BitVec 9)
  | sshl (d a b : SReg)
  | sshlImm (d a : SReg) (imm : BitVec 5)
  | sshr (d a b : SReg)
  | sshrImm (d a : SReg) (imm : BitVec 5)
  | ssar (d a b : SReg)
  | ssarImm (d a : SReg) (imm : BitVec 5)
  | smin (d a b : SReg)
  | sminImm (d a : SReg) (imm : BitVec 9)
  | smax (d a b : SReg)
  | smaxImm (d a : SReg) (imm : BitVec 9)
  | sminn (d a b : SReg)
  | sminnImm (d a : SReg) (imm : BitVec 9)
  | smaxn (d a b : SReg)
  | smaxnImm (d a : SReg) (imm : BitVec 9)
  | sdivn (d a b : SReg)
  | sdivnImm (d a : SReg) (imm : BitVec 9)
  | sremn (d a b : SReg)
  | sremnImm (d a : SReg) (imm : BitVec 9)
  | scmp (f : FmtSI)
  | sadd64 (d a b : SReg)
  | sadd64Imm (d a : SReg) (imm : BitVec 9)
  | ssub64 (d a b : SReg)
  | ssub64Imm (d a : SReg) (imm : BitVec 9)
  | slea (fn : BitVec 3) (d a b : SReg)
  | sleaImm (d a : SReg) (imm : BitVec 9)
  | spopc (d a : SReg)
  | spopcL (d a : SReg)
  | sclz (d a : SReg)
  | sclzL (d a : SReg)
  | sbfx (f : FmtSI)
  | sbfi (f : FmtSI)
  | smask (fn : BitVec 3) (d a b : SReg)
  | br (f : FmtB)
  | brs (f : FmtB)
  | brv (f : FmtB)
  | bway (f : FmtW)
  | brany (f : FmtB)
  | jmp (a : SReg)
  | call (f : FmtB)
  | calli (d a : SReg)
  | ret (a : SReg)
  | syncs
  | exit
  | exitAll
  | yield
  | yieldImm (imm : BitVec 9)
  | trap (i : BitVec 7)
  | smovr (f : FmtSI)
  | smovw (f : FmtSI)
  | watch (d a : SReg)
  | tret
  | vmov (f : FmtV)
  | vli (f : FmtVI)
  | vadd (f : FmtV)
  | vsub (f : FmtV)
  | vmul (f : FmtV)
  | vmulh (f : FmtV)
  | vmad (f : FmtV)
  | vand (f : FmtV)
  | vor (f : FmtV)
  | vxor (f : FmtV)
  | vandn (f : FmtV)
  | vshl (f : FmtV)
  | vshr (f : FmtV)
  | vsar (f : FmtV)
  | vmin (f : FmtV)
  | vmax (f : FmtV)
  | vabs (f : FmtV)
  | vcmp (f : FmtV)
  | vsel (f : FmtV)
  | vpopc (f : FmtV)
  | vclz (f : FmtV)
  | vshuf (f : FmtV)
  | vbcst (f : FmtV)
  | vlane (f : FmtV)
  | vscan (f : FmtV)
  | vrowmap (f : FmtV)
  | vpack (f : FmtV)
  | vunpk (f : FmtV)
  | vbfx (f : FmtVI)
  | vv2s (f : FmtV)
  | vfadd (f : FmtV)
  | vfsub (f : FmtV)
  | vfmul (f : FmtV)
  | vfma (f : FmtV)
  | vfms (f : FmtV)
  | vfmin (f : FmtV)
  | vfmax (f : FmtV)
  | vfabs (f : FmtV)
  | vfneg (f : FmtV)
  | vfcmp (f : FmtV)
  | vfdiv (f : FmtV)
  | vfsqrt (f : FmtV)
  | vfclass (f : FmtV)
  | vfadda (f : FmtV)
  | vfdot2 (f : FmtV)
  | vfscale (f : FmtV)
  | vfrnd (f : FmtV)
  | vcvt (f : FmtV)
  | vcvts (f : FmtV)
  | vrcp (f : FmtV)
  | vrsq (f : FmtV)
  | vexp2 (f : FmtV)
  | vlog2 (f : FmtV)
  | vsin (f : FmtV)
  | vcos (f : FmtV)
  | vtanh (f : FmtV)
  | vsigm (f : FmtV)
  | vrand (f : FmtV)
  | vseed (f : FmtV)
  | qld (f : FmtM)
  | vmkabs (f : FmtV)
  | visabs (f : FmtV)
  | mma (f : FmtX)
  | mmas (f : FmtX)
  | aclr (f : FmtX)
  | adrain (f : FmtX)
  | amerge (f : FmtX)
  | vdot8 (f : FmtV)
  | vdot4 (f : FmtV)
  | vred (f : FmtV)
  | mtrans (f : FmtV)
  | ldg (f : FmtM)
  | stg (f : FmtM)
  | lds (f : FmtM)
  | sts (f : FmtM)
  | ldsm (f : FmtM)
  | stsm (f : FmtM)
  | ldfrag (f : FmtM)
  | ldu (f : FmtM)
  | stsc (f : FmtM)
  | atomg (f : FmtMI)
  | atoms (f : FmtMI)
  | redg (f : FmtMI)
  | bestmax (f : FmtM)
  | tld (f : FmtM)
  | tst (f : FmtM)
  | hld (f : FmtM)
  | citer (f : FmtMI)
  | ccount (f : FmtM)
  | fence (f : FmtM)
  | cache (f : FmtM)
  | disc (f : FmtM)
  | spawn (f : FmtT)
  | jrec (f : FmtT)
  | fnew (f : FmtT)
  | fres (f : FmtT)
  | fwait (f : FmtT)
  | fpoll (f : FmtT)
  | freg (f : FmtT)
  | fcan (f : FmtT)
  | swnew (f : FmtT)
  | swdl (f : FmtT)
  | swcan (f : FmtT)
  | swendClose (f : FmtT)
  | swendRun (f : FmtT)
  | barInit (f : FmtT)
  | barArrive (f : FmtT)
  | barWait (f : FmtT)
  | barExpect (f : FmtT)
  | barTest (f : FmtT)
  | cpy (f : FmtT)
  | cpydn (f : FmtT)
  | colqQpoint (f : FmtT)
  | colqQsphere (f : FmtT)
  | colqQseg (f : FmtT)
  | dyns (f : FmtT)
  | gqcfg (f : FmtT)
  | gqpush (f : FmtT)
  | gqpop (f : FmtT)
  | gqflush (f : FmtT)
  | pdef (f : FmtT)
  | palloc (f : FmtT)
  | pfree (f : FmtT)
  | preset (f : FmtT)
  | regdef (f : FmtT)
  | hstw (f : FmtT)
  | sigdec (f : FmtT)
  | fetchFault (code detail : Nat) (addr : W64)
  | createQueue (ctx q : Nat)
  | qwidxWrite (ctx q width : Nat) (v : W64)
  | sridxWrite (ctx k width : Nat) (v : W64)
  | registerWrite (space : RegSpace) (off width : Nat) (v : W64)
  | packetRead (ctx q : Nat)
  | nopPacket (ctx q : Nat)
  | launch (ctx q : Nat)
  | tasks (ctx q : Nat)
  | copyPacket (ctx q : Nat)
  | signalPacket (ctx q : Nat)
  | waitPacket (ctx q : Nat)
  | graph (ctx q : Nat)
  | rangeInval (ctx q : Nat)
  | rangeAcquire (ctx q : Nat)
  | rangeRelease (ctx q : Nat)
  | rangeClass (ctx q : Nat)
  | stream (ctx q : Nat)
  | packetComplete (ctx q n : Nat)
  | graphNodeComplete (ctx q n node : Nat)
  | teamAdmit (place : Nat)
  | yieldEnd (core slot lane : Nat)
  | watchWake (core slot lane : Nat)
  | watchTimeout (core slot lane : Nat)
  | cancelDelivery (core slot : Nat)
  | instructionComplete (core slot : Nat)
  | drainStampReached (stamp : Nat)
  | pageWalkDone (cluster ctx : Nat) (va : W64)
  | sealStoreStallEnd (core slot : Nat)
  | sealCommitDone (core slot : Nat)
  | teamFree (team : Nat)
  | copyComplete (core id : Nat)
  | copyFault (core id : Nat)
  | barWaitTimeout (core slot lane : Nat)
  | gqTimeout (core q : Nat)
  | gqTileDeliver (core q : Nat)
  | gqpushRetry (core slot lane : Nat)
  | joinDecrement (idx : Nat)
  | spawnRetry (core slot lane : Nat)
  | fwaitRecheck (core slot lane : Nat)
  | fwaitPollTimeout (core slot lane : Nat)
  | deadlineExpiry (ctx swarm : Nat)
  | engineEntryStart (cluster : Nat) (kind : EngineKind)
  | colqQueryDone (cluster id lane : Nat)
  | dynsBodyStep (cluster id : Nat)
  | hstwResume (core slot lane : Nat)
  | bar2Access (a : HostAccess)
  | thermtrip (k : Nat) (t : BitVec 16)
  | linkTraining (high : Bool)
  | ppsctlWrite (v : W32)
  | functionReady (bit : Nat)
  | destroyContext (ctx : Nat)
  | destroyQueue (ctx q : Nat)
  | queueFree (ctx q : Nat)
  | erridxWrite (width : Nat) (v : W64)
  | pcapWrite (width : Nat) (v : W64)
  | waitSatisfied (ctx q n : Nat)
  | coalesceTimeout (vec : Nat)
  | streamTimeout (ctx k : Nat)
  | starvationBoost (core slot : Nat)
  | splitEligibilityBoost (core slot lane : Nat)
  | splitFillDone (core slot lane : Nat)
  | spinDemote (core slot lane : Nat)
  | spinRestore (core slot lane : Nat)
  | spinRestoreTimeout (core slot lane : Nat)
  | residencyWaitEnd (ctx : Nat) (va : W64)
  | sealedRequeue (idx : Nat)
  | devicePushRetry (idx : Nat)
  | swarmCancelComplete (ctx swarm : Nat)
  | swarmFree (ctx swarm : Nat)
  | preempt (team : Nat)
  | teamResume (image place : Nat)
  | energyCharge (r : EnergyReading)
  | clockControl (temps : List (BitVec 16))
  | coreGateDecide (core : Nat)
  | coreGateCommit (core : Nat)
  | engineGate (cluster : Nat) (kind : EngineKind)
  | coreWake (core : Nat)
  | correctedError (loc : ErrLoc)
  | uncorrectableError (loc : ErrLoc)
  | controlParityError (cluster : Nat)
  | reset
  | resetRelease
  | ppsEdge
  | ppsEdgeMissed
  | ppscaploRead
  | attctlGo
  | attestationReport
  | boot
  | createContext
  | erdropRead
  | illop
  | refclkEdge
  | ppsSeenExpiry
  deriving DecidableEq, Repr

end Sys2Proof
end

