-- ==== Sys2Proof/Machine/State.lean ====
section
/-! DEFINITION. The state of the device as plain data: everything the specification gives the machine, from the boot
registers to the lanes of a split, and the state right after reset. -/

namespace Sys2Proof.Machine

/-- Memory as bytes by address in the canonical form of `SMap`; an unlisted byte reads zero. -/
abbrev Memory := List Host.Cell

/-! ### Identities and small records -/

/-- A split: its core, its group slot, and the lowest lane of its lane set. -/
structure SplitRef where
  core : Nat
  slot : Nat
  lane : Nat
  deriving DecidableEq, Repr

/-- A drain stamp (R255): the producing group and its write count. -/
structure Stamp where
  guid : Nat
  count : W32
  deriving DecidableEq, Repr

/-- A trap as raised (R79, R122): code, detail, address, the lanes that met it, and whether RESUMEPC is the next
instruction (TRAP codes). -/
structure TrapReq where
  code : Nat
  detail : Nat := 0
  addr : W64 := 0
  lanes : Mask
  deriving DecidableEq, Repr

/-- A trap that waits for the handler to end (R121, R398). -/
structure WaitingTrap where
  trappc : W64
  resume : W64
  addr : W64
  code : W64
  lanes : Mask
  lane : Nat
  deriving DecidableEq, Repr

/-- A task record (R263). `stampOf` is the producing group of STAMP, which the device keeps beside the record. -/
structure TaskRec where
  code : W64
  frame : W64
  result : W64
  swarm : BitVec 16
  prio : BitVec 8
  isSealed : Bool
  zsp : Bool
  width : BitVec 2
  lanes : BitVec 8
  scratch : BitVec 16
  vregs : BitVec 16
  join : BitVec 16
  stamp : W32
  stampOf : Nat
  args : List W32
  deriving DecidableEq, Repr

/-- A record in a queue (R267): its context, its level, the DTIME from which it waits, and how often an uncorrectable
error requeued it (R426); while it lies in its context's backing queue, `slot` is its slot of the ring in memory (R268). -/
structure QRec where
  ctx : Nat
  r : TaskRec
  level : Nat
  since : W64
  uncorr : Nat
  slot : Nat := 0
  deriving DecidableEq, Repr

/-- One row offered to a gather queue (R304). -/
structure GqRow where
  bytes : List Byte
  tag : W64
  fut : Bool
  stamp : Stamp
  time : W64
  deriving DecidableEq, Repr

/-! ### Accesses -/

/-- Who accesses: the TLB of its cluster or unit, the core whose PRIV pages it owns, the L1 it goes through, and the core
whose own TLB it asks first (R390). -/
structure Agent where
  tlb : Nat
  own : Option Nat
  l1 : Option Nat
  ctlb : Option Nat
  deriving DecidableEq, Repr

/-- Where a leaf points (R384): device memory, host memory by bus address, or the peer's BAR2 window. -/
inductive Space | dev | host | peer
  deriving DecidableEq, Repr

/-- A leaf found by a walk: the entry, its address, the page size, and the page. -/
structure Leaf where
  entry : W64
  at_ : Nat
  size : Nat
  deriving DecidableEq, Repr

/-- Kinds of access. -/
inductive Access | load | store | atomic | fetch
  deriving DecidableEq, Repr

/-- A translated address: its space and address, the page's class and flag, the leaf, and the entries a walk went through. -/
structure Xlate where
  space : Space
  pa : Nat
  cls : Nat
  seq : Bool
  leaf : Leaf
  path : List (Nat × W64) := []
  deriving DecidableEq, Repr

/-- An access that has loaded a leaf into a TLB or set D (R386). -/
structure Touched where
  ag : Agent
  ctx : Nat
  va : W64
  kind : Access
  x : Xlate
  deriving DecidableEq, Repr

/-! ### Splits -/

/-- Why an instruction waits to issue again with nothing done (R211): a page not resident or a channel not ready (R388,
R415), a full engine since a step (R337), full copy slots (R299), or seal-store units (R234). -/
inductive Stall
  | page (vas : List W64)
  | channel
  | engine (kind : EngineKind) (since : Nat)
  | copySlot
  /-- The group's limit of writes not performed (R255). -/
  | full (stamp : Stamp)
  | seal (units : Nat)
  deriving DecidableEq, Repr

/-- What an instruction that has issued, and has done the rest, holds while it waits for drain stamps (JREC, FPOLL, FWAIT: R255,
R272): whether it then acquires, and the scalars and the vector registers, by lane, that it then writes. -/
structure DrainWait where
  stamps : List Stamp
  acquire : Bool
  s : List (Nat × W32)
  v : List (Nat × Nat × W32)
  deriving DecidableEq, Repr

/-- What a split waits for. Its program counter stays at the waiting instruction. -/
inductive Park
  /-- Not waiting. -/
  | running
  /-- At SYNCS (R116). -/
  | syncs
  /-- In WATCH since a core cycle; the status goes to a scalar (R119). -/
  | watch (sd : SReg) (since : Nat)
  /-- In YIELD with I = 0: since a core cycle, for the splits whose lowest lanes are listed to issue (R118). -/
  | yieldAll (since : Nat) (others : List Nat)
  /-- In YIELD with a count: until a core cycle (R118). -/
  | yieldUntil (at_ : Nat)
  /-- In FWAIT: polling since a core cycle when a wake reference is missing, or woken by one (R284). -/
  | fwait (f : FmtT) (poll woken : Bool) (since : Nat)
  /-- In BAR WAIT on a token, with the DTIME of its first issue and its timeout (R302). -/
  | barWait (f : FmtT) (token : W32) (start : W64) (timeout : W32)
  /-- In GQPOP with no tile taken (R306). -/
  | gqpop (f : FmtT)
  /-- In GQPOP with tiles taken, until their stamps are performed at .core (R306). -/
  | gqTaken (f : FmtT) (tiles : List (List GqRow)) (fmt nk pad : Nat)
  /-- In SPAWN with records still to place, and the lanes placed; it yields since a core cycle, as `yieldAll` does (R270). -/
  | spawn (f : FmtT) (recs : List (Nat × TaskRec)) (placed : Mask) (since : Nat) (others : List Nat)
  /-- In GQPUSH .wait with rows still to enter, the lanes entered and the lanes active at issue; it yields since a core cycle,
  as `yieldAll` does (R304). -/
  | gqpush (f : FmtT) (rows : List (Nat × GqRow)) (entered act : Mask) (since : Nat) (others : List Nat)
  /-- In HSTW on a full stream, with the lanes still to write, the lanes written, the lanes active at issue, and its place in
  the line of those that wait (R380). -/
  | hstw (f : FmtT) (left : List Nat) (done act : Mask) (since : Nat)
  /-- In a sealed CPY into scratchpad, until the copy ends (R300). -/
  | sealCopy (id : Nat)
  /-- In an instruction that only drain stamps keep from its end (R255, R272). -/
  | drain (w : DrainWait)
  /-- Waiting to issue again. -/
  | stall (why : Stall)
  deriving DecidableEq, Repr

/-- A split's spin record (R218, R219): the last backward branch taken and the count; whether the iteration under way
has been idle, the one scalar it changed, and the 128 B lines it loaded (none noted once there are more than 4); a line
is a key of `lineKey`. -/
structure Spin where
  addr : Option W64
  n : Nat
  idle : Bool
  changed : Option Nat
  lines : List Nat
  tooMany : Bool
  deriving DecidableEq, Repr

/-- A split (R107): its program counter, its lanes, its exec mask and what it waits for; `trapped` while a trap of the
instruction it has issued waits for the handler to end (R112, R121); `eligibleAt` is the cycle in which it was last seen
eligible, or first seen (R216); `wstart` is the DTIME at which the wait that it is in first issued, `rewait` KIND and start of a wait
it issues again once resumed (R398, R403); `queued` is the step from which it has waited for an engine, kept while it issues
again (R337); `home` is its entry as its group's block holds it while it lies off chip (R215, R397); `issued` is the PC of the
instruction that it has issued and waits in, with nothing done yet (R112). -/
structure Split where
  pc : W64
  l : Mask
  e : Mask
  park : Park
  clkHi : Option W32
  timHi : Option W32
  spin : Spin
  demoted : Bool
  demotedAt : Nat
  notedHit : Bool
  noted : List Nat
  handling : Bool
  trapped : Bool
  spilled : Option Nat
  eligibleAt : Option Nat
  boosted : Bool
  token : BitVec 16
  wstart : W64
  rewait : Option (Nat × W64)
  queued : Option Nat
  home : List Byte := []
  issued : Option W64 := none
  deriving DecidableEq, Repr

/-! ### Groups and teams -/

/-- One buffered effect of a sealed group (R233, R258, R307). Stores and reductions name their place in memory by the key
of `spaceKey`, which their page held when they issued (R222 keeps it). -/
inductive SealOp
  /-- One 16 B sector: its place, and the bytes written as (offset, value). -/
  | sector (key : Nat) (bytes : List (Nat × Byte))
  | redg (key : Nat) (op : Nat) (wide : Bool) (v : W64)
  | bestmax (key : Nat) (cell : BitVec 128)
  | fres (va : W64) (v : W64)
  | spawn (r : TaskRec)
  | gqpush (q : Nat) (fmt nk : Nat) (row : GqRow)
  deriving DecidableEq, Repr

/-- A recorded PALLOC or PFREE of a sealed group (R322). -/
structure PoolRec where
  free : Bool
  pool : Nat
  cell : Nat
  gen : W32
  deriving DecidableEq, Repr

/-- The seal-store contents of one group: entries in the order they were created, the units they take, and the pool
records (R233), with the count of records that R322 limits; the numbers of the 4 KiB virtual pages that its entries lie in (R395);
whether a buffered effect releases at .dev (R251); and the accesses of its writes, whose D the commit sets (R259, R386). -/
structure SealBuf where
  entries : List SealOp
  units : Nat
  pool : List PoolRec
  poolN : Nat
  pages : List Nat := []
  rel : Bool := false
  writes : List Touched := []
  deriving DecidableEq, Repr

/-- The life of a group: running, or past its commit point (R222). -/
inductive GroupPhase | live | committing
  deriving DecidableEq, Repr

/-- A group: the state its instructions read and write (R11 to R35), and what the core keeps for it. -/
structure Group where
  ctx : Nat
  guid : Nat
  team : Nat
  gid : Nat
  width : Nat
  nreg : Nat
  v : SMap 32
  s : SMap 32
  h : SMap 256
  wBase : SMap 32
  wSize : SMap 32
  q : SMap 256
  rng : SMap 64
  fx : BitVec 7
  rmode : BitVec 3
  seed : W64
  tvec : W64
  prio : Nat
  swarm : Nat
  result : W64
  task : Option QRec
  block : Nat
  inHandler : Bool
  waiting : List WaitingTrap
  cancelPend : Bool
  splits : List Split
  lastIssued : Nat
  lastCycle : Nat
  boosted : Bool
  inflight : List (BitVec 7)
  writes : W32
  phases : Nat
  placedAt : Nat
  sealBuf : Option SealBuf
  phase : GroupPhase
  startWait : List Stamp
  usedGq : Bool
  touchedPriv : Bool
  deriving DecidableEq, Repr

/-- A named barrier (R301). `who` lists the GROUPIDs that have arrived in the phase (R212). -/
structure Barrier where
  init : Bool
  poison : Bool
  detail : Nat
  count : BitVec 16
  arr : Nat
  pend : Int
  phase : W32
  who : List Nat
  deriving DecidableEq, Repr

/-- A team on a core (R205): its place, its scratchpad range, its barriers, and the launch it belongs to (none for a
task); `sticky` once a group that has retired, or a copy, has used a gather queue or touched a PRIV page since the team was
placed (R402). -/
structure Team where
  ctx : Nat
  core : Nat
  launch : Option Nat
  coord : Nat × Nat × Nat
  grid : Nat × Nat × Nat
  tdim : Nat
  spBase : Nat
  spSize : Nat
  barBase : Nat
  bars : List Barrier
  relaunch : Nat
  faulted : Bool
  sticky : Bool := false
  deriving DecidableEq, Repr

/-! ### Contexts -/

/-- A cell pool (R313). -/
structure Pool where
  base : W64
  count : Nat
  map : W64
  csz : Nat
  defd : Bool
  bump : Nat
  free : Nat
  live : Nat
  gen : W32
  deriving DecidableEq, Repr

/-- A comb region (R325). -/
structure Comb where
  config : W64
  nent : W64
  root : Nat
  deriving DecidableEq, Repr

/-- States of a swarm that is in use (R289). -/
inductive SwarmState | live | closed | cancelling | cancelled
  deriving DecidableEq, Repr

/-- A swarm (R287, R288). `watch` is the first cell of its watch list in pool 0, `parked` counts its records parked by
JREC; `root` is the swarm that the cancellation it is under names (R290). -/
structure Swarm where
  st : SwarmState
  parent : Nat
  deadline : W64
  aval : Bool
  arst : Bool
  arena : Nat
  prio : Nat
  expiry : Option TaskRec
  cause : Nat
  watch : Nat
  parked : Nat
  root : Nat := 0
  deriving DecidableEq, Repr

/-- A host stream (R379). `fresh` counts entries since the last interrupt, `first` is the DTIME of the first of them. -/
structure HStream where
  ring : W64
  log2n : Nat
  esz : Nat
  drop : Bool
  rhost : Bool
  whost : Bool
  vec : Nat
  waddr : W64
  ncount : Nat
  tus : Nat
  widx : W64
  drops : W64
  fresh : Nat
  first : W64
  deriving DecidableEq, Repr

/-- What a node of a graph waits for (R378). -/
inductive NodeWork
  /-- Started, with its descriptors still to read. -/
  | begin
  | none
  | launch (id : Nat)
  | copy (core id : Nat)
  /-- A node that writes a stream: its next entry, and its place in the line of those that wait. -/
  | stream (next since : Nat)
  deriving DecidableEq, Repr

/-- A node of a running graph: its count of predecessors still awaited, and, while it runs, the words it read when it
started and its work (R378). -/
structure GNode where
  pend : Int
  running : Bool
  faulted : Bool
  words : List W64
  work : NodeWork
  deriving DecidableEq, Repr

/-- A graph in progress (R378). -/
structure Graph where
  nodes : W64
  nn : Nat
  maxIter : Nat
  iter : Nat
  rearm : Bool
  bad : Bool
  faulted : Bool
  node : AMap GNode
  deriving DecidableEq, Repr

/-- How far a packet has come (R368). -/
inductive PktState | read | started
  deriving DecidableEq, Repr

/-- What a started packet waits for (R369). -/
inductive PktWork
  /-- Started, with its descriptors still to read. -/
  | begin
  | none
  | launch (id : Nat)
  | tasks (next : Nat)
  | copy (core id : Nat)
  | wait
  | graph (g : Graph)
  deriving DecidableEq, Repr

/-- A packet read and not yet completed (R368, R369). `barrier` says that it starts only once every earlier one has
completed; `spans` are the virtual addresses that a RANGE has acted on (R292, R394). -/
structure Packet where
  n : Nat
  words : List W64
  st : PktState
  work : PktWork
  faulted : Bool
  aborted : Bool
  barrier : Bool
  startedAt : Nat := 0
  spans : List (Nat × Nat) := []
  deriving DecidableEq, Repr

/-- States of a command queue that exists (R364). -/
inductive QueueState | active | error
  deriving DecidableEq, Repr

/-- A command queue (R367, R368). `dying` while OP 4 waits for its packets (R376); `lastWait` when the packet read last was
a WAIT. -/
structure CQueue where
  base : W64
  log2n : Nat
  qhost : Bool
  rhost : Bool
  prio : Nat
  ridxAddr : W64
  errVec : Nat
  ridx : Nat
  widx : Nat
  st : QueueState
  dying : Bool
  lastWait : Bool
  pkts : List Packet
  deriving DecidableEq, Repr

/-- What started a launch or a copy of a command processor: the packet, and the node of a graph. -/
structure Source where
  ctx : Nat
  q : Nat
  n : Nat
  node : Option Nat
  deriving DecidableEq, Repr

/-- A rectangular copy (R295). -/
structure CpyDesc where
  src : W64
  dst : W64
  x0 : Nat
  x1 : Nat
  x2 : Nat
  esz : Nat
  ssp : Bool
  dsp : Bool
  ss1 : Int
  ss2 : Int
  ds1 : Int
  ds2 : Int
  ben : Bool
  bar : Nat
  fut : W64
  deriving DecidableEq, Repr

/-- A densifying copy (R334): the region with the CONFIG it had at issue, and the box. -/
structure DnDesc where
  region : Nat
  config : W64
  dst : W64
  ds1 : Int
  ds2 : Int
  ds3 : Int
  dsp : Bool
  absent : Bool
  ben : Bool
  bar : Nat
  fut : W64
  c : List Nat
  n : List Nat
  deriving DecidableEq, Repr

/-- The two kinds of copy. -/
inductive CopyKind
  | cpy (d : CpyDesc)
  | dn (d : DnDesc)
  deriving DecidableEq, Repr

/-- A copy in flight on a core's engine (R299), with the 64 bytes of its descriptor as read, and the launch whose group
issued it (R225); the elements that are written, and the bytes of those that are read and still to write (R297, R335). -/
structure Copy where
  id : Nat
  ctx : Nat
  team : Option Nat
  launch : Option Nat
  swarm : Nat
  kind : CopyKind
  raw : List W64
  stamp : Option Stamp
  src : Option Source
  moved : List Nat := []
  seen : AMap (List Byte) := []
  deriving DecidableEq, Repr

/-- A saved team (R399): the device's reference of +0x000, which is the team with its number, what each group keeps outside
outside its block, its copies in issue order, and the core it must resume on; the greatest effective priority it was saved with,
whether a CANCEL waits for it (R403, R405), and the DTIME from which it waits (R401). -/
structure Image where
  id : Nat
  team : Team
  aff : Option Nat
  groups : List Group
  copies : List Copy
  cancel : Bool
  prio : Nat
  since : W64
  deriving DecidableEq, Repr

/-- A context (R366, R381). -/
structure Ctx where
  ptroot : W64
  ctxmem : W64
  bqbase : W64
  bqsize : Nat
  ttvec : W64
  save : W64
  queues : AMap CQueue
  swarms : AMap Swarm
  lastSwarm : Nat
  pools : AMap Pool
  combs : AMap Comb
  streams : AMap HStream
  backing : List QRec
  images : AMap Image
  dying : Bool
  deriving DecidableEq, Repr

/-! ### Work in flight -/

/-- A kernel descriptor as read (R372). -/
structure KDesc where
  code : W64
  tvec : W64
  vregs : Nat
  scratch : Nat
  bars : Nat
  width : Nat
  idem : Bool
  zsp : Bool
  deriving DecidableEq, Repr

/-- An active launch (R207, R208, R371). `again` lists teams to place again (R426), `next` the next team in order. -/
structure Launch where
  src : Source
  kd : KDesc
  tdim : Nat
  prio : Nat
  grid : Nat × Nat × Nat
  seed : W64
  args : List W32
  next : Nat
  again : List (Nat × Nat)
  corePtr : Nat
  since : W64
  faulted : Bool
  abandoned : Bool
  deriving DecidableEq, Repr

/-- A collision query of one lane (R340). -/
inductive Query
  | point (c : Nat × Nat × Nat)
  | sphere (c : List W32)
  | seg (c : List W32)
  deriving DecidableEq, Repr

/-- One lane's query in an engine entry: its lane, its future, its operands, the region's entry as read when it started, and
the keys it has read, each with whether it was present (R347). -/
structure LaneQuery where
  lane : Nat
  fut : W64
  q : Query
  reg : Option Comb := none
  seen : AMap Bool := []
  deriving DecidableEq, Repr

/-- A dynamics step in progress (R349, R352): the descriptor's fields, the next body, and the counts; of the next body, the
words of 16 bytes already read; the words still to write, by their number from BODIES on; and of the bodies of which some words are
written, the place by `spaceKey`: a body is written under one translation (R353). -/
structure DynsWork where
  bodies : W64
  fut : W64
  g : List W32
  dt : W32
  n : Nat
  next : Nat
  nf : Nat
  nabs : Nat
  nstc : Nat
  nstep : Nat
  seen : AMap (List Byte) := []
  due : AMap (List Byte) := []
  opened : AMap Nat := []
  deriving DecidableEq, Repr

/-- What an engine entry holds (R337). -/
inductive EngineWork
  | colq (region : Nat) (left : List LaneQuery)
  | dyns (w : DynsWork)
  deriving DecidableEq, Repr

/-- An entry of a collision or dynamics engine (R337 to R339). -/
structure Entry where
  id : Nat
  ctx : Nat
  core : Nat
  swarm : Nat
  prio : Nat
  stamp : Stamp
  started : Bool
  work : EngineWork
  deriving DecidableEq, Repr

/-- A tile of a gather queue (R305). -/
structure Tile where
  rows : List GqRow
  ready : Bool
  deriving DecidableEq, Repr

/-- A configured gather queue (R303). -/
structure GQueue where
  ctx : Nat
  fmt : Nat
  nk : Nat
  depth : Nat
  tout : Nat
  pad : Nat
  tiles : List Tile
  deriving DecidableEq, Repr

/-- A priority lent to the occupant of a group slot through a future of a context, named by the key of its place (R286); `saved` names
a saved group that holds it, whatever occupies the slot (R404). -/
structure Lend where
  core : Nat
  slot : Nat
  ctx : Nat
  home : Nat
  prio : Nat
  saved : Option Nat := none
  deriving DecidableEq, Repr

/-- What a record parked in a cell of a context has been lent through its result future, named by the key of its place; 0 for
nothing (R286). -/
structure ParkedLend where
  ctx : Nat
  cell : Nat
  home : Nat
  prio : Nat
  deriving DecidableEq, Repr

/-- Where a record waits: a core's local queue, or a context's backing queue. -/
inductive RecordAt
  | localQ (core : Nat)
  | backing (ctx : Nat)
  deriving DecidableEq, Repr

/-- An armed WATCH monitor (R119). -/
structure Monitor where
  core : Nat
  slot : Nat
  lane : Nat
  line : Nat
  hit : Bool
  deriving DecidableEq, Repr

/-- A group's drain counts (R255): issued once it has retired, performed at .core and at .dev; and the launch it belongs to
(R225). -/
structure Drain where
  issued : W32
  core : W32
  done : W32
  launch : Option Nat
  deriving DecidableEq, Repr

/-- The stamp of a resolution not yet performed, by the key of the future's place; and the context that resolved it (R272). -/
structure FutStamp where
  ctx : Nat
  home : Nat
  stamp : Stamp
  deriving DecidableEq, Repr

/-- A decrement of JOIN that waits for its stamp (R272). -/
structure Join where
  ctx : Nat
  cell : Nat
  stamp : Option Stamp
  deriving DecidableEq, Repr

/-- A record the device holds because its queues are full (R267), and the parked cell it still occupies (R271). -/
structure HeldPush where
  core : Option Nat
  q : QRec
  cell : Option Nat
  deriving DecidableEq, Repr

/-- A sealed task's record held until a RANGE packet covers its page (R292). -/
structure HeldSealed where
  core : Nat
  q : QRec
  va : W64
  freed : Bool
  deriving DecidableEq, Repr

/-- A cached sector of an SWC or PRIV page in a core's L1 (R229): `dirty`, the bytes that the core has written; `priv`, only
under PRIV pages; `seen`, the bytes last written under a PRIV page, whose stores every scope sees (R251); `bad`, the poison mark of
a sector that was poisoned when it was filled, or that is `lost`, struck while dirty, until it is wholly written (R425). -/
structure L1Sector where
  core : Nat
  pa : Nat
  data : BitVec 128
  dirty : BitVec 16
  priv : Bool
  bad : BitVec 16 := 0
  seen : BitVec 16 := 0
  lost : Bool := false
  deriving DecidableEq, Repr

/-- A line that a core's L1 holds (R229, R231): its address over 128, and the U bit, unset while the instruction that
touched the line last is under way. A line with no sector of an SWC or PRIV page holds copies of HC sectors, whose bytes are
those of home. -/
structure L1Line where
  core : Nat
  line : Nat
  urgent : Option Bool
  deriving DecidableEq, Repr

/-- A line of a core's instruction cache (R232), by space and address; the sectors that were poisoned when it was filled (R425). -/
structure ICLine where
  core : Nat
  line : Nat
  data : List W32
  bad : BitVec 8
  deriving DecidableEq, Repr

/-- A word of memory as it stood before a store, by space and address over 4; and the cores whose CACHE .iinv has covered it
since, which fetch it no more (R60). -/
structure OldWord where
  key : Nat
  word : W32
  gone : List Nat
  deriving DecidableEq, Repr

/-- What a core has issued in its latest core cycle in which it issued (R82, R214): one more than the cycle, how many
instructions, and whether the group that R214 puts first was among them. -/
structure CoreCycle where
  cycle : Nat
  n : Nat
  first : Bool
  deriving DecidableEq, Repr

/-- A translation held by a TLB (R390), with the physical address of the entry it came from. The TLBs are those of the
clusters, 0 to 7, of the command processors, 8, of the units at the home slices, 9, and of core c, 16 + c. -/
structure TlbEntry where
  unit : Nat
  ctx : Nat
  vpage : Nat
  size : Nat
  leaf : W64
  at_ : Nat
  deriving DecidableEq, Repr

/-- An entry of a table of level 1 to 4 that a cluster's walker holds (R390), by the addresses it serves. -/
structure TableEntry where
  unit : Nat
  ctx : Nat
  lvl : Nat
  vpn : Nat
  entry : W64
  deriving DecidableEq, Repr

/-- Power states of a core or an engine (R423). -/
inductive Gate
  | on (idle : Option W64)
  | gating
  | gated (wake : Bool)
  deriving DecidableEq, Repr

/-- A tracked error location (R428). -/
structure Tracked where
  kind : Nat
  unit : Nat
  row : Nat
  n : Nat
  t1 : W64
  deriving DecidableEq, Repr

/-- An error record (R431). -/
structure ErrRec where
  type : Nat
  code : Nat
  detail : Nat
  ctx : Nat
  slot : Nat
  core : Nat
  swarm : Nat
  addr : W64
  time : W64
  unitKind : Nat
  unit : Nat
  row : Nat
  pc : W64
  deriving DecidableEq, Repr

/-- The core, the group slot and the swarm that an error record names in WHO (R431). -/
structure Who where
  core : Nat := 0
  slot : Nat := 0
  swarm : Nat := 0
  deriving DecidableEq, Repr

/-- The error ring and the counting windows (R428 to R430). -/
structure Errors where
  base : W64
  cfg : W64
  widx : W64
  ridx : W64
  drop : W64
  cewin : W64
  cethr : Nat
  held : List ErrRec
  tracked : List Tracked
  spares : AMap Nat
  deriving DecidableEq, Repr

/-- Interrupt coalescing and MSI-X (R364, R375). -/
structure Msix where
  icoal : SMap 64
  table : SMap 32
  pba : SMap 64
  pending : AMap (Nat × W64)
  sent : List Nat
  deriving DecidableEq, Repr

/-- What is still to be done for work that an error has ended (R426, R427): the pool operations to undo, latest first; then the
result to settle, or the record to queue again on a core. It waits for pages and channels, as any access of the units does. -/
structure Owed where
  ctx : Nat
  core : Nat
  slot : Nat := 0
  swarm : Nat
  ag : Agent
  undo : List PoolRec
  fut : Option W64
  st : Nat
  value : W64
  engine : Bool
  again : Option (Nat × QRec) := none
  deriving DecidableEq, Repr

/-! ### The device -/

/-- A candidate for which a command processor makes room (R401): a launch's head team, a task record, or a saved team. -/
inductive Cand
  | team (launch idx : Nat)
  | task (q : QRec)
  | saved (ctx image : Nat)
  deriving DecidableEq, Repr

/-- The energy the device has metered (R418), in nJ, and the reservoirs of the contexts. -/
structure Reservoir where
  share : Nat
  rcap : Nat
  afloor : Nat
  t0 : Nat
  rlvl : Int
  ectx : W64
  deriving DecidableEq, Repr

/-- Everything that work changes: memories, contexts, cores and what is in flight; `privUsed` while the step under way has
touched a PRIV page (R402); `touches`, the accesses of that step that have loaded a leaf or set D, latest first: a fault met after
them keeps them (R386); `balked`, the record that each core's last record candidate was where it did not pass R206 (R209). -/
structure Device where
  mem : Memory
  host : Memory
  peer : Memory
  poison : SMap 16
  spad : SMap 8
  spadOwner : SMap 8
  ctxs : AMap Ctx
  groups : AMap Group
  teams : AMap Team
  launches : AMap Launch
  local_ : AMap (List QRec)
  copies : AMap (List Copy)
  entries : AMap (List Entry)
  gqs : AMap GQueue
  drains : AMap Drain
  lends : List Lend
  parkedLends : List ParkedLend
  balked : AMap (RecordAt × QRec)
  monitors : List Monitor
  futStamps : List FutStamp
  joins : List Join
  joinFired : AMap Nat
  heldPush : List HeldPush
  heldSealed : List HeldSealed
  pageReqs : List (Nat × W64)
  privUsed : Bool
  touches : List Touched
  l1 : List L1Sector
  l1Lines : List L1Line
  icache : List ICLine
  old : List OldWord
  tlb : List TlbEntry
  tables : List TableEntry
  coreGate : AMap Gate
  engGate : AMap Gate
  errors : Errors
  msix : Msix
  sridx : SMap 64
  nextId : Nat
  rrBacking : Nat
  rrQueue : Nat
  roomFor : Option Cand
  issues : AMap Nat
  cycleIssues : AMap CoreCycle
  owed : List Owed
  hostRead : List Byte
  deriving DecidableEq, Repr

/-- Which part number the package is (R1). -/
inductive Part | a064 | a128 | a256
  deriving DecidableEq, Repr

/-- The image that runs (R414). -/
structure Firmware where
  digest : BitVec 512
  svn : W32
  deriving DecidableEq, Repr

/-- The energy block's device counters and the cap (R418, R420); the periods of 10 µs and of 1 µs of DTIME that the clock's
control and the charges have reached (R420, R421). -/
structure Energy where
  core : SMap 64
  clu : SMap 64
  col : SMap 64
  dyn : SMap 64
  mem : SMap 64
  tot : W64
  pcap : Nat
  thermal : Bool
  capped : Bool
  mhz : Nat
  samples : List (W64 × W64)
  controls : Nat
  charges : Nat
  res : AMap Reservoir
  deriving DecidableEq, Repr

/-- Discipline of DTIME by the PPS input (R411, R412): EN, LOCK, the capture with its frozen high word, the consecutive
edges within 100 ns, the capture after which the next edge is expected, and the DTIME of the last edge seen while bit 1 of
PPSSTAT is set. -/
structure Pps where
  en : Bool
  lock : Bool
  cap : W64
  capHi : Option W32
  good : Nat
  prev : Option W64
  edge : Option W64
  deriving DecidableEq, Repr

/-- Boot, clocks, management port, attestation and energy: what instructions read and never change. While a BOOT is under way,
`booting` holds the offset of its image and the staging buffer as the ROM reads it (R414); while an OP 1 or 3 waits for its
descriptor's channel, `mopWait` holds the OP, the context, the queue and MADDR (R365, R415). -/
structure Platform where
  part : Part
  dieRev : Byte
  svnMin : W32
  uid : BitVec 128
  inReset : Bool
  tripped : Bool
  linkWide : Option Bool
  dtime : W64
  dfrac : W32
  inc : Nat
  cycles : W64
  pps : Pps
  ready : W64
  offline : Byte
  fw : Option Firmware
  fails : Nat
  lastBoot : Nat
  staging : Memory
  booting : Option (Nat × Memory)
  mopWait : Option (Nat × Nat × Nat × W64)
  maddr : W64
  busy : Bool
  result : Nat
  newCtx : Nat
  tsens : SMap 16
  nonce : BitVec 256
  latched : BitVec 256
  attStatus : Nat
  attrep : List Byte
  energy : Energy
  deriving DecidableEq, Repr

/-- One turn of the machine: an event, or the issue of one instruction by a split. -/
inductive Turn
  | event (i : Instr)
  | issue (core slot lane : Nat)
  deriving DecidableEq, Repr

/-- The state of the machine: the platform, the device, the split that issues, the turns still to come, and the counter
that free choices are drawn with (the model's own). -/
structure State where
  plat : Platform
  dev : Device
  cur : SplitRef
  agenda : List Turn
  tick : Nat
  deriving DecidableEq, Repr

/-- What stops the machine. -/
inductive Fault
  /-- An instruction was run with no split to issue it: no live split of the machine is the one `cur` names. Raised by
  every instruction's meaning; safe: the device issues an instruction only from a live split (R211). -/
  | noIssuer
  deriving DecidableEq, Repr

/-- What has no meaning in the model. -/
inductive Refusal
  /-- The instruction's meaning is not written; raised by its arm in the dispatcher; safe: nothing can be proved of it. -/
  | notModelled (mnemonic : String)
  deriving DecidableEq, Repr

/-! ### Reset (R410) -/

/-- Energy after reset (R418). -/
def Energy.reset : Energy :=
  { core := [], clu := [], col := [], dyn := [], mem := [], tot := 0, pcap := 450, thermal := false, capped := false
    mhz := 2600, samples := [(0, 0)], controls := 0, charges := 0, res := [] }

/-- The PPS discipline after reset (R412). -/
def Pps.reset : Pps :=
  { en := false, lock := false, cap := 0, capHi := none, good := 0, prev := none, edge := none }

/-- The nominal DTIME increment of one REFCLK edge, 10.0 in 32.32 fixed point (R411). -/
def nominalInc : Nat := 10 * 2 ^ 32

/-- The platform after reset, held in reset; fuses and sensors at the values the log names (R410, R412, R418). -/
def Platform.reset : Platform :=
  { part := .a064, dieRev := 0, svnMin := 0, uid := 0, inReset := true, tripped := false, linkWide := none
    dtime := 0, dfrac := 0, inc := nominalInc, cycles := 0, pps := Pps.reset, ready := 0, offline := 0, fw := none, fails := 0
    lastBoot := 0, staging := [], booting := none, mopWait := none, maddr := 0, busy := false, result := 0, newCtx := 0, tsens := []
    nonce := 0, latched := 0, attStatus := 0, attrep := [], energy := Energy.reset }

/-- The error registers after reset (R430). -/
def Errors.reset : Errors :=
  { base := 0, cfg := 0, widx := 0, ridx := 0, drop := 0, cewin := 86400000000000, cethr := 3, held := []
    tracked := [], spares := [] }

/-- Interrupts after reset (R364). -/
def Msix.reset : Msix := { icoal := [], table := [], pba := [], pending := [], sent := [] }

/-- The device after reset: no context, no work, nothing listed in any memory (R410). -/
def Device.reset : Device :=
  { mem := [], host := [], peer := [], poison := [], spad := [], spadOwner := [], ctxs := [], groups := [], teams := []
    launches := [], local_ := [], copies := [], entries := [], gqs := [], drains := [], lends := [], parkedLends := [], balked := [], monitors := []
    futStamps := [], joins := [], joinFired := [], heldPush := [], heldSealed := [], pageReqs := [], privUsed := false, touches := [], l1 := [], l1Lines := []
    icache := [], old := [], tlb := [], tables := []
    coreGate := [], engGate := [], errors := Errors.reset, msix := Msix.reset, sridx := [], nextId := 1, rrBacking := 0
    rrQueue := 0, roomFor := none, issues := [], cycleIssues := [], owed := []
    hostRead := [] }

/-- The machine right after reset. -/
def State.reset : State :=
  { plat := Platform.reset, dev := Device.reset, cur := { core := 0, slot := 0, lane := 0 }, agenda := [], tick := 0 }

end Sys2Proof.Machine
end

