-- ==== Sys2Proof/Machine/Regs.lean ====
section
/-! DEFINITION. The registers of a group as its issuing split sees them: scalars, pairs, triples and the split's own exec
mask, predicates and active lanes, vector registers lane by lane (R11 to R22, R83, R128). -/

namespace Sys2Proof.Machine

/-- A group and the split of it that issues. -/
structure View where
  g : Group
  sp : Split
  deriving DecidableEq, Repr

/-- Lanes below a width. -/
def laneMask (w : Nat) : Mask := BitVec.ofNat 96 (2 ^ w - 1)

/-- The lanes of a mask, lowest first. -/
def lanesOf (m : Mask) : List Nat := (List.range 96).filter (fun l => m.getLsbD l)

/-- The lowest lane of a mask; 96 when it is empty. -/
def lowLane (m : Mask) : Nat := ((List.range 96).find? (fun l => m.getLsbD l)).getD 96

/-- Word j of a lane mask. -/
def maskWord (m : Mask) (j : Nat) : W32 := m.extractLsb' (32 * j) 32

/-- A lane mask from its three words. -/
def maskOf (w0 w1 w2 : W32) : Mask := w2 ++ w1 ++ w0

/-- A lane mask with word j replaced. -/
def setMaskWord (m : Mask) (j : Nat) (w : W32) : Mask :=
  match j with
  | 0 => maskOf w (maskWord m 1) (maskWord m 2)
  | 1 => maskOf (maskWord m 0) w (maskWord m 2)
  | _ => maskOf (maskWord m 0) (maskWord m 1) w

/-! ### Scalars (R17 to R19) -/

/-- A scalar register as a split reads it: s60 to s62 are its E, s63 is zero. -/
def View.s (x : View) (k : Nat) : W32 :=
  if k = 63 then 0 else if 60 ≤ k then maskWord x.sp.e (k - 60) else x.g.s.get k

/-- Write a scalar register: s63 discards, s60 to s62 are ANDed with L. -/
def View.setS (x : View) (k : Nat) (v : W32) : View :=
  if k = 63 then x
  else if 60 ≤ k then { x with sp := { x.sp with e := setMaskWord x.sp.e (k - 60) v &&& x.sp.l } }
  else { x with g := { x.g with s := x.g.s.set k v } }

/-- A pair, low word in the even register. -/
def View.pair (x : View) (k : Nat) : W64 := x.s (k + 1) ++ x.s k

/-- Write a pair. -/
def View.setPair (x : View) (k : Nat) (v : W64) : View :=
  (x.setS k (v.extractLsb' 0 32)).setS (k + 1) (v.extractLsb' 32 32)

/-! ### Triples and predicates (R20, R21) -/

/-- A triple as a lane mask; t20 is E. -/
def View.triple (x : View) (k : Nat) : Mask :=
  if k = 20 then x.sp.e else maskOf (x.s (3 * k)) (x.s (3 * k + 1)) (x.s (3 * k + 2))

/-- Write a triple: zero at and beyond GWIDTH, and ANDed with L for t20. -/
def View.setTriple (x : View) (k : Nat) (m : Mask) : View :=
  let m := m &&& laneMask x.g.width
  if k = 20 then { x with sp := { x.sp with e := m &&& x.sp.l } }
  else ((x.setS (3 * k) (maskWord m 0)).setS (3 * k + 1) (maskWord m 1)).setS (3 * k + 2) (maskWord m 2)

/-- The lanes a predicate admits. -/
def View.pred (x : View) : Pred → Mask
  | .none => x.sp.e
  | .t k => x.triple k.val

/-- The active lanes under a predicate (R128). -/
def View.active (x : View) (p : Pred) : Mask := x.sp.e &&& x.pred p

/-! ### Vector registers (R11) -/

/-- One lane of a vector register. -/
def Group.vreg (g : Group) (r lane : Nat) : W32 := g.v.get (r * 96 + lane)

/-- Write one lane of a vector register. -/
def Group.setV (g : Group) (r lane : Nat) (v : W32) : Group := { g with v := g.v.set (r * 96 + lane) v }

/-- Write a vector register in some lanes, from a value for each. -/
def Group.setVs (g : Group) (r : Nat) (l : List (Nat × W32)) : Group := l.foldl (fun g p => g.setV r p.1 p.2) g

/-- A lane's 64-bit value in a register pair, low register first. -/
def Group.vpair (g : Group) (r lane : Nat) : W64 := g.vreg (r + 1) lane ++ g.vreg r lane

/-- Write a lane's register pair. -/
def Group.setVpair (g : Group) (r lane : Nat) (v : W64) : Group :=
  (g.setV r lane (v.extractLsb' 0 32)).setV (r + 1) lane (v.extractLsb' 32 32)

/-- One lane of a vector register, as the issuing split reads it. -/
def View.v (x : View) (r lane : Nat) : W32 := x.g.vreg r lane

/-! ### Splits of a group -/

/-- Key of a group slot of the device. -/
def slotKey (core slot : Nat) : Nat := core * 48 + slot

/-- The lowest lane of a split's lane set. -/
def Split.low (sp : Split) : Nat := lowLane sp.l

/-- The split of a group whose lowest lane is given. -/
def Group.splitAt (g : Group) (lane : Nat) : Option Split := g.splits.find? (fun sp => sp.low = lane)

/-- The split of a group that holds a lane. -/
def Group.splitOf (g : Group) (lane : Nat) : Option Split := g.splits.find? (fun sp => sp.l.getLsbD lane)

/-- A split that waits for nothing. -/
def Split.free (sp : Split) : Bool := sp.park = .running

/-- A spin record with nothing noted. -/
def Spin.clear : Spin := { addr := none, n := 0, idle := true, changed := none, lines := [], tooMany := false }

/-- A new split. -/
def Split.start (pc : W64) (l e : Mask) : Split :=
  { pc, l, e, park := .running, clkHi := none, timHi := none, spin := Spin.clear, demoted := false, demotedAt := 0
    notedHit := false, noted := [], handling := false, trapped := false, spilled := none, eligibleAt := none, boosted := false, token := 0
    wstart := 0, rewait := none, queued := none }

end Sys2Proof.Machine
end

