-- ==== Sys2Proof/Config.lean ====
section
/-! DEFINITION. What the specification leaves to the implementation or leaves open: constants without a body, of which
no value can be proved. -/

namespace Sys2Proof.Config

/-- A free choice (R7): the k-th one of step `tick`. A consumer reduces it modulo the number of outcomes listed. -/
opaque freeNat (tick k : Nat) : Nat

/-- How many core cycles pass with a step (R81, R239: timing is not modelled, only that cycles are counted). -/
opaque cyclesPerStep (tick : Nat) : Nat

/-- The eight special functions of R159. -/
inductive Sfu | rcp | rsq | exp2 | log2 | sin | cos | tanh | sigm
  deriving DecidableEq, Repr

/-- The f32 code a special function would deliver for a present f32-valued input, given as sign, odd magnitude and binary
exponent (R159: fixed per input, any value within the bound). It is delivered only where R160 admits it. -/
opaque sfuValue (f : Sfu) (neg : Bool) (mag : Nat) (exp : Int) : W32

/-- ML-DSA-87 verification with the vendor key and an empty context (FIPS 204, R414). -/
opaque vendorVerify (digest : BitVec 512) (signature : List Byte) : Bool

/-- The identity key's ML-DSA-87 signature of a digest, 4,627 bytes (R417). -/
opaque identitySign (digest : BitVec 512) : List Byte

/-- The identity certificate, one word at a time from offset 0x3000 (R412, R417). -/
opaque idCert (k : Nat) : W32

/-- The LPDDR6 channel, 0 to 31 after reduction modulo 32, that stores a device physical address (R415). -/
opaque channelOf (pa : Nat) : Nat

/-- What a reset leaves of a memory whose contents it does not specify (R410): pairs of an index and a value. -/
opaque residue (tick which : Nat) : List (Nat × Nat)

end Sys2Proof.Config
end

