-- ==== Sys2Proof/WellFormed.lean ====
section
/-! DEFINITION. Which instructions are well formed: steps 4 to 6 of R61. A field's use in an instruction is named once,
in `Instr.shape`; from it come the checks of unused fields, register numbers, spans, pairs and triples (R13, R16, R17,
R21, R62, R70), and the register spans that step 7 checks against the allocation. -/

namespace Sys2Proof

/-- The TY code (R36). -/
def Ty.code : Ty → Nat
  | .b32 => 0 | .n32 => 1 | .s32 => 2 | .i32 => 3 | .i16 => 4 | .i8 => 5 | .i4 => 6 | .f32 => 7
  | .f16 => 8 | .bf16 => 9 | .e4m3 => 10 | .e5m2 => 11 | .e2m1 => 12 | .c4 => 13 | .e8m0 => 14

/-- The type a TY code names; 15 and above name none (R36). -/
def Ty.ofCode : Nat → Option Ty
  | 0 => some .b32 | 1 => some .n32 | 2 => some .s32 | 3 => some .i32 | 4 => some .i16 | 5 => some .i8
  | 6 => some .i4 | 7 => some .f32 | 8 => some .f16 | 9 => some .bf16 | 10 => some .e4m3 | 11 => some .e5m2
  | 12 => some .e2m1 | 13 => some .c4 | 14 => some .e8m0 | _ => none

/-- Bits per element (R36). -/
def Ty.bits : Ty → Nat
  | .b32 | .n32 | .s32 | .i32 | .f32 => 32
  | .i16 | .f16 | .bf16 => 16
  | .i8 | .e4m3 | .e5m2 | .e8m0 => 8
  | .i4 | .e2m1 | .c4 => 4

/-- Sub-elements per 32-bit lane register (R38). -/
def Ty.lanes (t : Ty) : Nat := 32 / t.bits

/-- Bytes of an access width (R71). -/
def Width.bytes : Width → Nat
  | .w8 => 1 | .w16 => 2 | .w32 => 4 | .w64 => 8 | .w128 => 16

/-- Registers of 32 bits an access width spans (R13, R171). -/
def Width.regs : Width → Nat
  | .w8 | .w16 | .w32 => 1 | .w64 => 2 | .w128 => 4

/-- Scopes from narrow to wide (R71). -/
def Scope.rank : Scope → Nat
  | .grp => 0 | .team => 1 | .core => 2 | .dev => 3 | .sys => 4

/-- How an instruction uses a 9-bit register field (R13, R70): not at all, a run of n vector registers, such a run on an
even base, a scalar, an even scalar pair, a triple, or a small number below a bound. -/
inductive VUse
  | zero | vec (n : Nat) | evec (n : Nat) | sca | pair | tri | below (n : Nat)
  deriving DecidableEq, Repr

/-- The field holds a value its use accepts (R13, R16, R17, R62, R70). -/
def VUse.ok (u : VUse) (r : VReg) : Bool :=
  match u with
  | .zero => r.toNat = 0
  | .vec n => r.toNat + n ≤ 320
  | .evec n => r.toNat % 2 = 0 && r.toNat + n ≤ 320
  | .sca => r.toNat < 64
  | .pair => r.toNat < 64 && r.toNat % 2 = 0
  | .tri => r.toNat ≤ 20
  | .below n => r.toNat < n

/-- The vector registers the field spans, as base and count (R13). -/
def VUse.span (u : VUse) (r : VReg) : List (Nat × Nat) :=
  match u with
  | .vec n | .evec n => [(r.toNat, n)]
  | _ => []

/-- How an instruction uses a 6-bit scalar field. -/
inductive SUse | zero | one | pair | tri
  deriving DecidableEq, Repr

/-- The field holds a value its use accepts (R17, R62, R70). -/
def SUse.ok (u : SUse) (r : SReg) : Bool :=
  match u with
  | .zero => r.toNat = 0
  | .one => true
  | .pair => r.toNat % 2 = 0
  | .tri => r.toNat ≤ 20

/-- What an instruction asks of its fields: the vector fields and their uses, the scalar fields and theirs, and
whether every code in it (type, mode, modifier, sub-operation, order, scope, width) is one it accepts. -/
structure Shape where
  v : List (VUse × VReg) := []
  s : List (SUse × SReg) := []
  codes : Bool := true

/-- All uses and codes accepted. -/
def Shape.ok (x : Shape) : Bool :=
  x.codes && x.v.all (fun p => p.1.ok p.2) && x.s.all (fun p => p.1.ok p.2)

/-- How an instruction uses FL.RM (R68, R129). -/
inductive RmUse | none | rnd | rnds
  deriving DecidableEq, Repr

/-- The RM value is accepted (R68). -/
def RmUse.ok (u : RmUse) (r : Rm) : Bool :=
  match u with
  | .none => r = .dflt
  | .rnd => r ≠ .rs
  | .rnds => true

/-- Operand B of formats V and VI: a scalar when FL.S is set and accepted, else as `u` says (R68). -/
def FmtV.useB (f : FmtV) (u : VUse) : VUse := if f.s then .sca else u

/-- Shape of a format V instruction: uses of VD, VA, VB (when S = 0) and VC; whether S is accepted; the use of RM; the
types; the bound of MOD. -/
def FmtV.shape (f : FmtV) (d a b c : VUse) (sOk : Bool) (rm : RmUse) (tys : List Ty) (mods : Nat) : Shape :=
  { v := [(d, f.vd), (a, f.va), (f.useB b, f.vb), (c, f.vc)]
    codes := (sOk || !f.s) && rm.ok f.rm && tys.contains f.ty && decide (f.md.toNat < mods) }

/-- MS holds no predicate or t20, for an instruction that accepts 0 and 21 only (R198, R294). -/
def Pred.fullOnly (p : Pred) : Bool := p = .none || p = .t 20

/-- MS holds no predicate. -/
def Pred.isNone (p : Pred) : Bool := p = .none

/-- ORD and SCOPE of a plain access (R71): the order is one of `ords`, and a plain order has SCOPE 0. -/
def FmtM.ordOk (f : FmtM) (ords : List MemOrd) : Bool :=
  ords.contains f.ord && (f.ord ≠ .plain || f.scope = .grp)

/-- Scratchpad accesses accept .grp, .team and .core (R170). -/
def FmtM.scopeSp (f : FmtM) : Bool := decide (f.scope.rank ≤ 2)

/-- The index register: used when XI = 1, reserved otherwise (R71). SC is read in both cases (log entry 53). -/
def FmtM.useX (f : FmtM) : VUse × VReg := (if f.xi then .vec 1 else .zero, f.vx)

/-- XI, SC and VX all zero. -/
def FmtM.noIndex (f : FmtM) : Bool := !f.xi && f.sc = 0 && f.vx = 0

/-- Shape of LDG, STG, LDS, STS: data span by W, base a pair (global) or a scalar (scratchpad) (R171). -/
def FmtM.accShape (f : FmtM) (sp : Bool) (ords : List MemOrd) (codes : Bool) : Shape :=
  { v := [(.vec f.w.regs, f.vd), f.useX]
    s := [(if sp then .one else .pair, f.sa)]
    codes := codes && f.ordOk ords && (!sp || f.scopeSp) }

/-- MOD of a load: 0, or 1 with a width of 8 or 16 (R171). -/
def FmtM.sxOk (f : FmtM) : Bool := f.md = 0 || (f.md = 1 && (f.w = .w8 || f.w = .w16))

/-- Atomic operations and their widths (R177). -/
def FmtMI.atomOk (f : FmtMI) : Bool :=
  (f.m.w = .w32 || f.m.w = .w64) && decide (f.m.md.toNat < 15) &&
    (f.m.w = .w32 || !([1, 4, 7, 14].contains f.m.md.toNat))

/-- A data operand of an atomic: one register, or at 64 bits a pair, which begins on an even number (R61, R177). -/
def FmtMI.data (f : FmtMI) : VUse := if f.m.w = .w64 then .evec 2 else .vec 1

/-- The compare register: used by CAS only (R72). -/
def FmtMI.useC (f : FmtMI) : VUse × VReg := (if f.m.md = 12 then f.data else .zero, f.vc)

/-- Operand classes of MMA and MMAS by type (R187): 16-bit, 8-bit float, i8, 4-bit float and codebook, i4. -/
def mmaClass : Ty → Nat
  | .f16 | .bf16 => 1 | .e4m3 | .e5m2 => 2 | .i8 => 3 | .e2m1 | .c4 => 4 | .i4 => 5 | _ => 0

/-- TA and TB of one class (R187), and XOP names a codebook only when an operand is c4 (R189). -/
def FmtX.mmaOk (f : FmtX) : Bool :=
  mmaClass f.ta ≠ 0 && mmaClass f.ta = mmaClass f.tb && (f.xop = 0 || f.ta = .c4 || f.tb = .c4)

/-- B-scale registers after the A-scale register of MMAS (R192). -/
def FmtX.scaleRegs (f : FmtX) : Nat := if f.bs = 0 then 4 else if f.bs = 1 then 2 else 1

/-- Shape of a format T instruction: uses of VA and VB, of SA, SB, SD, and whether T, OPT, SUB and MOD are accepted. -/
def FmtT.shape (f : FmtT) (va vb : VUse) (sa sb sd : SUse) (tOk : Bool) (opts : Nat) (subs mods : Nat) : Shape :=
  { v := [(va, f.va), (vb, f.vb)]
    s := [(sa, f.sa), (sb, f.sb), (sd, f.sd)]
    codes := (tOk || !f.t) && decide (f.opt.toNat &&& opts = f.opt.toNat) && decide (f.sub.toNat < subs)
      && decide (f.md.toNat < mods) }

/-- Shape of a format B instruction (R74): which of TSEL, A, CND, SB, SA, SD it uses. -/
def FmtB.shape (f : FmtB) (tsel all cnd : Bool) (sb sa sd : SUse) : Shape :=
  { s := [(sb, f.sb), (sa, f.sa), (sd, f.sd)]
    codes := (if tsel then decide (f.tsel.toNat ≤ 20) else f.tsel = 0) && (all || !f.all) && (cnd || f.cnd = 0) }

/-- One way of BWAY: a selector of at most 20, zero when the way is absent (R75). -/
def wayOk (off : BitVec 16) (sel : BitVec 5) : Bool := decide (sel.toNat ≤ 20) && (off ≠ 0 || sel = 0)

/-- Position and width of a bit field stay within 32 bits (R104, R145). -/
def fieldOk (pos wm1 : Nat) : Bool := decide (pos + wm1 + 1 ≤ 32)

/-- A special-register index of R29 that SMOVR accepts. -/
def sregIndexOk (k : Nat) : Bool :=
  decide (k ≤ 0x00E) || [0x010, 0x011, 0x012, 0x013, 0x014, 0x016, 0x017, 0x018, 0x019, 0x020, 0x021, 0x022, 0x023].contains k
    || (decide (0x040 ≤ k) && decide (k ≤ 0x04F)) || (decide (0x060 ≤ k) && decide (k ≤ 0x09F))
    || (decide (0x100 ≤ k) && decide (k ≤ 0x17F))

/-- A special-register index of R29 marked RW, which SMOVW accepts. -/
def sregWritable (k : Nat) : Bool :=
  [0x020, 0x021, 0x022, 0x023].contains k || (decide (0x040 ≤ k) && decide (k ≤ 0x04F))
    || (decide (0x068 ≤ k) && decide (k ≤ 0x09F))

/-- The 10-bit index of SMOVR and SMOVW (R66, R120). -/
def FmtSI.index (f : FmtSI) : Nat := (f.xf.extractLsb' 0 10).toNat

/-- The types an element-wise data-integer instruction accepts (R133). -/
def intTys : List Ty := [.n32, .s32, .i32, .i16, .i8, .i4]
/-- The types an element-wise floating-point instruction accepts (R148). -/
def floatTys : List Ty := [.f32, .f16, .bf16]

/-- VCVT: source and target types, codebook and part (R156). -/
def FmtV.cvtOk (f : FmtV) : Bool :=
  match Ty.ofCode f.md.toNat with
  | none => false
  | some src =>
    src ≠ .b32 && f.ty ≠ .b32 && f.ty ≠ .c4 && (src = .c4 || f.vb = 0)
      && decide (f.vc.toNat < max 1 (max (f.ty.lanes / src.lanes) (src.lanes / f.ty.lanes)))

/-- The shape of every instruction; an event of the device has no fields. The vector registers of a 64- or 128-bit width are a
span, which may begin on any number (log entry 53). -/
def Instr.shape : Instr → Shape
  | .nop => {}
  | .smov _ _ => {}
  | .smovPair d a => { s := [(.pair, d), (.pair, a)] }
  | .smovImm _ _ => {}
  | .sli f => { s := [(.zero, f.sa), (.zero, f.sb), (if f.fn = 0 then .one else .pair, f.sd)]
                codes := f.i && f.xf = 0 && decide (f.fn.toNat < 4) }
  | .sadd _ _ _ | .ssub _ _ _ | .smul _ _ _ | .smulhs _ _ _ | .smulhn _ _ _ | .sand _ _ _ | .sor _ _ _ | .sxor _ _ _
  | .sandn _ _ _ | .sshl _ _ _ | .sshr _ _ _ | .ssar _ _ _ | .smin _ _ _ | .smax _ _ _ | .sminn _ _ _ | .smaxn _ _ _
  | .sdivn _ _ _ | .sremn _ _ _ => {}
  | .saddImm _ _ _ | .ssubImm _ _ _ | .smulImm _ _ _ | .smulhsImm _ _ _ | .smulhnImm _ _ _ | .sandImm _ _ _
  | .sorImm _ _ _ | .sxorImm _ _ _ | .sandnImm _ _ _ | .sshlImm _ _ _ | .sshrImm _ _ _ | .ssarImm _ _ _
  | .sminImm _ _ _ | .smaxImm _ _ _ | .sminnImm _ _ _ | .smaxnImm _ _ _ | .sdivnImm _ _ _ | .sremnImm _ _ _ => {}
  | .scmp f =>
    let l := f.xf.getLsbD 4
    { s := [(if l then .pair else .one, f.sa), (if f.i then .zero else if l then .pair else .one, f.sb), (.one, f.sd)]
      codes := f.fn = 0 && decide ((f.xf.extractLsb' 0 4).toNat ≤ 9) && f.xf.extractLsb' 5 11 = 0 && (f.i || f.lit = 0) }
  | .sadd64 d a b | .ssub64 d a b => { s := [(.pair, d), (.pair, a), (.pair, b)] }
  | .sadd64Imm d a _ | .ssub64Imm d a _ => { s := [(.pair, d), (.pair, a)] }
  | .slea fn d a _ => { s := [(.pair, d), (.pair, a)], codes := decide (fn.toNat ≤ 4) }
  | .sleaImm d a _ => { s := [(.pair, d), (.pair, a)] }
  | .spopc _ _ | .sclz _ _ => {}
  | .spopcL _ a | .sclzL _ a => { s := [(.pair, a)] }
  | .sbfx f => { s := [(.zero, f.sb)]
                 codes := !f.i && f.fn = 0 && f.lit = 0 && f.xf.extractLsb' 5 3 = 0 && f.xf.extractLsb' 13 2 = 0
                   && fieldOk (f.xf.extractLsb' 0 5).toNat (f.xf.extractLsb' 8 5).toNat }
  | .sbfi f => { s := [(.zero, f.sb)]
                 codes := !f.i && f.fn = 0 && f.lit = 0 && f.xf.extractLsb' 5 3 = 0 && f.xf.extractLsb' 13 3 = 0
                   && fieldOk (f.xf.extractLsb' 0 5).toNat (f.xf.extractLsb' 8 5).toNat }
  | .smask fn d a b => { s := [(.tri, d), (.tri, a), (if fn.toNat ≥ 4 then .zero else .tri, b)], codes := decide (fn.toNat ≤ 5) }
  | .br f => f.shape false false false .zero .zero .zero
  | .brs f => f.shape false false true (if f.cnd.toNat ≥ 6 then .zero else .one) .one .zero
  | .brv f => f.shape true false false .zero .zero .zero
  | .brany f => f.shape true true false .zero .zero .zero
  | .call f => f.shape false false false .zero .zero .pair
  | .bway f => { codes := wayOk f.off0 f.sel0 && wayOk f.off1 f.sel1 && wayOk f.off2 f.sel2 && wayOk f.off3 f.sel3
                   && (f.off0 ≠ 0 || f.off1 ≠ 0 || f.off2 ≠ 0 || f.off3 ≠ 0) }
  | .jmp a | .ret a => { s := [(.pair, a)] }
  | .calli d a => { s := [(.pair, d), (.pair, a)] }
  | .syncs | .exit | .exitAll | .yield | .tret => {}
  | .yieldImm _ => {}
  | .trap _ => {}
  | .smovr f => { s := [(.zero, f.sa), (.zero, f.sb), (.one, f.sd)]
                  codes := !f.i && f.fn = 0 && f.lit = 0 && f.xf.extractLsb' 10 6 = 0 && sregIndexOk f.index }
  | .smovw f => { s := [(if f.i then .zero else .one, f.sa), (.zero, f.sb), (.zero, f.sd)]
                  codes := f.fn = 0 && (f.i || f.lit = 0) && f.xf.extractLsb' 10 6 = 0 && sregWritable f.index }
  | .watch _ a => { s := [(.pair, a)] }
  -- class 2
  | .vmov f => f.shape (.vec 1) (if f.s then .zero else .vec 1) .zero .zero true .none [.b32] 1
  | .vli f => let x := f.v.shape (.vec 1) .zero .zero .zero false .none [.b32] 1; { x with codes := x.codes }
  | .vadd f | .vsub f | .vmul f => f.shape (.vec 1) (.vec 1) (.vec 1) .zero true .none intTys 1
  | .vmulh f => f.shape (.vec 1) (.vec 1) (.vec 1) .zero true .none [.n32, .s32] 1
  | .vmad f => f.shape (.vec 1) (.vec 1) (.vec 1) (.vec 1) true .none intTys 1
  | .vand f | .vor f | .vxor f | .vandn f | .vshl f | .vshr f | .vsar f =>
    f.shape (.vec 1) (.vec 1) (.vec 1) .zero true .none [.b32] 1
  | .vmin f | .vmax f => f.shape (.vec 1) (.vec 1) (.vec 1) .zero true .none intTys 1
  | .vabs f => f.shape (.vec 1) (.vec 1) .zero .zero false .none [.s32, .i32, .i16, .i8, .i4] 1
  | .vcmp f => f.shape .tri (.vec 1) (.vec 1) .zero true .none [.b32, .n32, .s32, .i32] (if f.ty = .b32 then 2 else 6)
  | .vsel f => f.shape (.vec 1) (.vec 1) (.vec 1) .tri true .none [.b32] 1
  | .vpopc f | .vclz f => f.shape (.vec 1) (.vec 1) .zero .zero false .none [.b32] 1
  | .vshuf f => f.shape (.vec 1) (.vec 1) (.vec 1) .zero true .none [.b32] 4
  | .vbcst f => let x := f.shape (.vec 1) (.vec 1) .zero .zero (f.md = 0) .none [.b32] 2
                { x with codes := x.codes && (f.md = 1 || f.s) }
  | .vlane f => f.shape (.vec 1) .zero .zero .zero false .none [.b32] 3
  | .vscan f => f.shape (.vec 1) (.vec 1) .zero .zero false (if f.ty = .f32 && f.md.toNat < 2 then .rnd else .none)
                  [.n32, .s32, .i32, .f32] 4
  | .vrowmap f => let x := f.shape (.vec 1) (.vec 1) .zero .sca true .none [.b32] 2
                  { x with codes := x.codes && f.s }
  | .vpack f => f.shape (.vec 1) (.vec 1) (.vec 1) .zero true .none [.i16, .i8, .i4] 2
  | .vunpk f => let x := f.shape (.vec 1) (.vec 1) .zero .zero false .none [.i16, .i8, .i4] 16
                { x with codes := x.codes && decide (f.md.toNat % 8 < f.ty.lanes) }
  | .vbfx f => let x := f.v.shape (.vec 1) (.vec 1) .zero .zero false .none [.b32] 1
               { x with codes := x.codes && f.lit.extractLsb' 5 3 = 0 && f.lit.extractLsb' 13 3 = 0 && f.lit.extractLsb' 17 15 = 0
                   && fieldOk (f.lit.extractLsb' 0 5).toNat (f.lit.extractLsb' 8 5).toNat }
  | .vv2s f => f.shape .sca (.vec 1) (if f.md = 0 then .below 96 else .zero) .zero false .none [.b32] 2
  -- class 3
  | .vfadd f | .vfsub f | .vfmul f | .vfdiv f | .vfadda f | .vfscale f =>
    f.shape (.vec 1) (.vec 1) (.vec 1) .zero true .rnd floatTys 1
  | .vfma f | .vfms f => f.shape (.vec 1) (.vec 1) (.vec 1) (.vec 1) true .rnd floatTys 1
  | .vfmin f | .vfmax f => f.shape (.vec 1) (.vec 1) (.vec 1) .zero true .none floatTys 1
  | .vfabs f | .vfneg f | .vfclass f => f.shape (.vec 1) (.vec 1) .zero .zero false .none floatTys 1
  | .vfcmp f => f.shape .tri (.vec 1) (.vec 1) .zero true .none [.f32] 8
  | .vfsqrt f => f.shape (.vec 1) (.vec 1) .zero .zero false .rnd floatTys 1
  | .vfdot2 f => f.shape (.vec 1) (.vec 1) (.vec 1) (.vec 1) true .rnd [.f16, .bf16] 1
  | .vfrnd f => f.shape (.vec 1) (.vec 1) .zero .zero false .rnd floatTys 2
  -- class 4
  | .vcvt f => let x := f.shape (.vec 1) (.vec 1) (.below 8) (.below 8) false .rnds
                 [.n32, .s32, .i32, .i16, .i8, .i4, .f32, .f16, .bf16, .e4m3, .e5m2, .e2m1, .e8m0] 16
               { x with codes := x.codes && f.cvtOk }
  | .vcvts f => f.shape (.vec 1) (.vec 1) (.vec 1) (.below f.ty.lanes) true .rnds
                  [.i8, .i4, .f16, .bf16, .e4m3, .e5m2, .e2m1] 3
  | .vrcp f | .vrsq f | .vexp2 f | .vlog2 f | .vsin f | .vcos f | .vtanh f | .vsigm f =>
    f.shape (.vec 1) (.vec 1) .zero .zero false .none floatTys 1
  | .vrand f => f.shape (.vec 1) .zero .zero .zero false .none [.b32, .f32] 1
  | .vseed f => let x : Shape := if f.md = 0 then f.shape .zero (.vec 1) (.vec 1) .zero false .none [.b32] 1
                                 else f.shape .zero .zero .zero .zero true .none [.b32] 2
                if f.md = 0 then x else { x with v := [(.zero, f.vd), (.zero, f.va), (.pair, f.vb), (.zero, f.vc)], codes := x.codes && f.s }
  | .qld f => { v := [(.zero, f.vd), (.zero, f.vx)], s := [(.pair, f.sa)]
                codes := f.noIndex && f.w = .w8 && decide (1 ≤ f.md.toNat) && decide (f.md.toNat ≤ 7) && f.ordOk [.plain, .acq] }
  | .vmkabs f => f.shape (.vec 1) .zero .zero .zero false .none
                   [.i32, .i16, .i8, .i4, .f32, .f16, .bf16, .e4m3, .e5m2, .e2m1, .e8m0] 1
  | .visabs f => f.shape .tri (.vec 1) (if f.ty = .c4 then .below 8 else .zero) .zero false .none
                   [.i32, .i16, .i8, .i4, .f32, .f16, .bf16, .e4m3, .e5m2, .e2m1, .c4, .e8m0] 2
  -- class 5
  | .mma f => { v := [(.evec 12, f.xd), (.vec 4, f.xa), (.vec 16, f.xb), (.zero, f.xs)]
                codes := f.mmaOk && f.rm ≠ .rs && f.sf = 0 && f.bs = 0 }
  | .mmas f => { v := [(.evec 12, f.xd), (.vec 4, f.xa), (.vec 16, f.xb), (.vec (1 + f.scaleRegs), f.xs)]
                 codes := f.mmaOk && mmaClass f.ta ≠ 1 && f.rm ≠ .rs && f.sf ≠ 3 && f.bs ≠ 3 }
  | .aclr f => { v := [(.evec 12, f.xd), (.zero, f.xa), (.zero, f.xb), (.zero, f.xs)]
                 codes := (f.xop = 0 || f.xop = 4) && f.rm = .dflt && f.sf = 0 && f.bs = 0 && f.ta = .b32 && f.tb = .b32 }
  | .adrain f => { v := [(.evec 12, f.xd), (.vec (8 / f.ta.lanes), f.xa), (.zero, f.xb), (.zero, f.xs)]
                   codes := f.sf = 0 && f.bs = 0 && f.tb = .b32 &&
                     (match (f.xop.extractLsb' 0 2).toNat with
                      | 0 | 1 => [Ty.i32, .i16, .i8, .i4, .f32, .f16, .bf16, .e4m3, .e5m2, .e2m1, .e8m0].contains f.ta
                      | 2 => f.ta = .n32
                      | _ => false) }
  | .amerge f => { v := [(.evec 12, f.xd), (.evec 12, f.xa), (.zero, f.xb), (.zero, f.xs)]
                   codes := f.xop = 0 && f.rm ≠ .rs && f.sf = 0 && f.bs = 0 && f.ta = .b32 && f.tb = .b32 }
  | .vdot8 f => let x := f.shape (.evec 3) (.vec 1) (.vec 1) (if f.md.getLsbD 1 then .zero else .vec 1) true .rnd [.e2m1, .i4] 12
                { x with codes := x.codes && (!f.md.getLsbD 1 || decide (f.md.toNat < 4)) }
  | .vdot4 f => let x := f.shape (.evec 3) (.vec 1) (.vec 1) (if f.md.getLsbD 1 then .zero else .vec 1) true .rnd [.e4m3, .e5m2] 12
                { x with codes := x.codes && (!f.md.getLsbD 1 || decide (f.md.toNat < 4)) }
  | .vred f => f.shape (.evec 3) (if f.md.getLsbD 1 then .evec 3 else .vec 1) .zero .zero false .rnd
                 (if f.md.getLsbD 1 then [.f32] else [.i32, .i16, .i8, .f32, .f16, .bf16]) 4
  | .mtrans f => let x := f.shape (.vec 4) (.vec (f.ty.bits / 4)) .zero (.below (16 / f.ty.bits)) false .none
                   [.f16, .bf16, .e4m3, .e5m2, .i8, .e2m1, .c4, .i4] 1
                 { x with codes := x.codes && f.ms.fullOnly }
  -- class 6
  | .ldg f => f.accShape false [.plain, .acq] f.sxOk
  | .stg f => f.accShape false [.plain, .rel] (f.md = 0)
  | .lds f => f.accShape true [.plain, .acq] f.sxOk
  | .sts f => f.accShape true [.plain, .rel] (f.md = 0)
  | .ldsm f => f.accShape true [.plain, .acq] true
  | .stsm f => f.accShape true [.plain, .rel] true
  | .ldfrag f =>
    let sp := f.md.getLsbD 3
    { v := [(.vec (if f.md.getLsbD 0 then 16 else 4), f.vd), (.zero, f.vx)], s := [(.pair, f.sa)]
      codes := f.noIndex && f.w = .w8 && !f.md.getLsbD 1 && f.ordOk [.plain, .acq]
        && (if sp then f.scopeSp else decide (f.sa.toNat ≤ 60)) }
  | .ldu f => { v := [(if f.w = .w64 then .pair else .sca, f.vd), (.zero, f.vx)], s := [(.pair, f.sa)]
                codes := f.noIndex && f.md = 0 && (f.w = .w32 || f.w = .w64) && f.ordOk [.plain, .acq] }
  | .stsc f => { v := [(if f.w = .w64 then .pair else .sca, f.vd), (.zero, f.vx)], s := [(.pair, f.sa)]
                 codes := f.noIndex && f.md = 0 && (f.w = .w32 || f.w = .w64) && f.ordOk [.plain, .rel] }
  | .atomg f => { v := [(f.data, f.m.vd), f.m.useX, (f.data, f.vb), f.useC], s := [(.pair, f.m.sa)]
                  codes := f.atomOk }
  | .atoms f => { v := [(f.data, f.m.vd), f.m.useX, (f.data, f.vb), f.useC], s := [(.one, f.m.sa)]
                  codes := f.atomOk && f.m.scopeSp }
  | .redg f => { v := [(.zero, f.m.vd), f.m.useX, (f.data, f.vb), (.zero, f.vc)], s := [(.pair, f.m.sa)]
                 codes := f.atomOk && f.m.md ≠ 11 && f.m.md ≠ 12 && (f.m.ord = .plain || f.m.ord = .rel) }
  | .bestmax f => { v := [(.vec 4, f.vd), f.useX], s := [(.pair, f.sa)]
                    codes := f.w = .w128 && f.md = 0 && (f.ord = .plain || f.ord = .rel) }
  | .tld f => { v := [(.vec f.w.regs, f.vd), (.vec 4, f.vx)], s := [(.zero, f.sa)]
                codes := f.xi && f.sc = 0 && f.w ≠ .w128 && decide (f.off.toNat ≤ 1) && f.ordOk [.plain, .acq] }
  | .tst f => { v := [(.vec f.w.regs, f.vd), (.vec 4, f.vx)], s := [(.zero, f.sa)]
                codes := f.xi && f.sc = 0 && f.w ≠ .w128 && f.off = 0 && f.ordOk [.plain, .rel] }
  | .hld f => { v := [(.zero, f.vd), (.zero, f.vx)], s := [(.pair, f.sa)]
                codes := f.noIndex && f.w = .w8 && f.ordOk [.plain, .acq] }
  | .citer f => { v := [(.vec 5, f.m.vd), (.zero, f.m.vx), (.vec 3, f.vb), (.zero, f.vc)], s := [(.zero, f.m.sa)]
                  codes := f.m.noIndex && f.m.w = .w8 && f.m.off = 0 && f.m.ordOk [.plain, .acq] }
  | .ccount f => { v := [(.pair, f.vd), (.zero, f.vx)], s := [(.zero, f.sa)]
                   codes := f.noIndex && f.w = .w8 && f.off = 0 && f.ms.isNone && f.scope = .grp
                     && (f.ord = .plain || f.ord = .acq) }
  | .fence f => { v := [(.zero, f.vd), (.zero, f.vx)], s := [(.zero, f.sa)]
                  codes := f.noIndex && f.w = .w8 && f.off = 0 && f.md = 0 && f.ms.isNone && f.ord ≠ .plain }
  | .cache f => { v := [(.zero, f.vd), f.useX], s := [(.pair, f.sa)]
                  codes := f.w = .w8 && f.ord = .plain && f.scope = .grp && decide (f.md.toNat < 5) }
  | .disc f => { v := [(.zero, f.vd), f.useX], s := [(.pair, f.sa)]
                 codes := f.w = .w8 && f.md = 0 && f.off = 0 && f.ord = .plain && f.scope = .grp }
  -- class 7
  | .spawn f => f.shape (.evec 2) .zero .zero .zero (if f.t then .tri else .zero) true 1 1 1
  | .jrec f => f.shape .zero .zero .pair .zero .one false 1 1 1
  | .fnew f => f.shape (.evec 2) .zero .zero .zero (if f.t then .tri else .zero) true 3 1 1
  | .fres f => f.shape (.evec 2) (.evec 2) .zero .zero (if f.t then .tri else .zero) true 0 1 1
  | .fwait f => f.shape (.evec 2) (.evec 3) .zero (if f.opt = 1 then .pair else .zero) .zero false 1 1 1
  | .fpoll f => f.shape (.evec 2) (.evec 3) .zero .zero .zero false 0 1 1
  | .freg f => f.shape (.evec 2) (.vec 1) .zero .zero .tri false 0 1 1
  | .fcan f => f.shape (.evec 2) .zero .zero .zero (if f.t then .tri else .zero) true 0 1 1
  | .swnew f => f.shape .zero .zero .pair .zero .one false 0 1 1
  | .swdl f => f.shape .zero .zero .one .pair .one false 0 1 1
  | .swcan f => f.shape .zero .zero .one .zero .one false 0 1 1
  | .swendClose f => f.shape .zero .zero .one .zero .one false 0 1 1
  | .swendRun f => let x := f.shape .zero .zero .one .zero .one false 0 1 2
                   { x with codes := x.codes && f.md = 1 }
  | .barInit f => let x := f.shape (.below 96) .zero .one .zero .zero false 0 1 1
                  { x with codes := x.codes && f.sub = 0 }
  | .barArrive f => let x := f.shape (.below 96) .zero .zero (if f.opt = 1 then .one else .zero) .one false 1 2 1
                    { x with codes := x.codes && f.sub = 1 }
  | .barWait f => let x := f.shape (.below 96) .zero .one .one .one false 0 3 1
                  { x with codes := x.codes && f.sub = 2 }
  | .barExpect f => let x := f.shape (.below 96) .zero .zero .one .zero false 0 4 1
                    { x with codes := x.codes && f.sub = 3 }
  | .barTest f => let x := f.shape (.below 96) .zero .one .zero .one false 0 5 1
                  { x with codes := x.codes && f.sub = 4 }
  | .cpy f => f.shape .zero .zero .pair .zero (if f.t then .one else .zero) true 0 1 1
  | .cpydn f => f.shape .zero .zero .pair .zero (if f.t then .one else .zero) true 0 1 16
  | .colqQpoint f => f.shape (.evec 2) (.vec 3) .zero .zero .zero false 0 1 16
  | .colqQsphere f => let x := f.shape (.evec 2) (.vec 4) .zero .zero .zero false 0 2 16
                      { x with codes := x.codes && f.sub = 1 }
  | .colqQseg f => let x := f.shape (.evec 2) (.vec 6) .zero .zero .zero false 0 3 16
                   { x with codes := x.codes && f.sub = 2 }
  | .dyns f => f.shape .zero .zero .pair .zero .zero false 0 1 1
  | .gqcfg f => f.shape .zero .zero .pair .zero .one false 0 1 8
  | .gqpush f => f.shape (.evec 2) (.evec 2) .zero .zero .tri false 7 1 8
  | .gqpop f => let x := f.shape (.vec 4) (.evec 2) .zero .zero .one false 0 2 8
                { x with codes := x.codes && f.ms.fullOnly }
  | .gqflush f => f.shape .zero .zero .zero .zero .zero false 0 1 8
  | .pdef f => f.shape .zero .zero .pair .one .one false 0 1 1
  | .palloc f => f.shape (.evec 2) .zero .zero .one (if f.t then .zero else .tri) true 1 1 1
  | .pfree f => f.shape (.evec 2) .zero .zero .one .zero false 0 1 1
  | .preset f => f.shape .zero .zero .zero .one .one false 0 1 1
  | .regdef f => f.shape .zero .zero .pair .one .one false 0 1 1
  | .hstw f => f.shape (.vec (2 * 2 ^ f.sub.toNat)) .zero .zero .zero .tri false 0 3 16
  | .sigdec f => f.shape .zero .zero .pair .one .zero false 1 1 1
  -- events of the device
  | .reset | .resetRelease | .thermtrip _ _ | .linkTraining _ | .ppsEdge | .ppsEdgeMissed | .ppsctlWrite _
  | .ppscaploRead | .attctlGo | .attestationReport | .boot | .functionReady _ | .createContext
  | .destroyContext _ | .createQueue _ _ | .destroyQueue _ _ | .queueFree _ _ | .qwidxWrite _ _ _ _
  | .sridxWrite _ _ _ _ | .erridxWrite _ _ | .erdropRead | .pcapWrite _ _ | .registerWrite _ _ _ _
  | .packetRead _ _ | .nopPacket _ _ | .launch _ _ | .tasks _ _ | .copyPacket _ _ | .signalPacket _ _
  | .waitPacket _ _ | .waitSatisfied _ _ _ | .graph _ _ | .rangeInval _ _ | .rangeAcquire _ _
  | .rangeRelease _ _ | .rangeClass _ _ | .stream _ _ | .packetComplete _ _ _ | .graphNodeComplete _ _ _ _
  | .coalesceTimeout _ | .streamTimeout _ _ | .teamAdmit _ | .starvationBoost _ _
  | .splitEligibilityBoost _ _ _ | .splitFillDone _ _ _ | .spinDemote _ _ _ | .spinRestore _ _ _
  | .spinRestoreTimeout _ _ _ | .yieldEnd _ _ _ | .watchWake _ _ _ | .watchTimeout _ _ _
  | .cancelDelivery _ _ | .instructionComplete _ _ | .drainStampReached _ | .pageWalkDone _ _ _
  | .residencyWaitEnd _ _ | .sealStoreStallEnd _ _ | .sealCommitDone _ _ | .sealedRequeue _ | .teamFree _
  | .copyComplete _ _ | .copyFault _ _ | .barWaitTimeout _ _ _ | .gqTimeout _ _ | .gqTileDeliver _ _
  | .gqpushRetry _ _ _ | .joinDecrement _ | .devicePushRetry _ | .spawnRetry _ _ _ | .fwaitRecheck _ _ _
  | .fwaitPollTimeout _ _ _ | .deadlineExpiry _ _ | .swarmCancelComplete _ _ | .swarmFree _ _ | .preempt _
  | .teamResume _ _ | .engineEntryStart _ _ | .colqQueryDone _ _ _ | .dynsBodyStep _ _ | .hstwResume _ _ _
  | .energyCharge _ | .clockControl _ | .coreGateDecide _ | .coreGateCommit _ | .engineGate _ _ | .coreWake _
  | .correctedError _ | .uncorrectableError _ | .controlParityError _ | .illop | .fetchFault _ _ _
  | .bar2Access _ | .refclkEdge | .ppsSeenExpiry => {}

/-- Steps 4 to 6 of R61: every field holds what the instruction accepts. -/
def Instr.wf (i : Instr) : Bool := i.shape.ok

/-- The register spans that step 7 of R61 checks against the allocation (R13). -/
def Instr.spans (i : Instr) : List (Nat × Nat) := i.shape.v.flatMap (fun p => p.1.span p.2)

end Sys2Proof
end

