-- ==== Sys2Proof/Machine/Num.lean ====
section
/-! DEFINITION. Numbers: the exact value of every element format, exact arithmetic on values, and the one rounding of a
value into a format, with the flags it raises (R36 to R57). -/

namespace Sys2Proof

/-! ### Flags (R32, R56) -/

/-- The seven sticky flags, as they lie in FX. -/
abbrev Flags := BitVec 7
/-- Invalid operation. -/
def fIV : Flags := 1
/-- Division by zero. -/
def fDZ : Flags := 2
/-- Overflow or saturation. -/
def fOF : Flags := 4
/-- Underflow. -/
def fUF : Flags := 8
/-- Inexact. -/
def fIX : Flags := 16
/-- A count saturated. -/
def fCS : Flags := 32
/-- A bad row pointer. -/
def fRP : Flags := 64

/-! ### Exact values -/

/-- An exact value: ABSENT, NaN, an infinity, or a number of the given sign and magnitude num/den · 2^e; num = 0 is a
zero with that sign. -/
inductive XVal
  | absent
  | nan
  | inf (neg : Bool)
  | num (neg : Bool) (n d : Nat) (e : Int)
  deriving DecidableEq, Repr

/-- A zero of a sign. -/
def XVal.zero (neg : Bool) : XVal := .num neg 0 1 0

/-- An integer as a value; zero is +0. -/
def XVal.ofInt (z : Int) : XVal := .num (decide (z < 0)) z.natAbs 1 0

/-- Not ABSENT. -/
def XVal.present : XVal → Bool
  | .absent => false
  | _ => true

/-- A zero of either sign. -/
def XVal.isZero : XVal → Bool
  | .num _ n _ _ => n == 0
  | _ => false

/-- The sign: true for negative values, −Inf and −0. -/
def XVal.neg? : XVal → Bool
  | .inf s => s
  | .num s _ _ _ => s
  | _ => false

/-- The value with its sign inverted. -/
def XVal.negate : XVal → XVal
  | .inf s => .inf (!s)
  | .num s n d e => .num (!s) n d e
  | x => x

/-- Layout of a floating format with sign, exponent and mantissa (R36). -/
structure FloatFmt where
  eb : Nat
  mb : Nat
  bias : Nat

/-- The sign-exponent-mantissa formats (R36). -/
def Ty.floatFmt : Ty → Option FloatFmt
  | .f32 => some ⟨8, 23, 127⟩
  | .f16 => some ⟨5, 10, 15⟩
  | .bf16 => some ⟨8, 7, 127⟩
  | .e5m2 => some ⟨5, 2, 15⟩
  | .e4m3 => some ⟨4, 3, 7⟩
  | .e2m1 => some ⟨2, 1, 1⟩
  | _ => none

/-- A data integer type (R42). -/
def Ty.isData : Ty → Bool
  | .i32 | .i16 | .i8 | .i4 => true
  | _ => false

/-- The ABSENT code of a type; none for the raw types and c4 (R36). -/
def Ty.absentCode : Ty → Option Nat
  | .f32 => some 0xFFFFFFFF
  | .f16 | .bf16 => some 0xFFFF
  | .e5m2 | .e4m3 | .e8m0 => some 0xFF
  | .e2m1 => some 0x8
  | .i4 => some 0x8 | .i8 => some 0x80 | .i16 => some 0x8000 | .i32 => some 0x80000000
  | .b32 | .n32 | .s32 | .c4 => none

/-- The canonical NaN (R37). -/
def Ty.nanCode : Ty → Nat
  | .f32 => 0x7FC00000 | .f16 => 0x7E00 | .bf16 => 0x7FC0 | .e5m2 => 0x7E | .e4m3 => 0x7F | _ => 0

/-- The finite value of a magnitude code in a floating format (R36). -/
def FloatFmt.value (f : FloatFmt) (neg : Bool) (mag : Nat) : XVal :=
  let ex := mag / 2 ^ f.mb
  let m := mag % 2 ^ f.mb
  if ex = 0 then .num neg m 1 (1 - f.bias - f.mb) else .num neg (2 ^ f.mb + m) 1 ((ex : Int) - f.bias - f.mb)

/-- The exact value of an element's code in its format; c4 codes are read through a codebook first (R36 to R43). -/
def Ty.value (t : Ty) (code : Nat) : XVal :=
  if t.absentCode = some code then .absent
  else
    match t with
    | .b32 | .n32 => .num false code 1 0
    | .s32 | .i32 => .ofInt (BitVec.ofNat 32 code).toInt
    | .i16 => .ofInt (BitVec.ofNat 16 code).toInt
    | .i8 => .ofInt (BitVec.ofNat 8 code).toInt
    | .i4 => .ofInt (BitVec.ofNat 4 code).toInt
    | .e8m0 => .num false 1 1 ((code : Int) - 127)
    | .c4 => .nan
    | .f32 | .f16 | .bf16 | .e5m2 =>
      match t.floatFmt with
      | none => .nan
      | some f =>
        let neg := code / 2 ^ (f.eb + f.mb) % 2 = 1
        let mag := code % 2 ^ (f.eb + f.mb)
        if mag / 2 ^ f.mb = 2 ^ f.eb - 1 then (if mag % 2 ^ f.mb = 0 then .inf neg else .nan) else f.value neg mag
    | .e4m3 => if code = 0x7F then .nan else FloatFmt.value ⟨4, 3, 7⟩ (code ≥ 128) (code % 128)
    | .e2m1 => FloatFmt.value ⟨2, 1, 1⟩ (code ≥ 8) (code % 8)

/-! ### Exact arithmetic -/

/-- Magnitude comparison of two numbers n/d · 2^e: whether the first is less. -/
def magLt (n d : Nat) (e : Int) (n' d' : Nat) (e' : Int) : Bool :=
  decide (n * d' * 2 ^ (e - e').toNat < n' * d * 2 ^ (e' - e).toNat)

/-- Strictly less, for values that are neither ABSENT nor NaN; −0 and +0 are equal. -/
def XVal.lt : XVal → XVal → Bool
  | .inf s, .inf s' => s && !s'
  | .inf s, .num _ _ _ _ => s
  | .num _ _ _ _, .inf s' => !s'
  | .num s n d e, .num s' n' d' e' =>
    if n = 0 && n' = 0 then false
    else if s && n ≠ 0 then (if s' && n' ≠ 0 then magLt n' d' e' n d e else true)
    else if s' && n' ≠ 0 then false
    else magLt n d e n' d' e'
  | _, _ => false

/-- Equal as numbers, for values that are neither ABSENT nor NaN. -/
def XVal.eqv (a b : XVal) : Bool :=
  match a, b with
  | .inf _, .inf _ | .inf _, .num _ _ _ _ | .num _ _ _ _, .inf _ | .num _ _ _ _, .num _ _ _ _ => !a.lt b && !b.lt a
  | _, _ => false

/-- The exact product, with IV for Inf × 0 (R46). A zero product of integer elements too has the sign that its factors give
(log entry 52). -/
def XVal.mul : XVal → XVal → XVal × Flags
  | .absent, _ | _, .absent => (.absent, 0)
  | .nan, _ | _, .nan => (.nan, 0)
  | .inf s, .inf s' => (.inf (s != s'), 0)
  | .inf s, .num s' n _ _ | .num s' n _ _, .inf s => if n = 0 then (.nan, fIV) else (.inf (s != s'), 0)
  | .num s n d e, .num s' n' d' e' => (.num (s != s') (n * n') (d * d') (e + e'), 0)

/-- The exact quotient (R148): DZ for a finite non-zero value over zero, IV for 0/0 and Inf/Inf. -/
def XVal.div : XVal → XVal → XVal × Flags
  | .absent, _ | _, .absent => (.absent, 0)
  | .nan, _ | _, .nan => (.nan, 0)
  | .inf _, .inf _ => (.nan, fIV)
  | .inf s, .num s' _ _ _ => (.inf (s != s'), 0)
  | .num s _ _ _, .inf s' => (.zero (s != s'), 0)
  | .num s n d e, .num s' n' d' e' =>
    if n' = 0 then (if n = 0 then (.nan, fIV) else (.inf (s != s'), fDZ))
    else (.num (s != s') (n * d') (d * n') (e - e'), 0)

/-- A number as an integer multiple of 2^e0 / d0, for a denominator d0 that its own divides. -/
def XVal.scaled (e0 : Int) (d0 : Nat) : XVal → Int
  | .num s n d e => (if s then -1 else 1) * ((n * (d0 / d) * 2 ^ (e - e0).toNat : Nat) : Int)
  | _ => 0

/-- The least binary exponent among numbers. -/
def minExp : List XVal → Int → Int
  | [], acc => acc
  | .num _ _ _ e :: l, acc => minExp l (if e < acc then e else acc)
  | _ :: l, acc => minExp l acc

/-- The product of the denominators. -/
def denProd : List XVal → Nat
  | [] => 1
  | .num _ _ d _ :: l => d * denProd l
  | _ :: l => denProd l

/-- Rounding modes (R48); RS carries the 32 random bits of R51. -/
inductive RMode | rne | rz | rd | ru | rs (u : W32)
  deriving DecidableEq, Repr

/-- The exact sum of present contributions with the special cases and the zero sign of R47. -/
def sumX (mode : RMode) (l : List XVal) : XVal × Flags :=
  let pinf := l.contains (.inf false)
  let ninf := l.contains (.inf true)
  let iv := if pinf && ninf then fIV else 0
  if l.contains .nan || (pinf && ninf) then (.nan, iv)
  else if pinf then (.inf false, 0)
  else if ninf then (.inf true, 0)
  else
    let e0 := minExp l 0
    let d0 := denProd l
    let z := (l.map (XVal.scaled e0 d0)).foldl (· + ·) 0
    if z = 0 then
      let someNeg := l.any XVal.neg?
      let somePos := l.any (fun x => !x.neg?)
      (.zero (someNeg && (!somePos || mode = .rd)), 0)
    else (.num (decide (z < 0)) z.natAbs d0 e0, 0)

/-! ### Rounding (R48 to R52) -/

/-- The exponent k with 2^k ≤ n/d · 2^e < 2^(k+1), for n and d not zero. -/
def floorLog (n d : Nat) (e : Int) : Int :=
  let k : Int := (Nat.log2 n : Int) - Nat.log2 d
  if magLt n d 0 1 1 k then k - 1 + e else k + e

/-- n/d · 2^e as a multiple of 2^q: the integer part, and the remainder over a denominator. -/
def quantize (n d : Nat) (e q : Int) : Nat × Nat × Nat :=
  let num := n * 2 ^ (e - q).toNat
  let den := d * 2 ^ (q - e).toNat
  (num / den, num % den, den)

/-- Whether to step away from zero, from an integer part `a` with remainder r/den (R48, R51). -/
def roundUp (mode : RMode) (neg : Bool) (a r den : Nat) : Bool :=
  if r = 0 then false
  else
    match mode with
    | .rne => decide (den < 2 * r) || (decide (2 * r = den) && a % 2 = 1)
    | .rz => false
    | .rd => neg
    | .ru => !neg
    | .rs u => decide (u.toNat < r * 2 ^ 32 / den)

/-- A number rounded to a multiple of 2^q: the multiple, and whether it is inexact. -/
def roundAt (mode : RMode) (neg : Bool) (n d : Nat) (e q : Int) : Nat × Bool :=
  let t := quantize n d e q
  (t.1 + (if roundUp mode neg t.1 t.2.1 t.2.2 then 1 else 0), decide (t.2.1 ≠ 0))

/-- A number rounded into a floating format with an unbounded exponent: the magnitude code, inexact, and tiny (R48, R50). -/
def FloatFmt.round (f : FloatFmt) (mode : RMode) (neg : Bool) (n d : Nat) (e : Int) : Nat × Bool × Bool :=
  let qmin : Int := 1 - f.bias - f.mb
  let k := floorLog n d e
  let q := max (k - f.mb) qmin
  let r := roundAt mode neg n d e q
  ((q - qmin).toNat * 2 ^ f.mb + r.1, r.2, decide (k < 1 - f.bias))

/-- The largest finite magnitude code (R36). -/
def Ty.maxMag : Ty → Nat
  | .f32 => 0x7F7FFFFF | .f16 => 0x7BFF | .bf16 => 0x7F7F | .e5m2 => 0x7B | .e4m3 => 0x7E | .e2m1 => 0x7 | _ => 0

/-- The code of an infinity, for formats that have one. -/
def Ty.infMag : Ty → Nat
  | .f32 => 0x7F800000 | .f16 => 0x7C00 | .bf16 => 0x7F80 | .e5m2 => 0x7C | t => t.maxMag

/-- A sign on a magnitude code; e2m1 has no negative zero (R39). -/
def Ty.signed (t : Ty) (neg : Bool) (mag : Nat) : Nat :=
  if neg && !(t = .e2m1 && mag = 0) then mag + 2 ^ (t.bits - 1) else mag

/-- What an overflow delivers (R49). -/
def Ty.overflow (t : Ty) (mode : RMode) (neg : Bool) : Nat :=
  match mode with
  | .rne | .rs _ => t.infMag
  | .rz => t.maxMag
  | .rd => if neg then t.infMag else t.maxMag
  | .ru => if neg then t.maxMag else t.infMag

/-- The largest value of a data integer (R42). -/
def Ty.intMax (t : Ty) : Nat := 2 ^ (t.bits - 1) - 1

/-- The code of an integer of a sign and magnitude in two's complement. -/
def intCode (bits : Nat) (neg : Bool) (a : Nat) : Nat := if neg then (2 ^ bits - a) % 2 ^ bits else a

/-- A number, not zero, into a floating format with sign (R48 to R50). -/
def roundFloat (t : Ty) (f : FloatFmt) (mode : RMode) (neg : Bool) (n d : Nat) (e : Int) : Nat × Flags :=
  let r := f.round mode neg n d e
  if t.maxMag < r.1 then (t.signed neg (t.overflow mode neg), fOF ||| fIX)
  else (t.signed neg r.1, if r.2.1 then (if r.2.2 then fUF ||| fIX else fIX) else 0)

/-- A number, not zero, into e8m0 (R40). -/
def roundE8 (mode : RMode) (neg : Bool) (n d : Nat) (e : Int) : Nat × Flags :=
  if neg then (0x7F, fIV)
  else
    let k := floorLog n d e
    if k < -127 then (0, fUF ||| fIX)
    else if 127 < k then (0xFE, fOF ||| fIX)
    else
      let t := quantize n d e k
      let code := (k + 127).toNat
      if t.2.1 = 0 then (code, 0)
      else
        let up := match mode with
          | .rne => decide (t.2.2 < 2 * t.2.1) || (decide (2 * t.2.1 = t.2.2) && code % 2 = 1)
          | .rz | .rd => false
          | .ru => true
          | .rs u => decide (u.toNat < t.2.1 * 2 ^ 32 / t.2.2)
        if up then (if code = 0xFE then (0xFE, fOF ||| fIX) else (code + 1, fIX)) else (code, fIX)

/-- A value delivered in a format under a mode: the code and the flags (R40, R42, R43, R49 to R52). -/
def deliver (t : Ty) (mode : RMode) (x : XVal) : Nat × Flags :=
  match t with
  | .f32 | .f16 | .bf16 | .e5m2 =>
    match x, t.floatFmt with
    | .absent, _ => (t.absentCode.getD 0, 0)
    | .inf s, _ => (t.signed s t.infMag, 0)
    | .num s n d e, some f => if n = 0 then (t.signed s 0, 0) else roundFloat t f mode s n d e
    | _, _ => (t.nanCode, 0)
  | .e4m3 =>
    match x with
    | .absent => (0xFF, 0)
    | .nan => (0x7F, 0)
    | .inf s => (t.signed s 0x7E, fOF)
    | .num s n d e => if n = 0 then (t.signed s 0, 0) else roundFloat t ⟨4, 3, 7⟩ mode s n d e
  | .e2m1 =>
    match x with
    | .absent => (0x8, 0)
    | .nan => (0, fIV)
    | .inf s => (t.signed s 0x7, fIV)
    | .num s n d e => if n = 0 then (0, 0) else roundFloat t ⟨2, 1, 1⟩ mode s n d e
  | .e8m0 =>
    match x with
    | .absent => (0xFF, 0)
    | .nan => (0x7F, fIV)
    | .inf s => if s then (0x7F, fIV) else (0xFE, fOF)
    | .num s n d e => if n = 0 then (0, fUF ||| fIX) else roundE8 mode s n d e
  | .i32 | .i16 | .i8 | .i4 =>
    match x with
    | .absent => (t.absentCode.getD 0, 0)
    | .nan => (0, fIV)
    | .inf s => (intCode t.bits s t.intMax, fIV)
    | .num s n d e =>
      let r := roundAt mode s n d e 0
      if t.intMax < r.1 then (intCode t.bits s t.intMax, fOF ||| fIX)
      else (intCode t.bits s r.1, if r.2 then fIX else 0)
  | .n32 | .b32 | .c4 =>
    match x with
    | .absent => (0, 0)
    | .nan => (0, fIV)
    | .inf s => (if s then 0 else 0xFFFFFFFF, fIV)
    | .num s n d e =>
      let r := roundAt mode s n d e 0
      if s && r.1 ≠ 0 then (0, fIV)
      else if 0xFFFFFFFF < r.1 then (0xFFFFFFFF, fIV)
      else (r.1, if r.2 then fIX else 0)
  | .s32 =>
    match x with
    | .absent => (0, 0)
    | .nan => (0, fIV)
    | .inf s => (if s then 0x80000000 else 0x7FFFFFFF, fIV)
    | .num s n d e =>
      let r := roundAt mode s n d e 0
      if s && 0x80000000 < r.1 then (0x80000000, fIV)
      else if !s && 0x7FFFFFFF < r.1 then (0x7FFFFFFF, fIV)
      else (intCode 32 s r.1, if r.2 then fIX else 0)

/-! ### Square root and random bits -/

/-- The integer square root, bit by bit from bit k − 1 down. -/
def isqrtFrom (n : Nat) : Nat → Nat → Nat
  | 0, r => r
  | k + 1, r => let c := r + 2 ^ k; isqrtFrom n k (if c * c ≤ n then c else r)

/-- The square root of a positive number m · 2^e, to more bits than any format holds, with a sticky low bit. -/
def sqrtX (m : Nat) (e : Int) : XVal :=
  let odd : Bool := decide (e % 2 ≠ 0)
  let sh : Nat := 128 + (if odd then 1 else 0)
  let n := m * 2 ^ sh
  let r := isqrtFrom n (Nat.log2 n / 2 + 1) 0
  .num false (2 * r + (if r * r = n then 0 else 1)) 1 ((e - (sh : Int)) / 2 - 1)

/-- One step of a lane's xorshift state (R51). -/
def rngStep (s : W64) : W64 :=
  let a := s ^^^ (s <<< 13)
  let b := a ^^^ (a >>> 7)
  b ^^^ (b <<< 17)

/-- The 32 random bits of a state after its step (R51). -/
def rngBits (s : W64) : W32 := s.extractLsb' 32 32

/-- The state VSEED.mix gives a lane (R164). -/
def seedMix (seed : W64) (k : Nat) : W64 :=
  let z := seed + BitVec.ofNat 64 (k + 1) * 0x9E3779B97F4A7C15
  let z := (z ^^^ (z >>> 30)) * 0xBF58476D1CE4E5B9
  let z := (z ^^^ (z >>> 27)) * 0x94D049BB133111EB
  z ^^^ (z >>> 31)

/-- A state never zero (R28, R164). -/
def nonzeroState (s : W64) : W64 := if s = 0 then 0x9E3779B97F4A7C15 else s

/-- Bits of x, j-th sub-element of a type (R38). -/
def subElem (t : Ty) (x : W32) (j : Nat) : Nat := (x.toNat >>> (t.bits * j)) % 2 ^ t.bits

/-- A word from its sub-elements, lowest first (R38). -/
def packSubs (t : Ty) : List Nat → Nat
  | [] => 0
  | c :: l => c % 2 ^ t.bits + 2 ^ t.bits * packSubs t l

/-- A word from its sub-elements, lowest first. -/
def packWord (t : Ty) (l : List Nat) : W32 := BitVec.ofNat 32 (packSubs t l)

end Sys2Proof
end

