-- ==== Sys2Proof/Machine/Mem.lean ====
section
/-! DEFINITION. Memory: bytes and little-endian words of a store, the three spaces a page may target, page tables and
TLBs, the checks of an access, the L1 sectors of SWC and PRIV pages, poison, and the instruction cache (R59, R60, R168,
R229 to R238, R383 to R393, R425). -/

namespace Sys2Proof.Machine

/-! ### Bytes and words of a store -/

/-- n bytes from an address. -/
def readBytes (m : SMap 8) (a : Nat) : Nat → List Byte
  | 0 => []
  | n + 1 => m.get a :: readBytes m (a + 1) n

/-- A number from its bytes, little-endian (R3). -/
def bytesToNat : List Byte → Nat
  | [] => 0
  | b :: l => b.toNat + 256 * bytesToNat l

/-- The n low bytes of a number, little-endian (R3). -/
def natToBytes : Nat → Nat → List Byte
  | 0, _ => []
  | n + 1, x => BitVec.ofNat 8 x :: natToBytes n (x / 256)

/-- The little-endian number in n bytes at an address. -/
def readNat (m : SMap 8) (a n : Nat) : Nat := bytesToNat (readBytes m a n)

/-- Write bytes from an address on. -/
def writeBytes (m : SMap 8) (a : Nat) : List Byte → SMap 8
  | [] => m
  | b :: l => writeBytes (m.set a b) (a + 1) l

/-- The memory holds its canonical form. -/
abbrev Memory.wf (m : Memory) : Bool := SMap.wf (w := 8) m

/-- Bytes as 64-bit words, lowest first. -/
def bytesToWords : List Byte → List W64
  | b0 :: b1 :: b2 :: b3 :: b4 :: b5 :: b6 :: b7 :: l =>
    BitVec.ofNat 64 (bytesToNat [b0, b1, b2, b3, b4, b5, b6, b7]) :: bytesToWords l
  | _ => []

/-- 64-bit words as bytes. -/
def wordsToBytes (l : List W64) : List Byte := l.flatMap (fun w => natToBytes 8 w.toNat)

/-! ### Targets -/

/-- The bytes of a space. -/
def Device.space (d : Device) : Space → SMap 8
  | .dev => d.mem
  | .host => d.host
  | .peer => d.peer

/-- Replace the bytes of a space. -/
def Device.withSpace (d : Device) (t : Space) (m : SMap 8) : Device :=
  match t with
  | .dev => { d with mem := m }
  | .host => { d with host := m }
  | .peer => { d with peer := m }

/-- A space and address as one key. -/
def spaceKey (t : Space) (pa : Nat) : Nat :=
  pa + (match t with | .dev => 0 | .host => 2 ^ 64 | .peer => 2 ^ 65)

/-- The space and address of a key. -/
def unKey (k : Nat) : Space × Nat :=
  if k < 2 ^ 64 then (.dev, k) else if k < 2 ^ 65 then (.host, k - 2 ^ 64) else (.peer, k - 2 ^ 65)

/-- The 128 B line of a space and address. -/
def lineKey (t : Space) (pa : Nat) : Nat := spaceKey t pa / 128

/-- Package capacity in bytes (R1). -/
def Part.capacity : Part → Nat
  | .a064 => 64 * 2 ^ 30
  | .a128 => 128 * 2 ^ 30
  | .a256 => 256 * 2 ^ 30

/-! ### Stores that become visible -/

/-- A write to a line became visible at .dev: monitors on it are hit (R119), and so are lines noted by demoted splits
(R219). -/
def Device.noteWrite (d : Device) (line : Nat) : Device :=
  { d with
    monitors := d.monitors.map (fun m => if m.line = line then { m with hit := true } else m)
    groups := d.groups.mapV (fun _ g =>
      { g with splits := g.splits.map (fun sp => if sp.noted.contains line then { sp with notedHit := true } else sp) }) }

/-- No split of any group has noted a line, and no monitor watches one. -/
def Device.unwatched (d : Device) (line : Nat) : Bool :=
  !d.monitors.any (fun m => m.line = line) && !d.groups.any (fun p => p.2.splits.any (fun sp => sp.noted.contains line))

/-- Clear the poison of the bytes written in one sector (R425). -/
def clearPoison (m : SMap 16) (pa : Nat) (n : Nat) : SMap 16 :=
  match m with
  | [] => []
  | _ =>
    (List.range n).foldl (fun m k =>
      let a := pa + k
      m.set (a / 16) (m.get (a / 16) &&& ~~~(1#16 <<< (a % 16)))) m

/-- Copies of HC sectors that L1s hold of a line of device memory leave them (R229): lines with no sector of an SWC or PRIV
page. -/
def Device.dropCopies (d : Device) (t : Space) (pa : Nat) : Device :=
  { d with l1Lines := d.l1Lines.filter (fun y =>
      t ≠ .dev || y.line ≠ pa / 128 || d.l1.any (fun x => x.core = y.core && x.pa / 8 = y.line)) }

/-- The 4-byte word of a space that holds an address. -/
def Device.wordAt (d : Device) (t : Space) (pa : Nat) : W32 := BitVec.ofNat 32 (readNat (d.space t) (pa / 4 * 4) 4)

/-- The key of the word that holds an address. -/
def wordKey (t : Space) (pa : Nat) : Nat := spaceKey t pa / 4

/-- Byte k of a held sector. -/
def L1Sector.byte (x : L1Sector) (k : Nat) : Byte := x.data.extractLsb' (8 * k) 8

/-- The bytes of a held sector that its core has stored, visible at every scope, and not written back yet: those of a PRIV page
(R251). -/
def L1Sector.ahead (x : L1Sector) : BitVec 16 := x.dirty &&& x.seen

/-- The sector of device memory at an address where an L1 holds bytes of it that are visible before they reach home. -/
def Device.aheadOf (d : Device) (t : Space) (pa : Nat) : Option L1Sector :=
  d.l1.find? (fun x => t = .dev && x.pa = pa / 16 && x.ahead ≠ 0)

/-- The 4-byte word at an address as the stores visible at .dev have left it: those at home, and those of a PRIV page that its
core's L1 still holds (R251). -/
def Device.wordSeen (d : Device) (t : Space) (pa : Nat) : W32 :=
  match d.aheadOf t pa with
  | none => d.wordAt t pa
  | some x => BitVec.ofNat 32 (bytesToNat ((List.range 4).map (fun k =>
      let a := pa / 4 * 4 + k
      if x.ahead.getLsbD (a % 16) then x.byte (a % 16) else SMap.get (w := 8) d.mem a)))

/-- The words that differ from what they were are remembered as they were: until a core's CACHE .iinv covers one, that core
may fetch it (R60). -/
def Device.keepOld (d before : Device) (t : Space) (pa n : Nat) : Device :=
  let at_ := (List.range ((pa + n - 1) / 4 - pa / 4 + 1)).map (fun k => (pa / 4 + k) * 4)
  let was := at_.filterMap (fun a =>
    if before.wordSeen t a = d.wordSeen t a then none else some ({ key := wordKey t a, word := before.wordSeen t a, gone := [] } : OldWord))
  { d with old := was.filter (fun o => !d.old.contains o) ++ d.old }

/-- Watchers of a line are told of a write to it. -/
def Device.tell (d : Device) (line : Nat) : Device := if d.unwatched line then d else d.noteWrite line

/-- Bytes reach their home in a space: memory holds them, and poison of the bytes clears. They lie within one line. -/
def Device.land (d0 : Device) (t : Space) (pa : Nat) (bytes : List Byte) : Device :=
  let d := d0.dropCopies t pa
  let d1 := (d.withSpace t (writeBytes (d.space t) pa bytes)).keepOld d0 t pa bytes.length
  if t = .dev then { d1 with poison := clearPoison d1.poison pa bytes.length } else d1

/-- Bytes become visible in a space at an address: they reach their home, and watchers of the line are told. -/
def Device.store (d : Device) (t : Space) (pa : Nat) (bytes : List Byte) : Device := (d.land t pa bytes).tell (lineKey t pa)

/-- Store bytes that may span lines, line by line. -/
def Device.storeLong (d : Device) (t : Space) (pa : Nat) (bytes : List Byte) : Nat → Device
  | 0 => d
  | fuel + 1 =>
    let k := 128 - pa % 128
    if bytes.length ≤ k then d.store t pa bytes
    else (d.store t pa (bytes.take k)).storeLong t (pa + k) (bytes.drop k) fuel

/-- One of n bytes at a device address lies in a poisoned sector: one not wholly overwritten since (R425). -/
def Device.poisoned (d : Device) (t : Space) (pa n : Nat) : Bool :=
  match d.poison with
  | [] => false
  | _ => t = .dev && (List.range ((pa + n - 1) / 16 - pa / 16 + 1)).any (fun k => d.poison.get (pa / 16 + k) ≠ 0)

/-! ### The L1 (R229, R231) -/

/-- The 16 bytes of a sector as one word. -/
def bytesToVec (l : List Byte) : BitVec 128 := BitVec.ofNat 128 (bytesToNat l)

/-- The sector a core's L1 holds. -/
def Device.l1Find (d : Device) (core pa : Nat) : Option L1Sector :=
  d.l1.find? (fun x => x.core = core && x.pa = pa / 16)

/-- Some bytes of one sector reach home in one store, and watchers are told where they become visible by it; the poison mark of the
others stays (R425). -/
def Device.storeSector (d : Device) (t : Space) (base : Nat) (mask : BitVec 16) (byte : Nat → Byte) (new : Bool := true) : Device :=
  let mark := SMap.get (w := 16) d.poison (base / 16) &&& ~~~mask
  let bytes := (List.range 16).map (fun k => if mask.getLsbD k then byte k else SMap.get (w := 8) (d.space t) (base + k))
  let d1 := if new then d.store t base bytes else d.land t base bytes
  if t = .dev then { d1 with poison := SMap.set d1.poison (base / 16) mark } else d1

/-- Write a dirty sector back to its home: the bytes that the core has written, over those of home (log entry 13); those of a PRIV
page have been visible since their store, which told the watchers (R119, R251). A sector
lost after they were written takes its mark along: the bytes not written since (R425). -/
def Device.l1WriteBack (d : Device) (x : L1Sector) : Device :=
  if x.dirty = 0 && !x.lost then d
  else
    let d1 := d.storeSector .dev (x.pa * 16) x.dirty x.byte (x.dirty &&& ~~~x.seen ≠ 0)
    if x.lost then { d1 with poison := SMap.set d1.poison x.pa (SMap.get (w := 16) d1.poison x.pa ||| x.bad) } else d1

/-- Write back the dirty sectors of a core's L1 that a test picks, and drop those of them the second test picks. A line left
with no sector leaves the L1. -/
def Device.l1Clean (d : Device) (pick drop : L1Sector → Bool) : Device :=
  match d.l1 with
  | [] => d
  | l =>
    let d1 := l.foldl (fun d x => if pick x then d.l1WriteBack x else d) d
    let gone := l.filter (fun x => pick x && drop x)
    let kept := (l.filter (fun x => !(pick x && drop x))).map (fun x => if pick x then { x with dirty := 0, lost := false } else x)
    { d1 with
      l1 := kept
      l1Lines := d1.l1Lines.filter (fun y =>
        kept.any (fun x => x.core = y.core && x.pa / 8 = y.line) || !gone.any (fun x => x.core = y.core && x.pa / 8 = y.line)) }

/-- A core's L1 holds a line of device memory. -/
def Device.l1Has (d : Device) (core line : Nat) : Bool := d.l1Lines.any (fun y => y.core = core && y.line = line)

/-- A core's access touches a line in its L1, which is the most recently used from then on; the lines of a core stand in that
order (R231). -/
def Device.l1Touch (d : Device) (core line : Nat) : Device :=
  { d with l1Lines := { core, line, urgent := none } :: d.l1Lines.filter (fun y => !(y.core = core && y.line = line)) }

/-- The U bit of the lines that the instruction under way has touched (R231): whether its group holds the team-urgency bit. -/
def Device.l1Mark (d : Device) (urgent : Bool) : Device :=
  { d with l1Lines := d.l1Lines.map (fun y => if y.urgent.isNone then { y with urgent := some urgent } else y) }

/-- A line leaves a core's L1: its dirty sectors are written back (R231). -/
def Device.l1Evict (d : Device) (y : L1Line) : Device :=
  let here : L1Sector → Bool := fun x => x.core = y.core && x.pa / 8 = y.line
  let d1 := d.l1Clean here here
  { d1 with l1Lines := d1.l1Lines.filter (fun z => !(z.core = y.core && z.line = y.line)) }

/-- Sets and ways of a core's L1: 256 KiB in lines of 128 B (R229). -/
def l1Sets : Nat := 256
/-- Ways of the L1 and of the instruction cache (R229, R232). -/
def cacheWays : Nat := 8

/-- The set of a line: the lowest bits of its number (log entry 13). -/
def l1SetOf (y : L1Line) : Nat := y.core * l1Sets + y.line % l1Sets

/-- The victim among the lines of a set, most recently used first: the least recently used with U clear, else the least
recently used (R231). -/
def l1Victim (l : List L1Line) : Option L1Line :=
  match (l.filter (fun y => y.urgent ≠ some true)).getLast? with
  | some y => some y
  | none => l.getLast?

/-- Lines leave a set until it holds no more than its ways. -/
def Device.l1Trim (d : Device) (set : Nat) : Nat → Device
  | 0 => d
  | fuel + 1 =>
    let l := d.l1Lines.filter (fun y => l1SetOf y = set)
    if l.length ≤ cacheWays then d
    else
      match l1Victim (l.drop 1) with
      | some y => (d.l1Evict y).l1Trim set fuel
      | none => d

/-- The L1s hold no more lines in a set than its ways: what the fills of a step leave over goes before the next step. -/
def Device.l1Settle (d : Device) : Device :=
  match d.l1Lines with
  | [] => d
  | l => (l.map l1SetOf).dedup.foldl (fun d k => d.l1Trim k l.length) (d.l1Mark false)

/-- A byte as a core sees it through its L1, on a device page of class SWC or PRIV. -/
def Device.l1Byte (d : Device) (core pa : Nat) : Byte :=
  match d.l1Find core pa with
  | some x => x.byte (pa % 16)
  | none => SMap.get (w := 8) d.mem pa

/-- Some byte of the sector at a device address is poisoned (R425). -/
def Device.poisonAt (d : Device) (pa : Nat) : Bool := SMap.get (w := 16) d.poison (pa / 16) ≠ 0

/-- A core touches a sector: it is held from then on (R229), with the poison mark that home has on it (R425); one touched under
an SWC page is an SWC sector from then on. -/
def Device.l1Fill (d : Device) (core pa : Nat) (priv : Bool) : Device :=
  match d.l1Find core pa with
  | some x => if x.priv && !priv then { d with l1 := d.l1.map (fun y => if y = x then { x with priv := false } else y) } else d
  | none =>
    { d with l1 := { core, pa := pa / 16, data := bytesToVec (readBytes d.mem (pa / 16 * 16) 16), dirty := 0, priv
                     bad := SMap.get (w := 16) d.poison (pa / 16) } :: d.l1 }

/-- A write that a core's own agents see through its L1, on a PRIV page: visible at every scope (R251), so that the core's
watchers of the line are told. -/
def Device.noteOwn (d : Device) (pa : Nat) (priv : Bool) : Device :=
  if priv then d.tell (lineKey .dev pa) else d

/-- One byte of a held sector written, by its core (dirty from then on) or at home as well; a store of a PRIV page is visible at
every scope (R251). -/
def L1Sector.put (x : L1Sector) (pa : Nat) (b : Byte) (dirty priv : Bool) : L1Sector :=
  let sh := 8 * (pa % 16)
  let bit : BitVec 16 := 1#16 <<< (pa % 16)
  { x with
    data := (x.data &&& ~~~(255#128 <<< sh)) ||| (b.setWidth 128 <<< sh), bad := x.bad &&& ~~~bit
    dirty := if dirty then x.dirty ||| bit else x.dirty &&& ~~~bit
    seen := if priv then x.seen ||| bit else x.seen &&& ~~~bit }

/-- A core writes a byte of a sector in its L1 (R229, write-back). -/
def Device.l1Put (d : Device) (core pa : Nat) (b : Byte) (priv : Bool) : Device :=
  let d1 := (d.l1Fill core pa priv).noteOwn pa priv
  { d1 with l1 := d1.l1.map (fun x => if x.core = core && x.pa = pa / 16 then x.put pa b true priv else x) }

/-- Bytes that a core or its copy engine has written at home reach the sectors its L1 holds (R229, R253, R298). -/
def Device.l1Update (d : Device) (core pa : Nat) (bytes : List Byte) : Device :=
  { d with l1 := d.l1.map (fun x =>
      if x.core = core then
        (bytes.zip (List.range bytes.length)).foldl (fun x p => if x.pa = (pa + p.2) / 16 then x.put (pa + p.2) p.1 false false else x) x
      else x) }

/-! ### Page tables (R383 to R386) -/

/-- Page frame number of an entry, as an address (R384). -/
def pteAddr (e : W64) : Nat := (e.extractLsb' 12 40).toNat * 4096

/-- TGT of an entry. -/
def pteTgt (e : W64) : Nat := (e.extractLsb' 56 2).toNat
/-- CLS of an entry. -/
def pteCls (e : W64) : Nat := (e.extractLsb' 52 2).toNat
/-- PCORE of an entry. -/
def pteCore (e : W64) : Nat := (e.extractLsb' 58 6).toNat
/-- SEQ of an entry. -/
def pteSeq (e : W64) : Bool := e.getLsbD 54
/-- OWN of an entry. -/
def pteOwn (e : W64) : Bool := e.getLsbD 55

/-- A leaf is malformed (R385). -/
def leafBad (cap : Nat) (l : Leaf) : Bool :=
  let e := l.entry
  decide (pteAddr e % l.size ≠ 0) || pteTgt e = 3 || pteCls e = 3 || (pteTgt e = 0 && decide (cap < pteAddr e + l.size))
    || (pteTgt e ≠ 0 && pteCls e ≠ 0) || (pteSeq e && pteCls e ≠ 0)

/-- Index of a virtual address at a level (R383). -/
def vaIndex (va lvl : Nat) : Nat := va / 2 ^ (12 + 9 * lvl) % 512

/-- An 8-byte entry of a table in device memory. -/
def pteAt (m : Memory) (t i : Nat) : W64 := BitVec.ofNat 64 (readNat m (t + 8 * i) 8)

/-- The walk from a level down (R385): a leaf, or the detail of a PAGEFLT. -/
def walkFrom (m : Memory) (cap va : Nat) : Nat → Nat → Except Nat Leaf
  | 0, t =>
    let idx := vaIndex va 0
    let f := pteAt m t (idx / 16 * 16)
    let l : Except Nat Leaf :=
      if f.getLsbD 0 && f.getLsbD 9 then .ok { entry := f, at_ := t + 8 * (idx / 16 * 16), size := 65536 }
      else
        let x := pteAt m t idx
        if x.getLsbD 0 then .ok { entry := x, at_ := t + 8 * idx, size := 4096 } else .error 1
    match l with
    | .ok l => if leafBad cap l then .error 2 else .ok l
    | .error k => .error k
  | lvl + 1, t =>
    let idx := vaIndex va (lvl + 1)
    let x := pteAt m t idx
    if !x.getLsbD 0 then .error 1
    else if x.getLsbD 8 then
      if lvl + 1 ≥ 3 then .error 2
      else
        let l : Leaf := { entry := x, at_ := t + 8 * idx, size := 4096 * 512 ^ (lvl + 1) }
        if leafBad cap l then .error 2 else .ok l
    else if cap ≤ pteAddr x then .error 2
    else walkFrom m cap va lvl (pteAddr x)

/-- A channel that stores a device address is ready: READY.MEM (R415). A channel stores whole lines. -/
def channelReady (ready : W64) (pa : Nat) : Bool :=
  ready.extractLsb' 0 32 = 0xFFFFFFFF#32 || ready.getLsbD (Config.channelOf (pa / 128) % 32)

/-- Every line of n bytes at a device address is on a channel that is ready (R415). -/
def channelsReady (ready : W64) (pa n : Nat) : Bool :=
  ready.extractLsb' 0 32 = 0xFFFFFFFF#32 || (List.range ((pa + n - 1) / 128 - pa / 128 + 1)).all (fun k => channelReady ready (pa + 128 * k))

/-- Why a walk gives no leaf: the detail of a PAGEFLT, or a table on a channel that is not ready (R415). -/
inductive WalkStop
  | fault (detail : Nat)
  | channel
  deriving DecidableEq, Repr

/-- What a walk gives: the leaf, and the entries that led to it as (level, entry). -/
structure Found where
  leaf : Leaf
  path : List (Nat × W64)
  deriving DecidableEq, Repr

/-- An entry without its A and D bits. -/
def pteKey (e : W64) : W64 := e &&& ~~~0xC0#64

/-- The walker reads an entry at home: a poisoned sector is PAGEFLT, detail 2 (R389). -/
def Device.pteRead (d : Device) (ready : W64) (a : Nat) : Except WalkStop W64 :=
  if !channelReady ready a then .error .channel
  else if d.poisonAt a then .error (.fault 2)
  else .ok (BitVec.ofNat 64 (readNat d.mem a 8))

/-- The address prefix that an entry of a level serves. -/
def tableVpn (va lvl : Nat) : Nat := va / 2 ^ (12 + 9 * lvl)

/-- The entry that a walker reads in a table of level 1 to 4: at home, or the one its cluster holds; where they differ, which
one is unspecified (R390, R391). -/
def Device.tableRead (d : Device) (ready : W64) (tick unit ctx va lvl t : Nat) : Except WalkStop W64 :=
  let a := t + 8 * vaIndex va lvl
  match d.tables.find? (fun y => y.unit = unit && y.ctx = ctx && y.lvl = lvl && y.vpn = tableVpn va lvl) with
  | some y =>
    if pteKey y.entry = pteKey (BitVec.ofNat 64 (readNat d.mem a 8)) || Config.freeNat tick (4 + lvl) % 2 = 0 then .ok y.entry
    else d.pteRead ready a
  | none => d.pteRead ready a

/-- A leaf as a walk gives it, unless it is malformed (R385). -/
def leafFound (cap : Nat) (l : Leaf) : Except WalkStop Found :=
  if leafBad cap l then .error (.fault 2) else .ok { leaf := l, path := [] }

/-- The walk of a unit's walker from a level down (R385). -/
def Device.walk (d : Device) (ready : W64) (tick cap unit ctx va : Nat) : Nat → Nat → Except WalkStop Found
  | 0, t =>
    let idx := vaIndex va 0
    match d.pteRead ready (t + 8 * (idx / 16 * 16)) with
    | .error w => .error w
    | .ok f =>
      if f.getLsbD 0 && f.getLsbD 9 then leafFound cap { entry := f, at_ := t + 8 * (idx / 16 * 16), size := 65536 }
      else
        match d.pteRead ready (t + 8 * idx) with
        | .error w => .error w
        | .ok x => if x.getLsbD 0 then leafFound cap { entry := x, at_ := t + 8 * idx, size := 4096 } else .error (.fault 1)
  | lvl + 1, t =>
    match d.tableRead ready tick unit ctx va (lvl + 1) t with
    | .error w => .error w
    | .ok x =>
      if !x.getLsbD 0 then .error (.fault 1)
      else if x.getLsbD 8 then
        if lvl + 1 ≥ 3 then .error (.fault 2)
        else leafFound cap { entry := x, at_ := t + 8 * vaIndex va (lvl + 1), size := 4096 * 512 ^ (lvl + 1) }
      else if cap ≤ pteAddr x then .error (.fault 2)
      else (d.walk ready tick cap unit ctx va lvl (pteAddr x)).map (fun r => { r with path := (lvl + 1, x) :: r.path })

/-! ### Translation and its checks (R387 to R393) -/

/-- A core's instructions. -/
def Agent.core (c : Nat) : Agent := { tlb := c / 8, own := some c, l1 := some c, ctlb := some c }
/-- A core's copy engine. -/
def Agent.copier (c : Nat) : Agent := { tlb := c / 8, own := some c, l1 := none, ctlb := some c }
/-- An engine of a cluster. -/
def Agent.engine (k : Nat) : Agent := { tlb := k, own := none, l1 := none, ctlb := none }
/-- A command processor. -/
def Agent.cp : Agent := { tlb := 8, own := none, l1 := none, ctlb := none }
/-- The future, pool and comb units at the home slices. -/
def Agent.unit : Agent := { tlb := 9, own := none, l1 := none, ctlb := none }

/-- The number of a core's own TLB. -/
def coreTlb (c : Nat) : Nat := 16 + c

/-- The TLBs an agent asks, in order. -/
def Agent.tlbs (ag : Agent) : List Nat := (match ag.ctlb with
  | some c => [coreTlb c]
  | none => []) ++ [ag.tlb]

/-- What an access meets: a translation, a trap code with its detail, a page not resident, or a channel not ready. -/
inductive Probe
  | ok (x : Xlate)
  | fault (code detail : Nat)
  | page
  | channel
  deriving DecidableEq, Repr

/-- The leaf a TLB holds for an address. -/
def Device.tlbFind (d : Device) (tlb ctx va : Nat) : Option TlbEntry :=
  d.tlb.find? (fun t => t.unit = tlb && t.ctx = ctx && t.vpage = va / t.size)

/-- A TLB's entry as a leaf. -/
def TlbEntry.asLeaf (t : TlbEntry) : Leaf := { entry := t.leaf, at_ := t.at_, size := t.size }

/-- A leaf held by a TLB is the one found beyond it, but for A and D that the TLB has yet to see set (R386, R391). -/
def Leaf.same (found held : Leaf) : Bool :=
  found.size = held.size && found.at_ = held.at_ && pteKey found.entry = pteKey held.entry
    && held.entry &&& ~~~found.entry &&& 0xC0#64 = 0

/-- The leaf through which an access translates, asking some TLBs in order and then walking: where a TLB's leaf differs from
what would be found beyond it, which one is unspecified (R391). -/
def Device.leafAt (d : Device) (tick ctx va : Nat) (walk : Except WalkStop Found) : List Nat → Except WalkStop Found
  | [] => walk
  | u :: l =>
    let rest := d.leafAt tick ctx va walk l
    match d.tlbFind u ctx va with
    | none => rest
    | some t =>
      let same := match rest with
        | .ok r => r.leaf.same t.asLeaf
        | .error _ => false
      if same || Config.freeNat tick l.length % 2 = 0 then .ok { leaf := t.asLeaf, path := [] } else rest

/-- The leaf through which an agent's access translates. -/
def Device.leafFor (d : Device) (ready : W64) (tick cap : Nat) (ag : Agent) (ctx root va : Nat) : Except WalkStop Found :=
  d.leafAt tick ctx va (d.walk ready tick cap ag.tlb ctx va 4 root) ag.tlbs

/-- The space of a TGT code. -/
def spaceOf : Nat → Space
  | 1 => .host
  | 2 => .peer
  | _ => .dev

/-- The path of the host link, the host's IOMMU or the peer rejects an access at an address: a free choice (R368, R393,
R430). -/
def linkRejects (tick a : Nat) : Bool := Config.freeNat tick (2 ^ 24 + a) % 2 = 1

/-- The checks of one address (R387), after bits [63:57] (R168); an AtomicOp that the path rejects and an access that the peer
aborts are PROT (R393), as is what the host's IOMMU rejects of a command processor's accesses (R368). `linkOk` says the access is one R393 permits on a page
of the host link. -/
def Device.probe (d : Device) (p : Platform) (tick ctx : Nat) (ag : Agent) (k : Access) (linkOk : Bool) (va : W64) : Probe :=
  if va.extractLsb' 57 7 ≠ 0 then .fault 0x05 0
  else
    match d.ctxs.get ctx with
    | none => .fault 0x04 1
    | some c =>
      match d.leafFor p.ready tick p.part.capacity ag ctx c.ptroot.toNat va.toNat with
      | .error (.fault det) => .fault 0x04 det
      | .error .channel => .channel
      | .ok r =>
        let l := r.leaf
        let e := l.entry
        let perm := match k with
          | .load => e.getLsbD 2
          | .store => e.getLsbD 3
          | .atomic => e.getLsbD 2 && e.getLsbD 3
          | .fetch => e.getLsbD 4
        let pa := pteAddr e + va.toNat % l.size
        if !perm || (pteTgt e ≠ 0 && !linkOk) then .fault 0x05 0
        else if pteOwn e then .fault 0x12 0
        else if pteCls e = 2 && ag.own ≠ some (pteCore e) then .fault 0x0F 0
        else if !e.getLsbD 1 then .page
        else if pteTgt e = 0 && !channelReady p.ready pa then .channel
        else if pteTgt e ≠ 0 && (pteTgt e = 2 || k = .atomic || ag = Agent.cp) && linkRejects tick va.toNat then .fault 0x05 0
        else .ok { space := spaceOf (pteTgt e), pa, cls := pteCls e, seq := pteSeq e, leaf := l, path := r.path }

/-- A TLB's entry for an access that translates through a leaf. -/
def Device.tlbUsed (d : Device) (ctx : Nat) (va : W64) (l : Leaf) (u : Nat) : Option TlbEntry :=
  match d.tlbFind u ctx va.toNat with
  | some t => if l.same t.asLeaf then some t else none
  | none => none

/-- Put an entry into a TLB, in place of its entry for the page. -/
def Device.tlbPut (d : Device) (t : TlbEntry) : Device :=
  { d with tlb := t :: d.tlb.filter (fun u => !(u.unit = t.unit && u.ctx = t.ctx && u.vpage = t.vpage && u.size = t.size)) }

/-- A walker holds the table entries that a walk went through (R390). -/
def Device.tablesPut (d : Device) (unit ctx : Nat) (va : W64) (path : List (Nat × W64)) : Device :=
  if path.isEmpty || decide (8 ≤ unit) then d
  else
    let new := path.map (fun p => ({ unit, ctx, lvl := p.1, vpn := tableVpn va.toNat p.1, entry := p.2 } : TableEntry))
    { d with tables := new ++ d.tables.filter (fun y =>
        !new.any (fun z => z.unit = y.unit && z.ctx = y.ctx && z.lvl = y.lvl && z.vpn = y.vpn)) }

/-- The bits that an access sets in the entry of its leaf: A where no TLB held the leaf, D before a write where the TLB's entry
has it clear (R386). -/
def touchBits (held : Option W64) (k : Access) : W64 :=
  let dirty : W64 := if k = .store || k = .atomic then 0x80#64 else 0
  match held with
  | none => 0x40#64 ||| dirty
  | some l => dirty &&& ~~~l

/-- Load the leaf of an access into the TLBs it asked and set A; set D before a first write (R386). The use of a PRIV page is
noted (R402). -/
def Device.touch (d : Device) (ag : Agent) (ctx : Nat) (va : W64) (k : Access) (x : Xlate) : Device :=
  let held := ag.tlbs.findSome? (d.tlbUsed ctx va x.leaf)
  let bits := touchBits (held.map TlbEntry.leaf) k
  let leaf := ((held.map TlbEntry.leaf).getD x.leaf.entry) ||| bits
  let cur := BitVec.ofNat 64 (readNat d.mem x.leaf.at_ 8)
  let new := cur ||| bits
  let d0 : Device := { d with
    privUsed := d.privUsed || x.cls = 2
    touches := if bits ≠ 0 then { ag, ctx, va, kind := k, x } :: d.touches else d.touches }
  let d1 := if new ≠ cur then d0.store .dev x.leaf.at_ (natToBytes 8 new.toNat) else d0
  let d2 := if held.isNone then d1.tablesPut ag.tlb ctx va x.path else d1
  ag.tlbs.foldl (fun d u =>
    let t : TlbEntry := { unit := u, ctx, vpage := va.toNat / x.leaf.size, size := x.leaf.size, leaf, at_ := x.leaf.at_ }
    if d.tlbFind u ctx va.toNat = some t then d else d.tlbPut t) d2

/-- The accesses done before a fault have touched their pages (R386): those of a list that a device has yet to see. -/
def Device.retouch (d : Device) (l : List Touched) : Device :=
  (l.take (l.length - d.touches.length)).foldr (fun t d => d.touch t.ag t.ctx t.va t.kind t.x) d

/-- Entries of a core's TLB and of a cluster's (R390). -/
def tlbRoom (unit : Nat) : Option Nat := if unit < 8 then some 4096 else if 16 ≤ unit then some 64 else none

/-- Entries leave a list until it holds no more than some, which ones a free choice. -/
def evictTo {α : Type} (tick k room : Nat) : Nat → List α → List α
  | 0, l => l
  | fuel + 1, l =>
    if l.length ≤ room then l else evictTo tick (k + 1) room fuel (l.eraseIdx (1 + Config.freeNat tick (2 ^ 20 + k) % (l.length - 1)))

/-- The entries of a list by a group they belong to, each group with room for some (none: no limit). -/
def evictBy {α : Type} (tick : Nat) (group : α → Nat) (room : Nat → Option Nat) (l : List α) : List α :=
  (l.map group).dedup.foldl (fun l g =>
    match room g with
    | none => l
    | some n =>
      let mine := l.filter (fun a => group a = g)
      if mine.length ≤ n then l else evictTo tick (g * 2 ^ 12) n mine.length mine ++ l.filter (fun a => group a ≠ g)) l

/-- The TLBs hold no more than their entries (R390, R391). -/
def Device.tlbSettle (d : Device) (tick : Nat) : Device :=
  match d.tlb with
  | [] => d
  | l => { d with tlb := evictBy tick TlbEntry.unit tlbRoom l }

/-- Drop the translations the TLBs hold that a test picks (R391, R395). -/
def Device.tlbDrop (d : Device) (pick : TlbEntry → Bool) : Device := { d with tlb := d.tlb.filter (fun t => !pick t) }

/-- Drop the table entries the walkers hold that a test picks (R391, R395). -/
def Device.tablesDrop (d : Device) (pick : TableEntry → Bool) : Device :=
  { d with tables := d.tables.filter (fun t => !pick t) }

/-! ### Reads and writes at a translated address -/

/-- The class goes through a core's L1 as held sectors. -/
def Xlate.held (x : Xlate) : Bool := x.space = .dev && (x.cls = 1 || x.cls = 2)

/-- A core's L1 holds nothing of the page: one of the host link, or flagged SEQ (R229, R392). -/
def Xlate.uncached (x : Xlate) : Bool := x.space ≠ .dev || x.seq

/-- The core through whose L1 an agent reads: its own, where a load hits what the L1 still holds of the sector, under whichever
class it was filled (R229); for a copy engine that of its core on PRIV pages, where the core's writes are performed in the L1
(R251, R257). -/
def Agent.through (ag : Agent) (x : Xlate) : Option Nat :=
  match ag.l1 with
  | some c => if x.uncached then none else some c
  | none => if x.held && x.cls = 2 then ag.own else none

/-- n bytes as an agent reads them. An access under a SEQ page reads at home alone, past a sector that its core's L1 holds dirty
under a page of another class (DESIGN CHOICE, log entry 13). -/
def Device.readAt (d : Device) (ag : Agent) (x : Xlate) (n : Nat) : List Byte :=
  match ag.through x with
  | some c => (List.range n).map (fun k => d.l1Byte c (x.pa + k))
  | none => readBytes (d.space x.space) x.pa n

/-- The lines of n bytes of an access. -/
def Xlate.lines (x : Xlate) (n : Nat) : List Nat := (List.range ((x.pa + n - 1) / 128 - x.pa / 128 + 1)).map (fun k => x.pa / 128 + k)

/-- The fills a load leaves in its core's L1 (R229, R231). -/
def Device.fillAt (d : Device) (ag : Agent) (x : Xlate) (n : Nat) : Device :=
  match ag.l1 with
  | some c =>
    if x.uncached then d
    else
      let d1 := if x.held then (List.range ((x.pa + n - 1) / 16 - x.pa / 16 + 1)).foldl
        (fun d k => d.l1Fill c ((x.pa / 16 + k) * 16) (x.cls = 2)) d else d
      (x.lines n).foldl (fun d k => d.l1Touch c k) d1
  | none => d

/-- Bytes written at home, and into the sectors that a core's L1 holds of them: written through (R229). -/
def Device.writeThrough (d : Device) (core : Nat) (t : Space) (pa : Nat) (bytes : List Byte) : Device :=
  let d1 := d.storeLong t pa bytes (bytes.length / 128 + 2)
  if d1.l1.any (fun x => x.core = core) then (d1.l1Update core pa bytes).keepOld d t pa bytes.length else d1

/-- Bytes written by a core into its L1 (R229). -/
def Device.writeBehind (d : Device) (core : Nat) (x : Xlate) (bytes : List Byte) : Device :=
  let d1 := (bytes.zip (List.range bytes.length)).foldl (fun d p => d.l1Put core (x.pa + p.2) p.1 (x.cls = 2)) d
  if x.cls = 2 then d1.keepOld d .dev x.pa bytes.length else d1

/-- Bytes written by an agent: into its L1 on SWC and PRIV pages, else to the page's space, a held copy being updated
(R229). An access under a SEQ page writes at home alone, so that a sector which its core's L1 holds dirty under a page of another
class is written back over it later (DESIGN CHOICE, log entry 13). -/
def Device.writeAt (d : Device) (ag : Agent) (x : Xlate) (bytes : List Byte) : Device :=
  let home := d.storeLong x.space x.pa bytes (bytes.length / 128 + 2)
  match ag.l1 with
  | some c =>
    if x.uncached then home
    else
      let d1 := if x.held then d.writeBehind c x bytes else d.writeThrough c .dev x.pa bytes
      ((x.lines bytes.length).filter (fun k => x.held || d.l1Has c k)).foldl (fun d k => d.l1Touch c k) d1
  | none =>
    match ag.own with
    | some c => if x.held then d.writeThrough c .dev x.pa bytes else home
    | none => home

/-- Before an atomic leaves its core, the core's dirty sectors of the line are written back and the line is dropped
(R230); so are those of a PRIV page before one of its copy engine. -/
def Device.beforeAtomic (d : Device) (ag : Agent) (x : Xlate) : Device :=
  match (match ag.l1 with
    | some c => some c
    | none => ag.through x) with
  | some c =>
    let here : L1Sector → Bool := fun s => s.core = c && s.pa / 8 = x.pa / 128
    if x.space = .dev then (d.l1Clean here here).dropCopies .dev x.pa else d
  | none => d

/-! ### Accesses by virtual address -/

/-- A run of an access within pages: each piece's address and length, cut at 4 KiB; of no bytes, none. -/
def pieces (va : W64) (n : Nat) : Nat → List (W64 × Nat)
  | 0 => []
  | fuel + 1 =>
    let k := 4096 - va.toNat % 4096
    if n = 0 then [] else if n ≤ k then [(va, n)] else (va, k) :: pieces (va + BitVec.ofNat 64 k) (n - k) fuel

/-- A failed check of an access; a fault names the accesses of the step that had touched their pages (R386). -/
inductive Miss
  | fault (code detail : Nat) (addr : W64) (seen : List Touched)
  | page (vas : List W64)
  | channel
  deriving DecidableEq, Repr

/-- The first of two misses to report: the lower trap code; a trap before a wait (R169, R387). Pages that are not resident
are waited for together (R388). -/
def Miss.worse : Miss → Miss → Miss
  | .fault c d a l, .fault c' d' a' l' => if c' < c then .fault c' d' a' l' else .fault c d a l
  | .fault c d a l, _ => .fault c d a l
  | _, .fault c d a l => .fault c d a l
  | .page v, .page w => .page (v ++ w)
  | .page v, _ => .page v
  | _, m => m

/-- The checks of an access of n bytes, page by page (R169): the translations, or the miss to report. -/
def Device.probeRun (d : Device) (p : Platform) (tick ctx : Nat) (ag : Agent) (k : Access) (linkOk : Bool) :
    List (W64 × Nat) → Except Miss (List (Xlate × Nat × W64))
  | [] => .ok []
  | (va, n) :: l =>
    let rest := d.probeRun p tick ctx ag k linkOk l
    let here : Except Miss Xlate := match d.probe p tick ctx ag k linkOk va with
      | .ok x => if x.space ≠ .dev || channelsReady p.ready x.pa n then .ok x else .error .channel
      | .fault c det => .error (.fault c det va d.touches)
      | .page => .error (.page [va])
      | .channel => .error .channel
    match here, rest with
    | .ok x, .ok r => .ok ((x, n, va) :: r)
    | .ok _, .error m => .error m
    | .error m, .ok _ => .error m
    | .error m, .error m' => .error (m.worse m')

/-- The checks of an access of n bytes at an address. -/
def Device.probeN (d : Device) (p : Platform) (tick ctx : Nat) (ag : Agent) (k : Access) (linkOk : Bool) (va : W64) (n : Nat) :
    Except Miss (List (Xlate × Nat × W64)) :=
  d.probeRun p tick ctx ag k linkOk (pieces va n (n / 4096 + 2))

/-- Touch every page of a checked access. -/
def Device.touchAll (d : Device) (ag : Agent) (ctx : Nat) (k : Access) (l : List (Xlate × Nat × W64)) : Device :=
  l.foldl (fun d t => d.touch ag ctx t.2.2 k t.1) d

/-- The bytes of a checked read. -/
def Device.readRun (d : Device) (ag : Agent) (l : List (Xlate × Nat × W64)) : List Byte :=
  l.flatMap (fun t => d.readAt ag t.1 t.2.1)

/-- The sector at an address is poisoned as an agent reads it: as its core's L1 holds it, else at home (R425). -/
def Device.sectorBad (d : Device) (ag : Agent) (x : Xlate) (pa : Nat) : Bool :=
  match (ag.through x).bind (fun c => d.l1Find c pa) with
  | some s => s.bad ≠ 0
  | none => d.poisoned x.space pa 1

/-- The sectors of n bytes of an access. -/
def Xlate.sectors (x : Xlate) (n : Nat) : List Nat :=
  (List.range ((x.pa + n - 1) / 16 - x.pa / 16 + 1)).map (fun k => (x.pa / 16 + k) * 16)

/-- Some byte of a checked read is poisoned as an agent reads it. -/
def Device.poisonRun (d : Device) (ag : Agent) (l : List (Xlate × Nat × W64)) : Bool :=
  l.any (fun t => (t.1.sectors t.2.1).any (fun a => d.sectorBad ag t.1 a))

/-- The device address of the first poisoned sector of a checked read (R431). -/
def Device.poisonFirst (d : Device) (ag : Agent) (l : List (Xlate × Nat × W64)) : W64 :=
  BitVec.ofNat 64 (((l.flatMap (fun t => (t.1.sectors t.2.1).map (fun a => (t.1, a)))).find?
    (fun p => d.sectorBad ag p.1 p.2)).map Prod.snd |>.getD 0)

/-- Write bytes over a checked run. -/
def Device.writeRun (d : Device) (ag : Agent) : List (Xlate × Nat × W64) → List Byte → Device
  | [], _ => d
  | t :: l, bytes => (d.writeAt ag t.1 (bytes.take t.2.1)).writeRun ag l (bytes.drop t.2.1)

/-- Read n bytes at a virtual address with every check; the device with the pages touched, the bytes, and whether some
byte was poisoned. -/
def Device.load (d : Device) (p : Platform) (tick ctx : Nat) (ag : Agent) (linkOk : Bool) (va : W64) (n : Nat) :
    Except Miss (Device × List Byte × Bool) :=
  match d.probeN p tick ctx ag .load linkOk va n with
  | .error m => .error m
  | .ok l => let d1 := d.touchAll ag ctx .load l
             .ok (d1, d1.readRun ag l, d1.poisonRun ag l)

/-- Write bytes at a virtual address with every check. -/
def Device.write (d : Device) (p : Platform) (tick ctx : Nat) (ag : Agent) (linkOk : Bool) (va : W64) (bytes : List Byte) :
    Except Miss Device :=
  match d.probeN p tick ctx ag .store linkOk va bytes.length with
  | .error m => .error m
  | .ok l => .ok ((d.touchAll ag ctx .store l).writeRun ag l bytes)

/-! ### Instruction fetch (R59, R60, R232) -/

/-- The 32 words of the line that holds an address, as the visible stores have left them. -/
def Device.lineWords (d : Device) (t : Space) (pa : Nat) : List W32 :=
  (List.range 32).map (fun k => d.wordSeen t (pa / 128 * 128 + 4 * k))

/-- The sector at an address is poisoned as a fetch reads it: at home, or where an L1 holds visible bytes of it (R425). -/
def Device.fetchBad (d : Device) (t : Space) (pa : Nat) : Bool :=
  match d.aheadOf t pa with
  | some x => x.bad ≠ 0
  | none => d.poisoned t pa 1

/-- A line as a core's instruction cache holds it from a fill on, with the poison marks of its sectors (R425). -/
def Device.icLine (d : Device) (core : Nat) (x : Xlate) : ICLine :=
  { core, line := lineKey x.space x.pa, data := d.lineWords x.space x.pa
    bad := (List.range 8).foldl (fun m k => if d.fetchBad x.space (x.pa / 128 * 128 + 16 * k) then m ||| (1#8 <<< k) else m) 0 }

/-- The word at an address as a held line gives it; none where its sector was poisoned at the fill. -/
def ICLine.wordAt (c : ICLine) (pa : Nat) : Option W32 :=
  if c.bad.getLsbD (pa % 128 / 16) then none else some (c.data.getD (pa % 128 / 4) 0)

/-- The word at an address as a core's dirty sector would leave it at home. -/
def Device.wordUnder (d : Device) (x : L1Sector) (pa : Nat) : W32 :=
  BitVec.ofNat 32 (bytesToNat ((List.range 4).map (fun k =>
    let a := pa / 4 * 4 + k
    if x.dirty.getLsbD (a % 16) then x.byte (a % 16) else SMap.get (w := 8) d.mem a)))

/-- What a fetch of one word may give (R60): the word as the visible stores have left it; the word of a line that the core holds; a word that a store has
changed since the core's last CACHE .iinv of it; and the word that a store not yet visible at .dev has written. None stands for a
poisoned sector, read at home or held. -/
def Device.fetchChoices (d : Device) (core : Nat) (x : Xlate) : List (Option W32) :=
  let home := if d.fetchBad x.space x.pa then none else some (d.wordSeen x.space x.pa)
  let held := match d.icache.find? (fun c => c.core = core && c.line = lineKey x.space x.pa) with
    | some c => [c.wordAt x.pa]
    | none => []
  let was := (d.old.filter (fun o => o.key = wordKey x.space x.pa && !o.gone.contains core)).map OldWord.word
  let due := (d.l1.filter (fun s => x.space = .dev && s.pa = x.pa / 16 && s.dirty ≠ s.ahead && s.bad = 0)).map (fun s => d.wordUnder s x.pa)
  (home :: held ++ (if home.isSome then (was ++ due).map some else [])).dedup

/-- One of some outcomes, which one a free choice where there are several. -/
def oneOf {α : Type} (tick k : Nat) (l : List α) (dflt : α) : α :=
  match l with
  | [a] => a
  | l => l.getD (Config.freeNat tick k % l.length) dflt

/-- The lines of a sequential prefetch beyond a miss: at most two, how many a free choice; it raises no trap, and goes on into
another page only through a translation its core's TLB holds (R109, R232). -/
def Device.prefetch (d : Device) (p : Platform) (tick k ctx core : Nat) (va : W64) (x : Xlate) : List ICLine :=
  (List.range (Config.freeNat tick (64 + k) % 3)).filterMap (fun j =>
    let next := BitVec.ofNat 64 ((va.toNat / 128 + 1 + j) * 128)
    match d.probe p tick ctx (Agent.core core) .fetch true next with
    | .ok y =>
      if (y.leaf.same x.leaf || (d.tlbUsed ctx next y.leaf (coreTlb core)).isSome)
          && !d.icache.any (fun c => c.core = core && c.line = lineKey y.space y.pa) then some (d.icLine core y)
      else none
    | _ => none)

/-- Fetch one word, which of the old and the new one is unspecified (R60). The line is held from then on, and up to two after
it. A word of a poisoned sector is SPADUE, detail 4 (R426). -/
def Device.fetchWord (d : Device) (p : Platform) (tick k ctx core : Nat) (va : W64) : Except Miss (Device × W32) :=
  match d.probe p tick ctx (Agent.core core) .fetch true va with
  | .fault c det => .error (.fault c det va d.touches)
  | .page => .error (.page [va])
  | .channel => .error .channel
  | .ok x =>
    let d1 := d.touch (Agent.core core) ctx va .fetch x
    match oneOf tick (k + 32) (d1.fetchChoices core x) none with
    | none => .error (.fault 0x0D 4 (BitVec.ofNat 64 (x.pa / 16 * 16)) d1.touches)
    | some w =>
      if d1.icache.any (fun c => c.core = core && c.line = lineKey x.space x.pa) then .ok (d1, w)
      else .ok ({ d1 with icache := d1.icLine core x :: (d1.prefetch p tick k ctx core va x ++ d1.icache) }, w)

/-- Fetch the words of an instruction after its first (R59). -/
def Device.fetchRest (d : Device) (p : Platform) (tick k ctx core : Nat) (va : W64) : Nat → Except Miss (Device × List W32)
  | 0 => .ok (d, [])
  | n + 1 =>
    match d.fetchWord p tick k ctx core va with
    | .ok (d1, w) =>
      match d1.fetchRest p tick (k + 1) ctx core (va + 4) n with
      | .ok (d2, ws) => .ok (d2, w :: ws)
      | .error m => .error m
    | .error m =>
      match d.fetchRest p tick (k + 1) ctx core (va + 4) n with
      | .ok _ => .error m
      | .error m' => .error (m.worse m')

/-- Fetch the instruction at an address: its words, as many as word 0 asks for (R59). -/
def Device.fetch (d : Device) (p : Platform) (tick ctx core : Nat) (va : W64) : Except Miss (Device × List W32) :=
  match d.fetchWord p tick 0 ctx core va with
  | .error m => .error m
  | .ok (d1, w0) =>
    match insnLen w0 with
    | 0 => .ok (d1, [w0])
    | n + 1 =>
      match d1.fetchRest p tick 1 ctx core (va + 4) (n + 1) with
      | .ok (d2, ws) => .ok (d2, w0 :: ws)
      | .error m => .error m
where
  /-- Words after the first that LEN asks for; none for 0b11. -/
  insnLen (w0 : W32) : Nat := let k := (w0.extractLsb' 0 2).toNat; if k = 3 then 0 else k

/-- Sets of an instruction cache: 128 KiB, 8 ways, lines of 128 B (R232). -/
def icSets : Nat := 128

/-- The instruction caches hold no more lines in a set than its ways; which line leaves is a free choice (R232). -/
def Device.icSettle (d : Device) (tick : Nat) : Device :=
  match d.icache with
  | [] => d
  | l => { d with icache := evictBy tick (fun c => c.core * icSets + c.line % icSets) (fun _ => some cacheWays) l }

/-- Before a step: the caches and the TLBs hold what they have room for. -/
def Device.cachesSettle (d : Device) (tick : Nat) : Device := ((d.l1Settle).tlbSettle tick).icSettle tick

end Sys2Proof.Machine
end

