-- ==== Sys2Proof/Machine/Errors.lean ====
section
/-! DEFINITION. Interrupts and their coalescing (R375), error records and the error ring (R430, R431), and page requests
(R388). -/

namespace Sys2Proof.Machine

/-- What a step reads besides the device: the platform, and the step's number for free choices. -/
structure Env where
  plat : Platform
  tick : Nat
  deriving DecidableEq, Repr

/-- DTIME. -/
def Env.now (e : Env) : W64 := e.plat.dtime

/-! ### Interrupts (R375) -/

/-- Send the message of a vector, or set its pending bit while it is masked. -/
def Msix.send (m : Msix) (v : Nat) : Msix :=
  if (m.table.get (4 * v + 3)).getLsbD 0 then
    { m with pba := m.pba.set (v / 64) (m.pba.get (v / 64) ||| (1#64 <<< (v % 64))) }
  else { m with sent := m.sent ++ [v] }

/-- NCOUNT of a vector, 1 when written 0. -/
def Msix.ncount (m : Msix) (v : Nat) : Nat := max 1 ((m.icoal.get v).extractLsb' 0 16).toNat

/-- TUS of a vector. -/
def Msix.tus (m : Msix) (v : Nat) : Nat := ((m.icoal.get v).extractLsb' 16 32).toNat

/-- A request on a vector: P + 1, and the message when P reaches NCOUNT. -/
def Msix.request (m : Msix) (now : W64) (v : Nat) : Msix :=
  let p : Nat × W64 := (m.pending.get v).getD (0, now)
  if m.ncount v ≤ p.1 + 1 then ({ m with pending := m.pending.erase v }).send v
  else { m with pending := m.pending.set v (p.1 + 1, p.2) }

/-- Request an interrupt. -/
def Device.interrupt (d : Device) (e : Env) (v : Nat) : Device := { d with msix := d.msix.request e.now v }

/-! ### Error records (R431) -/

/-- A record with no field but its type and time. -/
def ErrRec.blank (type : Nat) (now : W64) : ErrRec :=
  { type, code := 0, detail := 0, ctx := 0, slot := 0, core := 0, swarm := 0, addr := 0, time := now, unitKind := 0
    unit := 0, row := 0, pc := 0 }

/-- WHO of a record. -/
def ErrRec.who (r : ErrRec) : Nat :=
  r.code % 256 + r.detail % 256 * 2 ^ 8 + r.ctx % 16 * 2 ^ 30 + r.slot % 64 * 2 ^ 34 + r.core % 256 * 2 ^ 40
    + r.swarm % 65536 * 2 ^ 48

/-- LOC of a record. -/
def ErrRec.loc (r : ErrRec) : Nat := r.row % 2 ^ 32 + r.unit % 256 * 2 ^ 48 + r.unitKind % 256 * 2 ^ 56

/-- The 64 bytes of a record. -/
def ErrRec.bytes (r : ErrRec) : List Byte :=
  natToBytes 8 r.type ++ natToBytes 8 r.who ++ natToBytes 8 r.addr.toNat ++ natToBytes 8 r.time.toNat
    ++ natToBytes 8 r.loc ++ natToBytes 8 r.pc.toNat ++ natToBytes 16 0

/-- LOG2N of the ring (R430). -/
def Errors.log2n (r : Errors) : Nat := (r.cfg.extractLsb' 0 5).toNat
/-- The ring is configured. -/
def Errors.configured (r : Errors) : Bool := decide (4 ≤ r.log2n) && decide (r.log2n ≤ 16)
/-- The ring is full. -/
def Errors.isFull (r : Errors) : Bool := r.widx - r.ridx = BitVec.ofNat 64 (2 ^ r.log2n)
/-- The ring lies in host memory. -/
def Errors.inHost (r : Errors) : Bool := r.cfg.getLsbD 5
/-- The ring's vector. -/
def Errors.vec (r : Errors) : Nat := (r.cfg.extractLsb' 16 11).toNat

/-- Count a dropped record. -/
def Device.dropRecord (d : Device) : Device := { d with errors := { d.errors with drop := d.errors.drop + 1 } }

/-- Address of the ring's next slot. -/
def Errors.slotAt (r : Errors) : Nat := r.base.toNat + 64 * (r.widx.toNat % 2 ^ r.log2n)

/-- The ring's next slot is on a channel that is ready; past the memory there is none to wait for (R415). -/
def Errors.slotReady (r : Errors) (e : Env) : Bool :=
  r.inHost || decide (e.plat.part.capacity < r.slotAt + 64) || channelsReady e.plat.ready r.slotAt 64

/-- Write a record into a ring that has room: the slot, then ERWIDX, then the interrupt; dropped when the slot reaches
past the memory, or the host's IOMMU or the link rejects the write. -/
def Device.putRecord (d : Device) (e : Env) (r : ErrRec) : Device :=
  let q := d.errors
  let a := q.slotAt
  let fails : Bool := if q.inHost then decide (2 ^ 64 < a + 64) || linkRejects e.tick a else decide (e.plat.part.capacity < a + 64)
  if fails then d.dropRecord
  else
    let d1 := d.storeLong (if q.inHost then .host else .dev) a r.bytes 2
    ({ d1 with errors := { d1.errors with widx := d1.errors.widx + 1 } }).interrupt e q.vec

/-- Write an error record, hold a page request while the ring is full, or drop it (R430). A record whose slot's channel is not
ready waits for it, and those after it wait behind it (R415). -/
def Device.report (d : Device) (e : Env) (r : ErrRec) : Device :=
  let hold : Device := { d with errors := { d.errors with held := d.errors.held ++ [r] } }
  if !d.errors.configured then d.dropRecord
  else if d.errors.isFull then (if r.type = 5 then hold else d.dropRecord)
  else if d.errors.slotReady e then d.putRecord e r
  else hold

/-- A full ring keeps only page requests held: other records, which waited for a channel, are dropped and counted (R430). -/
def Errors.fullHold (r : Errors) (l : List ErrRec) : Errors :=
  { r with held := l.filter (fun x => x.type = 5), drop := r.drop + BitVec.ofNat 64 (l.filter (fun x => x.type ≠ 5)).length }

/-- Write some held records while there is room, and hold the others. -/
def Device.putHeld (d : Device) (e : Env) : List ErrRec → Device
  | [] => { d with errors := { d.errors with held := [] } }
  | r :: l =>
    if d.errors.isFull then { d with errors := d.errors.fullHold (r :: l) }
    else if !d.errors.slotReady e then { d with errors := { d.errors with held := r :: l } }
    else (d.putRecord e r).putHeld e l

/-- Write what is held into a ring that is configured and has room. -/
def Device.releaseHeld (d : Device) (e : Env) : Device := if d.errors.configured then d.putHeld e d.errors.held else d

/-- The page of an address as the tables map it now: its first address. -/
def Device.pageBase (d : Device) (e : Env) (ctx : Nat) (va : W64) : W64 :=
  match d.ctxs.get ctx with
  | none => va
  | some c =>
    match walkFrom d.mem e.plat.part.capacity va.toNat 4 c.ptroot.toNat with
    | .ok l => BitVec.ofNat 64 (va.toNat / l.size * l.size)
    | .error _ => BitVec.ofNat 64 (va.toNat / 4096 * 4096)

/-- Post a page request, once per page (R388). -/
def Device.pageRequest (d : Device) (e : Env) (ctx core slot swarm : Nat) (va : W64) : Device :=
  let page := d.pageBase e ctx va
  if d.pageReqs.contains (ctx, page) then d
  else
    ({ d with pageReqs := d.pageReqs ++ [(ctx, page)] }).report e
      { ErrRec.blank 5 e.now with ctx, core, slot, swarm, addr := va }

/-- Post a request for each of some pages (R388). -/
def Device.pageRequests (d : Device) (e : Env) (ctx core slot swarm : Nat) (vas : List W64) : Device :=
  vas.foldl (fun d va => d.pageRequest e ctx core slot swarm va) d

/-- A type 1 record of a device unit: a code and the faulting address, and the core, the slot and the swarm of an operation that
has them (R431). -/
def Device.reportFault (d : Device) (e : Env) (ctx code detail : Nat) (addr : W64) (who : Who := {}) : Device :=
  d.report e { ErrRec.blank 1 e.now with ctx, code, detail, addr, core := who.core, slot := who.slot, swarm := who.swarm }

/-- What a record says of a group in a slot. -/
def Group.who (g : Group) (key : Nat) : Who := { core := key / 48, slot := key % 48, swarm := g.swarm }

end Sys2Proof.Machine
end

