-- ==== Sys2Proof/Machine/Units.lean ====
section
/-! DEFINITION. The units at the home slices: their accesses to a context's memory (R277, R314), the pool table (R313 to
R315), allocation and release of cells (R319, R320), and drain stamps (R255). -/

namespace Sys2Proof.Machine

/-! ### Accesses with the checks of a .dev atomic -/

/-- The checks of a .dev atomic on n bytes; the pages are touched. -/
def Device.atomicRun (d : Device) (e : Env) (ctx : Nat) (ag : Agent) (va : W64) (n : Nat) :
    Except Miss (Device × List (Xlate × Nat × W64)) :=
  match d.probeN e.plat e.tick ctx ag .atomic false va n with
  | .error m => .error m
  | .ok l =>
    let d1 := d.touchAll ag ctx .atomic l
    .ok (l.foldl (fun d t => d.beforeAtomic ag t.1) d1, l)

/-- Read n bytes as a number, as part of an atomic. A poisoned sector is met as SPADUE, detail 4 (R426). -/
def Device.atomicLoad (d : Device) (e : Env) (ctx : Nat) (ag : Agent) (va : W64) (n : Nat) : Except Miss (Device × Nat) :=
  match d.atomicRun e ctx ag va n with
  | .error m => .error m
  | .ok (d1, l) =>
    if d1.poisonRun ag l then .error (.fault 0x0D 4 (d1.poisonFirst ag l) d1.touches)
    else .ok (d1, bytesToNat (l.flatMap (fun t => readBytes (d1.space t.1.space) t.1.pa t.2.1)))

/-- Write bytes over a checked run past the L1: each piece at home. -/
def Device.storeRun (d : Device) : List (Xlate × Nat × W64) → List Byte → Device
  | [], _ => d
  | t :: l, bytes => (d.storeLong t.1.space t.1.pa (bytes.take t.2.1) (t.2.1 / 128 + 2)).storeRun l (bytes.drop t.2.1)

/-- Write n bytes of a number, as part of an atomic. -/
def Device.atomicStore (d : Device) (e : Env) (ctx : Nat) (ag : Agent) (va : W64) (n v : Nat) : Except Miss Device :=
  match d.atomicRun e ctx ag va n with
  | .error m => .error m
  | .ok (d1, l) => .ok (d1.storeRun l (natToBytes n v))

/-- The place in memory of an address that an agent may access as an atomic, by `spaceKey`: home(f) of a future (R274). -/
def Device.placeOf (d : Device) (e : Env) (ctx : Nat) (ag : Agent) (va : W64) : Option Nat :=
  match d.probeN e.plat e.tick ctx ag .atomic false va 16 with
  | .ok (t :: _) => some (spaceKey t.1.space t.1.pa)
  | _ => none

/-! ### The pool table (R313) -/

/-- An entry before any PDEF. -/
def Pool.reset : Pool := { base := 0, count := 0, map := 0, csz := 0, defd := false, bump := 0, free := 0, live := 0, gen := 0 }

/-- Bytes of a cell. -/
def Pool.size (p : Pool) : Nat := 64 * 2 ^ p.csz

/-- Address of cell i (R314). -/
def Pool.cellAt (p : Pool) (i : Nat) : W64 := p.base + BitVec.ofNat 64 (i * p.size)

/-- A context's pool entry. -/
def Ctx.pool (c : Ctx) (k : Nat) : Pool := (c.pools.get k).getD Pool.reset

/-- A pool entry of the device. -/
def Device.pool (d : Device) (ctx k : Nat) : Pool :=
  match d.ctxs.get ctx with
  | some c => c.pool k
  | none => Pool.reset

/-- Change a context. -/
def Device.updCtx (d : Device) (ctx : Nat) (f : Ctx → Ctx) : Device := { d with ctxs := d.ctxs.upd ctx f }

/-- Replace a pool entry. -/
def Device.setPool (d : Device) (ctx k : Nat) (p : Pool) : Device :=
  d.updCtx ctx (fun c => { c with pools := c.pools.set k p })

/-- Read the map bit of cell i (R314). -/
def Device.mapBit (d : Device) (e : Env) (ctx : Nat) (p : Pool) (i : Nat) : Except Miss (Device × Nat) :=
  d.atomicLoad e ctx Agent.unit (p.map + BitVec.ofNat 64 (i / 8)) 1

/-- Set or clear the map bit of cell i (R314). -/
def Device.setMapBit (d : Device) (e : Env) (ctx : Nat) (p : Pool) (i : Nat) (b : Bool) : Except Miss Device :=
  match d.mapBit e ctx p i with
  | .error m => .error m
  | .ok (d1, x) =>
    let w := 2 ^ (i % 8)
    d1.atomicStore e ctx Agent.unit (p.map + BitVec.ofNat 64 (i / 8)) 1 (if b then x ||| w else x &&& (255 - w))

/-- Hand out one cell of a defined pool (R319): its index, or none when no cell is free. -/
def Device.cellAlloc (d : Device) (e : Env) (ctx k : Nat) : Except Miss (Device × Option Nat) :=
  let p := d.pool ctx k
  if p.free ≠ 0 then
    match d.atomicLoad e ctx Agent.unit (p.cellAt (p.free - 1)) 8 with
    | .error m => .error m
    | .ok (d1, link) =>
      match d1.setMapBit e ctx p (p.free - 1) true with
      | .error m => .error m
      | .ok d2 => .ok (d2.setPool ctx k { p with free := link % 2 ^ 33, live := p.live + 1 }, some (p.free - 1))
  else if p.bump < p.count then
    match d.setMapBit e ctx p p.bump true with
    | .error m => .error m
    | .ok d1 => .ok (d1.setPool ctx k { p with bump := p.bump + 1, live := p.live + 1 }, some p.bump)
  else .ok (d, none)

/-- Link a cell into the free list and count it free (R320): at LIVE 0, which only a map bit that a program set itself leads to,
LIVE stays 0 (DESIGN CHOICE, log entry 55). -/
def Device.cellLink (d : Device) (e : Env) (ctx k i : Nat) : Except Miss Device :=
  let p := d.pool ctx k
  match d.atomicStore e ctx Agent.unit (p.cellAt i) 8 p.free with
  | .error m => .error m
  | .ok d1 => .ok (d1.setPool ctx k { p with free := i + 1, live := p.live - 1 })

/-- Clear a cell's map bit: the device with the map read, and whether the cell was allocated (R320). -/
def Device.cellUnmap (d : Device) (e : Env) (ctx k i : Nat) : Except Miss (Device × Bool) :=
  let p := d.pool ctx k
  if p.bump ≤ i then .ok (d, false)
  else
    match d.mapBit e ctx p i with
    | .error m => .error m
    | .ok (d1, x) => if x.testBit (i % 8) then (d1.setMapBit e ctx p i false).map (fun d => (d, true)) else .ok (d1, false)

/-- Return a cell to its pool (R320): whether it was allocated. -/
def Device.cellFree (d : Device) (e : Env) (ctx k i : Nat) : Except Miss (Device × Bool) :=
  match d.cellUnmap e ctx k i with
  | .ok (d1, true) => (d1.cellLink e ctx k i).map (fun d => (d, true))
  | r => r

/-- Empty a pool and every region bound to it (R318). -/
def Device.poolReset (d : Device) (ctx k : Nat) : Device :=
  let p := d.pool ctx k
  if p.defd then
    (d.setPool ctx k { p with bump := if k = 0 then 1 else 0, free := 0, live := 0, gen := p.gen + 1 }).updCtx ctx
      (fun c => { c with combs := c.combs.mapV (fun _ r =>
        if (r.config.extractLsb' 24 6).toNat = k && r.config ≠ 0 then { r with root := 0, nent := 0 } else r) })
  else d

/-! ### Acquire and release on SWC pages (R229, R251) -/

/-- Orders at .dev or .sys scope. -/
def wideScope (s : Scope) : Bool := s = .dev || s = .sys

/-- An order includes release. -/
def isRel (o : MemOrd) : Bool := o = .rel || o = .acqrel
/-- An order includes acquire. -/
def isAcq (o : MemOrd) : Bool := o = .acq || o = .acqrel

/-- What an order does to a core's L1: a release writes dirty SWC sectors back, an acquire drops the SWC lines as well. -/
def Device.order (d : Device) (core : Nat) (o : MemOrd) (s : Scope) : Device :=
  if wideScope s && o ≠ .plain then d.l1Clean (fun x => x.core = core && !x.priv) (fun _ => isAcq o) else d

/-! ### Drain stamps (R255) -/

/-- The producing group's performed count has reached a stamp; a group with no count left has performed everything. -/
def Device.reached (d : Device) (s : Stamp) : Bool :=
  match d.drains.get s.guid with
  | none => true
  | some r => decide ((r.done - s.count).toNat < 2 ^ 31)

/-- The producing group's writes have reached a stamp at .core scope, as they have once they have at .dev. -/
def Device.reachedCore (d : Device) (s : Stamp) : Bool :=
  d.reached s ||
    match d.drains.get s.guid with
    | none => true
    | some r => decide ((r.core - s.count).toNat < 2 ^ 31)

/-- The first of some stamps that is not reached. -/
def Device.unreached (d : Device) (l : List Stamp) : List Stamp := l.filter (fun s => !d.reached s)

end Sys2Proof.Machine
end

