-- ==== Sys2Proof/Machine/Queues.lean ====
section
/-! DEFINITION. Task records (R263, R264) and the queues that hold them: local queues, backing queues, and records the
device holds for want of room (R267, R268, R271). -/

namespace Sys2Proof.Machine

/-! ### Records (R263) -/

/-- A record from its eight words; the producing group of the stamp is the device's. -/
def TaskRec.ofWords (l : List W64) : TaskRec :=
  let w (k : Nat) : W64 := l.getD k 0
  { code := w 0, frame := w 1, result := w 2
    swarm := (w 3).extractLsb' 0 16, prio := (w 3).extractLsb' 16 8, isSealed := (w 3).getLsbD 24
    zsp := (w 3).getLsbD 25, width := (w 3).extractLsb' 26 2, lanes := (w 3).extractLsb' 32 8
    scratch := (w 3).extractLsb' 40 16, vregs := (w 4).extractLsb' 0 16, join := (w 4).extractLsb' 16 16
    stamp := (w 4).extractLsb' 32 32, stampOf := 0
    args := [(w 5).extractLsb' 0 32, (w 5).extractLsb' 32 32, (w 6).extractLsb' 0 32, (w 6).extractLsb' 32 32,
             (w 7).extractLsb' 0 32, (w 7).extractLsb' 32 32] }

/-- The eight words of a record, reserved fields zero (R6). -/
def TaskRec.toWords (r : TaskRec) : List W64 :=
  let a (k : Nat) : W32 := r.args.getD k 0
  [r.code, r.frame, r.result,
   (r.scratch ++ r.lanes ++ (0 : BitVec 4) ++ r.width ++ BitVec.ofBool r.zsp ++ BitVec.ofBool r.isSealed ++ r.prio ++ r.swarm
     : BitVec 56).setWidth 64,
   r.stamp ++ r.join ++ r.vregs, a 1 ++ a 0, a 3 ++ a 2, a 5 ++ a 4]

/-- Lanes of a width code (R263); 0 for the invalid one. -/
def widthOf : Nat → Nat
  | 0 => 32 | 1 => 64 | 2 => 96 | _ => 0

/-- The checks of a record at its pop (R264). -/
def TaskRec.valid (r : TaskRec) : Bool :=
  let w := widthOf r.width.toNat
  decide (r.code.toNat % 4 = 0) && r.code.extractLsb' 57 7 = 0 && decide (r.prio.toNat ≤ 47) && decide (r.width.toNat ≠ 3)
    && decide (1 ≤ r.lanes.toNat) && decide (r.lanes.toNat ≤ w) && decide (r.scratch.toNat ≤ 2048)
    && decide (r.vregs.toNat % 32 = 0) && decide (32 ≤ r.vregs.toNat) && decide (r.vregs.toNat ≤ 320)

/-- The value word of a faulted task (R124, R264): the code, the address of R124, and whether the task never ran. -/
def faultValue (code : Nat) (pc : W64) (never : Bool) : W64 :=
  BitVec.ofNat 64 (code % 256 + (pc.extractLsb' 2 55).toNat * 256 + (if never then 2 ^ 63 else 0))

/-- A queued record from a record of a context. -/
def QRec.mk' (ctx : Nat) (r : TaskRec) (now : W64) : QRec := { ctx, r, level := r.prio.toNat, since := now, uncorr := 0 }

/-! ### Queues (R267, R268) -/

/-- A core's local queue, oldest first. -/
def Device.localQ (d : Device) (core : Nat) : List QRec := (d.local_.get core).getD []

/-- Replace a core's local queue. -/
def Device.setLocalQ (d : Device) (core : Nat) (l : List QRec) : Device := { d with local_ := d.local_.set core l }

/-- A context's backing queue has a free slot. -/
def Device.backingRoom (d : Device) (ctx : Nat) : Bool :=
  match d.ctxs.get ctx with
  | some c => decide (c.backing.length < c.bqsize)
  | none => false

/-- The lowest slot of a context's ring that holds no record. -/
def Ctx.ringSlot (c : Ctx) : Nat := ((List.range c.bqsize).find? (fun k => !c.backing.any (fun q => q.slot = k))).getD 0

/-- Address of a slot of a context's ring. -/
def Ctx.ringAt (c : Ctx) (slot : Nat) : Nat := c.bqbase.toNat + 64 * slot

/-- The next free slot of a context's ring is on a channel that is ready (R415). -/
def Device.ringReady (d : Device) (e : Env) (ctx : Nat) : Bool :=
  (d.ctxs.get ctx).all (fun c => channelsReady e.plat.ready (c.ringAt c.ringSlot) 64)

/-- Append to a context's backing queue: the record stands in a free slot of the ring in memory (R268). -/
def Device.pushBacking (d : Device) (q : QRec) : Device :=
  match d.ctxs.get q.ctx with
  | none => d
  | some c =>
    let k := c.ringSlot
    (d.store .dev (c.ringAt k) (wordsToBytes q.r.toWords)).updCtx q.ctx (fun c => { c with backing := c.backing ++ [{ q with slot := k }] })

/-- Push into the backing queue of a record's context: none when it is full; a wait for the slot's channel (R268, R415). -/
def Device.toBacking (d : Device) (e : Env) (q : QRec) : Except Miss (Option Device) :=
  if !d.backingRoom q.ctx then .ok none
  else if d.ringReady e q.ctx then .ok (some (d.pushBacking q))
  else .error .channel

/-- A record of a backing queue as its slot holds it; which group its stamp belongs to the device keeps. -/
def Device.ringRecord (d : Device) (q : QRec) : QRec :=
  match d.ctxs.get q.ctx with
  | none => q
  | some c =>
    { q with r := { TaskRec.ofWords (bytesToWords (readBytes d.mem (c.ringAt q.slot) 64)) with stampOf := q.r.stampOf } }

/-- The least level of some records. -/
def minLevel : List QRec → Nat
  | [] => 2 ^ 16
  | q :: l => min q.level (minLevel l)

/-- The greatest level of some records. -/
def maxLevel : List QRec → Nat
  | [] => 0
  | q :: l => max q.level (maxLevel l)

/-- Remove the last record of a level. -/
def dropLastOf (lv : Nat) (l : List QRec) : List QRec :=
  ((updFirst (fun (p : QRec × Bool) => p.1.level = lv) (fun p => (p.1, false)) (l.reverse.map (fun q => (q, true)))).filter
    (fun p => p.2)).map Prod.fst |>.reverse

/-- Remove the first record of a level. -/
def dropFirstOf (lv : Nat) (l : List QRec) : List QRec :=
  ((updFirst (fun (p : QRec × Bool) => p.1.level = lv) (fun p => (p.1, false)) (l.map (fun q => (q, true)))).filter
    (fun p => p.2)).map Prod.fst

/-- Work arrives at a core: gating ends, or a gated core will wake (R424). -/
def Device.wakeCore (d : Device) (core : Nat) : Device :=
  match d.coreGate.get core with
  | none => d
  | some (.gated _) => { d with coreGate := d.coreGate.set core (.gated true) }
  | some _ => { d with coreGate := d.coreGate.erase core }

/-- Push into a core's local queue, spilling as R267 says; none when there is no room anywhere. -/
def Device.pushLocal (d : Device) (e : Env) (core : Nat) (q : QRec) : Except Miss (Option Device) :=
  let l := d.localQ core
  if l.length < 256 then .ok (some ((d.wakeCore core).setLocalQ core (l ++ [q])))
  else
    let lo := minLevel l
    match l.reverse.find? (fun x => x.level = lo) with
    | some v =>
      if lo < q.level && d.backingRoom v.ctx then
        ((d.wakeCore core).toBacking e v).map (fun o => o.map (fun d1 => d1.setLocalQ core (dropLastOf lo l ++ [q])))
      else d.toBacking e q
    | none => d.toBacking e q

/-- A push of the device's own: to a core's local queue, or to the backing queue. -/
def Device.pushOwn (d : Device) (e : Env) (core : Option Nat) (q : QRec) : Except Miss (Option Device) :=
  match core with
  | some c => d.pushLocal e c q
  | none => d.toBacking e q

/-- A push of the device's own is held when there is no room, or its slot's channel is not ready (R267, R415). -/
def Device.pushDevice (d : Device) (e : Env) (core : Option Nat) (q : QRec) : Device :=
  match d.pushOwn e core q with
  | .ok (some d1) => d1
  | _ => { d with heldPush := d.heldPush ++ [{ core, q, cell := none }] }

/-- The records of a queue that a test picks move to the tail of a level (R286). -/
def raiseIn (hit : QRec → Bool) (p : Nat) (l : List QRec) : List QRec :=
  l.filter (fun q => !hit q) ++ (l.filter hit).map (fun q => { q with level := p })

/-! ### Swarm states (R289) -/

/-- A swarm of a context. -/
def Device.swarm (d : Device) (ctx w : Nat) : Option Swarm :=
  match d.ctxs.get ctx with
  | some c => c.swarms.get w
  | none => none

/-- A swarm accepts records: no swarm at all, or one that is LIVE or CLOSED. -/
def Device.swarmOpen (d : Device) (ctx w : Nat) : Bool :=
  w = 0 || (match d.swarm ctx w with
    | some s => s.st = .live || s.st = .closed
    | none => false)

/-- A swarm is CANCELLING or CANCELLED. -/
def Device.swarmGone (d : Device) (ctx w : Nat) : Bool :=
  match d.swarm ctx w with
  | some s => s.st = .cancelling || s.st = .cancelled
  | none => false

/-- Change a swarm. -/
def Device.updSwarm (d : Device) (ctx w : Nat) (f : Swarm → Swarm) : Device :=
  d.updCtx ctx (fun c => { c with swarms := c.swarms.upd w f })

/-- The effective deadline of a swarm: the least non-zero DEADLINE of it and its ancestors (R288); 0 for none. -/
def Device.deadlineOf (d : Device) (ctx : Nat) : Nat → Nat → Nat
  | 0, _ => 0
  | fuel + 1, w =>
    match d.swarm ctx w with
    | none => 0
    | some s =>
      let up := d.deadlineOf ctx fuel s.parent
      let own := s.deadline.toNat
      if own = 0 then up else if up = 0 then own else min own up

/-- A swarm is another or one of its descendants. -/
def Device.descends (d : Device) (ctx root : Nat) : Nat → Nat → Bool
  | 0, w => w = root
  | fuel + 1, w =>
    w = root || (match d.swarm ctx w with
      | none => false
      | some s => s.parent ≠ 0 && d.descends ctx root fuel s.parent)

end Sys2Proof.Machine
end

