-- ==== Sys2Proof/Machine/Futures.lean ====
section
/-! DEFINITION. Futures: their two words, the chain of waiter cells, settling and firing, watch lists, and priority lent
through them (R273 to R286). -/

namespace Sys2Proof.Machine

/-! ### The two words (R273) -/

/-- A future's fields. -/
structure Fut where
  value : W64
  st : Nat
  prio : Nat
  prod : Nat
  swarm : Nat
  wait : Nat
  deriving DecidableEq, Repr

/-- EMPTY or PENDING. -/
def Fut.unsettled (x : Fut) : Bool := decide (x.st ≤ 1)
/-- RESOLVED, CANCELLED or FAULTED. -/
def Fut.settled (x : Fut) : Bool := decide (2 ≤ x.st) && decide (x.st ≤ 4)

/-- Fields from the 16 bytes. -/
def Fut.ofNat (n : Nat) : Fut :=
  let w : W64 := BitVec.ofNat 64 (n / 2 ^ 64)
  { value := BitVec.ofNat 64 n, st := (w.extractLsb' 61 3).toNat, prio := (w.extractLsb' 55 6).toNat
    prod := (w.extractLsb' 40 15).toNat, swarm := (w.extractLsb' 24 16).toNat, wait := (w.extractLsb' 0 24).toNat }

/-- The 16 bytes as a number. -/
def Fut.toNat (x : Fut) : Nat :=
  x.value.toNat + 2 ^ 64 * (x.wait % 2 ^ 24 + x.swarm % 2 ^ 16 * 2 ^ 24 + x.prod % 2 ^ 15 * 2 ^ 40 + x.prio % 64 * 2 ^ 55
    + x.st % 8 * 2 ^ 61)

/-- Read a future. -/
def Device.futLoad (d : Device) (e : Env) (ctx : Nat) (ag : Agent) (f : W64) : Except Miss (Device × Fut) :=
  match d.atomicLoad e ctx ag f 16 with
  | .error m => .error m
  | .ok (d1, n) => .ok (d1, Fut.ofNat n)

/-- Write a future. -/
def Device.futStore (d : Device) (e : Env) (ctx : Nat) (ag : Agent) (f : W64) (x : Fut) : Except Miss Device :=
  d.atomicStore e ctx ag f 16 x.toNat

/-! ### Chains (R275, R279) -/

/-- A join reference. -/
def joinRef (cell : Nat) : W64 := BitVec.ofNat 64 (2 ^ 61 + cell % 2 ^ 24)
/-- A wake reference. -/
def wakeRef (core slot token : Nat) : W64 :=
  BitVec.ofNat 64 (2 * 2 ^ 61 + core % 64 * 2 ^ 32 + slot % 64 * 2 ^ 24 + token % 65536)
/-- A watch reference. -/
def watchRef (f : W64) : W64 := BitVec.ofNat 64 (3 * 2 ^ 61 + (f.extractLsb' 4 53).toNat)
/-- KIND of a reference. -/
def refKind (w : W64) : Nat := (w.extractLsb' 61 3).toNat
/-- A reference watches a future, whatever its reserved bits hold (R6, R275). -/
def refWatches (f w : W64) : Bool := refKind w = 3 && w.extractLsb' 0 53 = f.extractLsb' 4 53

/-- Mark the splits that a wake reference names. -/
def Device.wake (d : Device) (core slot token : Nat) : Device :=
  { d with groups := d.groups.upd (slotKey core slot) (fun g =>
      { g with splits := g.splits.map (fun sp =>
          match sp.park with
          | .fwait f poll _ since =>
            if sp.token.toNat = token then { sp with park := .fwait f poll true since } else sp
          | _ => sp) }) }

/-- Act on one reference of a chain that fires (R279): a join waits for its stamp (R272). -/
def Device.fireRef (d : Device) (ctx : Nat) (stamp : Option Stamp) (w : W64) : Device :=
  if refKind w = 1 then { d with joins := d.joins ++ [{ ctx, cell := (w.extractLsb' 0 24).toNat, stamp }] }
  else if refKind w = 2 then
    d.wake (w.extractLsb' 32 6).toNat (w.extractLsb' 24 6).toNat (w.extractLsb' 0 16).toNat
  else d

/-- Cells that a walk of a chain may visit: those of pool 0 (R276). -/
def chainFuel : Nat := 2 ^ 24

/-- The words of a waiter cell. A poisoned sector of it gives two empty references, with a record (R277). -/
def Device.cellWords (d : Device) (e : Env) (ctx : Nat) (a : W64) : Except Miss (Device × List W64) :=
  match d.atomicLoad e ctx Agent.unit a 64 with
  | .ok (d1, n) => .ok (d1, bytesToWords (natToBytes 64 n))
  | .error (.fault 0x0D _ _ ts) =>
    (List.range 4).foldlM (fun p k =>
      match p.1.atomicLoad e ctx Agent.unit (a + BitVec.ofNat 64 (16 * k)) 16 with
      | .ok (d1, n) => .ok (d1, p.2 ++ bytesToWords (natToBytes 16 n))
      | .error (.fault code det b ts) => .ok ((p.1.retouch ts).reportFault e ctx code det b, p.2 ++ [0, 0])
      | .error m => .error m) (d.retouch ts, [])
  | .error m => .error m

/-- Walk a chain in order, act on each reference, and return the cells to pool 0. What a fault meets is dropped with a
record (R277); a cell that the unit cannot read names no next one. A page that is not resident delays the whole operation. -/
def Device.fireChain (d : Device) (e : Env) (ctx : Nat) (stamp : Option Stamp) : Nat → Nat → Except Miss Device
  | 0, _ => .ok d
  | fuel + 1, c =>
    if c = 0 then .ok d
    else
      match d.cellWords e ctx ((d.pool ctx 0).cellAt c) with
      | .error (.fault code det a ts) => .ok ((d.retouch ts).reportFault e ctx code det a)
      | .error m => .error m
      | .ok (d1, ws) =>
        let d2 := (ws.take 7).foldl (fun d w => d.fireRef ctx stamp w) d1
        let next := ((ws.getD 7 0).extractLsb' 0 24).toNat
        match d2.cellFree e ctx 0 c with
        | .error (.fault code det a ts) => ((d2.retouch ts).reportFault e ctx code det a).fireChain e ctx stamp fuel next
        | .error m => .error m
        | .ok q => q.1.fireChain e ctx stamp fuel next

/-- Index of the first empty reference of a cell. -/
def emptyRef (ws : List W64) : Option Nat := (List.range 7).find? (fun k => refKind (ws.getD k 0) = 0)

/-- Append a reference to the chain that begins at a cell: the chain's first cell, or none when pool 0 has no free cell
(R276, R283). -/
def Device.chainAppend (d : Device) (e : Env) (ctx head : Nat) (r : W64) : Except Miss (Device × Option Nat) :=
  let fresh (d : Device) : Except Miss (Device × Option Nat) :=
    if !(d.pool ctx 0).defd then .ok (d, none)
    else
      match d.cellAlloc e ctx 0 with
      | .error m => .error m
      | .ok (d1, none) => .ok (d1, none)
      | .ok (d1, some c) =>
        match d1.atomicStore e ctx Agent.unit ((d1.pool ctx 0).cellAt c) 64 r.toNat with
        | .error m => .error m
        | .ok d2 => .ok (d2, some c)
  if head = 0 then fresh d else go fresh d chainFuel head
where
  /-- Walk to the last cell of the chain. -/
  go (fresh : Device → Except Miss (Device × Option Nat)) (d : Device) : Nat → Nat → Except Miss (Device × Option Nat)
    | 0, _ => .ok (d, none)
    | fuel + 1, c =>
      let a := (d.pool ctx 0).cellAt c
      match d.atomicLoad e ctx Agent.unit a 64 with
      | .error m => .error m
      | .ok (d1, n) =>
        let ws := bytesToWords (natToBytes 64 n)
        let next := ((ws.getD 7 0).extractLsb' 0 24).toNat
        if next ≠ 0 then go fresh d1 fuel next
        else
          match emptyRef ws with
          | some k =>
            match d1.atomicStore e ctx Agent.unit (a + BitVec.ofNat 64 (8 * k)) 8 r.toNat with
            | .error m => .error m
            | .ok d2 => .ok (d2, some head)
          | none =>
            match fresh d1 with
            | .error m => .error m
            | .ok (d2, none) => .ok (d2, none)
            | .ok (d2, some c2) =>
              match d2.atomicStore e ctx Agent.unit (a + 56) 8 c2 with
              | .error m => .error m
              | .ok d3 => .ok (d3, some head)

/-- The references of a chain, in order. -/
def Device.chainRefs (d : Device) (e : Env) (ctx : Nat) : Nat → Nat → Except Miss (Device × List W64)
  | 0, _ => .ok (d, [])
  | fuel + 1, c =>
    if c = 0 then .ok (d, [])
    else
      match d.atomicLoad e ctx Agent.unit ((d.pool ctx 0).cellAt c) 64 with
      | .error m => .error m
      | .ok (d1, n) =>
        let ws := bytesToWords (natToBytes 64 n)
        match d1.chainRefs e ctx fuel ((ws.getD 7 0).extractLsb' 0 24).toNat with
        | .error m => .error m
        | .ok (d2, l) => .ok (d2, (ws.take 7).filter (fun w => refKind w ≠ 0) ++ l)

/-- A future joins its swarm's watch list when its chain begins, unless it stands there (R288). With pool 0 full it stays off
the list (R276); a fault is the lane's (R277). -/
def Device.watchJoin (d : Device) (e : Env) (ctx w : Nat) (f : W64) : Except Miss Device :=
  match d.swarm ctx w with
  | none => .ok d
  | some s =>
    if s.st ≠ .live && s.st ≠ .closed then .ok d
    else
      match d.chainRefs e ctx chainFuel s.watch with
      | .error m => .error m
      | .ok (d1, l) =>
        if l.any (refWatches f) then .ok d1
        else
          match d1.chainAppend e ctx s.watch (watchRef f) with
          | .error m => .error m
          | .ok (d2, none) => .ok d2
          | .ok (d2, some h) => .ok (d2.updSwarm ctx w (fun s => { s with watch := h }))

/-! ### Settling (R278, R279) -/

/-- The key of a future's place, for a future that has been read. -/
def Device.futHome (d : Device) (e : Env) (ctx : Nat) (ag : Agent) (f : W64) : Nat := (d.placeOf e ctx ag f).getD 0

/-- The stamp that the resolution of the future at a place still carries (R272). -/
def Device.futStamp (d : Device) (home : Nat) : Option Stamp := (d.futStamps.find? (fun x => x.home = home)).map FutStamp.stamp

/-- Settle a future that is not settled: VALUE and STATE, the chain fired, what was lent through it ended (R278, R279,
R286). -/
def Device.settle (d : Device) (e : Env) (ctx : Nat) (ag : Agent) (f : W64) (x : Fut) (st : Nat) (v : W64)
    (stamp : Option Stamp) : Except Miss Device :=
  match d.fireChain e ctx stamp chainFuel x.wait with
  | .error m => .error m
  | .ok d1 =>
    match d1.futStore e ctx ag f { x with value := v, st, wait := 0 } with
    | .error m => .error m
    | .ok d2 =>
      let home := d2.futHome e ctx ag f
      let rest := d2.futStamps.filter (fun y => y.home ≠ home && !d2.reached y.stamp)
      .ok { d2 with
        lends := d2.lends.filter (fun y => y.home ≠ home)
        parkedLends := d2.parkedLends.map (fun (y : ParkedLend) => if y.home = home then { y with prio := 0 } else y)
        futStamps := match stamp with
          | some s => if d2.reached s then rest else { ctx, home, stamp := s } :: rest
          | none => rest }

/-- A future is the result of a sealed task past its commit point, which a cancellation leaves alone (R222, R259, R291): it
stands at the address that the task's RESULT names, or in the same place. -/
def Device.committing (d : Device) (e : Env) (ctx : Nat) (ag : Agent) (f : W64) (x : Fut) : Bool :=
  match d.groups.get (x.prod - 1) with
  | some g =>
    let home := d.placeOf e ctx ag f
    g.phase = .committing && g.ctx = ctx
      && (g.result = f || (home.isSome && d.placeOf e ctx (Agent.core ((x.prod - 1) / 48)) g.result = home))
  | none => false

/-- An instruction or a re-check touches a future: one that is not settled while its swarm is CANCELLING or CANCELLED
becomes CANCELLED (R290, step 6), unless its task commits. -/
def Device.futTouch (d : Device) (e : Env) (ctx : Nat) (ag : Agent) (f : W64) : Except Miss (Device × Fut) :=
  match d.futLoad e ctx ag f with
  | .error m => .error m
  | .ok (d1, x) =>
    if x.unsettled && x.swarm ≠ 0 && d1.swarmGone ctx x.swarm && !d1.committing e ctx ag f x then
      match d1.settle e ctx ag f x 3 0 none with
      | .error m => .error m
      | .ok d2 => .ok (d2, { x with value := 0, st := 3, wait := 0 })
    else .ok (d1, x)

/-- What the device does to a future that a producer ends: settle it when it is EMPTY or PENDING. A task's result that has
settled is left as it is; an engine's, unless it is CANCELLED, and any that holds a reserved state, is dropped with a
FUTDUP record (R266, R277, R278, R348). A fault met on the way drops the result with a record. -/
def Device.futSettle (d : Device) (e : Env) (ctx : Nat) (ag : Agent) (f : W64) (st : Nat) (v : W64) (stamp : Option Stamp)
    (engine : Bool) (who : Who := {}) : Except Miss Device :=
  match d.futLoad e ctx ag f with
  | .error (.fault code det a ts) => .ok ((d.retouch ts).reportFault e ctx code det a who)
  | .error m => .error m
  | .ok (d1, x) =>
    if x.unsettled then
      match d1.settle e ctx ag f x st v stamp with
      | .error (.fault code det a ts) => .ok ((d1.retouch ts).reportFault e ctx code det a who)
      | r => r
    else if (decide (5 ≤ x.st) || (engine && x.st ≠ 3)) && st = 2 then .ok (d1.reportFault e ctx 0x09 x.st f who)
    else .ok d1

/-- The future that a RESULT or FUT field names: 0 names none (R263, R294, R349). -/
def futOf (f : W64) : Option W64 := if f = 0 then none else some f

/-- End the future that a RESULT or FUT field names, if it names one. -/
def Device.futEnd (d : Device) (e : Env) (ctx : Nat) (ag : Agent) (f : W64) (st : Nat) (v : W64) (stamp : Option Stamp)
    (engine : Bool) (who : Who := {}) : Except Miss Device :=
  (futOf f).elim (.ok d) (fun f => d.futSettle e ctx ag f st v stamp engine who)

/-- A record or a device operation takes a future as its result: PENDING with a producer tag (R270, R278). -/
def Device.futClaim (d : Device) (e : Env) (ctx : Nat) (ag : Agent) (f : W64) (prod swarm : Nat) : Except Miss Device :=
  match d.futTouch e ctx ag f with
  | .error m => .error m
  | .ok (d1, x) =>
    let y : Fut := if x.st = 1 then x else { x with value := 0, wait := 0, prio := 63 }
    d1.futStore e ctx ag f { y with st := 1, prod, swarm }

/-! ### Priority lent through futures (R286) -/

/-- The futures a split parked in FWAIT waits on: its active lanes' addresses. -/
def Group.waitsOn (g : Group) (sp : Split) : List W64 :=
  match sp.park with
  | .fwait f _ _ _ => (lanesOf ((View.mk g sp).active f.ms)).map (fun l => g.vpair f.va.toNat l)
  | _ => []

/-- A lend acts on the occupant of a group slot. -/
def Lend.to (x : Lend) (key : Nat) : Bool := slotKey x.core x.slot = key && x.saved.isNone

/-- The greatest priority lent to a group slot. -/
def Device.lentTo (d : Device) (key : Nat) : Nat := d.lends.foldl (fun a x => if x.to key then max a x.prio else a) 0

/-- A group's effective priority (R213, R286). -/
def Device.effPrio (d : Device) (key : Nat) (g : Group) : Nat := max g.prio (d.lentTo key)

/-- Note a priority lent to a slot through the future at a place. -/
def Device.noteLend (d : Device) (key ctx home p : Nat) : Device :=
  { d with lends := { core := key / 48, slot := key % 48, ctx, home, prio := p } ::
      d.lends.filter (fun x => !(x.to key && x.home = home)) }

/-- A group that is saved keeps what it has been lent (R404). -/
def Device.lendsKept (d : Device) (key guid : Nat) : Device :=
  { d with lends := d.lends.map (fun x => if x.to key then { x with saved := some guid } else x) }

/-- A resumed group has what it had been lent when it was saved, and what is lent through a future still (R286, R404). -/
def Device.lendsBack (d : Device) (key guid : Nat) : Device :=
  { d with lends := d.lends.map (fun x =>
      if x.saved = some guid then { x with core := key / 48, slot := key % 48, saved := none } else x) }

/-- Raise the queued record that resolves the future at a place to the tail of a level; a parked one keeps the priority (R286). -/
def Device.raiseQueued (d : Device) (e : Env) (ctx : Nat) (f : W64) (home p : Nat) : Device :=
  let hit (q : QRec) : Bool := q.ctx = ctx && decide (q.level ≤ p) && (q.r.result = f || d.placeOf e ctx Agent.unit q.r.result = some home)
  let d1 := { d with
    local_ := d.local_.mapV (fun _ l => raiseIn hit p l)
    heldPush := d.heldPush.map (fun (h : HeldPush) => if hit h.q then { h with q := { h.q with level := p } } else h)
    parkedLends := d.parkedLends.map (fun (y : ParkedLend) => if y.home = home then { y with prio := max y.prio p } else y) }
  d1.updCtx ctx (fun c => { c with backing := raiseIn hit p c.backing })

/-- Lend a priority through a future, and on through what its producer waits for, to a depth of 8 (R286). A lend that
meets a fault stops. The producer of a stale tag is the slot's next occupant, of whatever context. -/
def Device.lend (e : Env) (p : Nat) : Nat → Device → Nat → Agent → W64 → Except Miss Device
  | 0, d, _, _, _ => .ok d
  | fuel + 1, d, ctx, ag, f =>
    match d.futLoad e ctx ag f with
    | .error (.fault _ _ _ ts) => .ok (d.retouch ts)
    | .error m => .error m
    | .ok (d1, x) =>
      if x.unsettled && (x.prio = 63 || decide (x.prio < p)) then
        match d1.futStore e ctx ag f { x with prio := p } with
        | .error m => .error m
        | .ok d2 =>
          let home := d2.futHome e ctx ag f
          if 1 ≤ x.prod && decide (x.prod ≤ 0x0C00) then
            let key := x.prod - 1
            let d3 := d2.noteLend key ctx home p
            match d3.groups.get key with
            | none => .ok d3
            | some g =>
              (g.splits.flatMap g.waitsOn).foldl
                (fun r h => match r with
                  | .ok d => Device.lend e p fuel d g.ctx (Agent.core (key / 48)) h
                  | .error m => .error m) (.ok d3)
          else if x.prod = 0x7FFF then .ok (d2.raiseQueued e ctx f home p)
          else .ok d2
      else .ok d1

end Sys2Proof.Machine
end

