-- ==== Sys2Proof/Machine/Ops.lean ====
section
/-! DEFINITION. What every instruction of a split shares: replacing the issuing split and merging splits (R108, R112,
R116), the end of a group (R223, R266), taking a trap (R121, R122), traps that no handler takes (R124), the abort of a
sealed task (R125), and returning from a trap (R123). -/

namespace Sys2Proof.Machine

/-! ### The team of a group -/

/-- The team of a group. -/
def Device.teamOf (d : Device) (g : Group) : Team :=
  (d.teams.get g.team).getD { ctx := g.ctx, core := 0, launch := none, coord := (0, 0, 0), grid := (1, 1, 1), tdim := 1
                              spBase := 0, spSize := 0, barBase := 0, bars := [], relaunch := 0, faulted := false }

/-! ### Splits of a group after an instruction -/

/-- Move a view past its instruction. -/
def View.next (x : View) (n : Nat) : View := { x with sp := { x.sp with pc := x.sp.pc + BitVec.ofNat 64 n } }

/-- Not parked: ready, or kept by something that parks no split (R211, R272). -/
def Park.idle : Park → Bool
  | .running | .drain _ | .stall _ => true
  | _ => false

/-- An instruction waits for drain stamps. -/
def Park.drains : Park → Bool
  | .drain _ => true
  | _ => false

/-- A split has issued the instruction at its PC and waits there: for its trap, for its end, or to issue it again. -/
def Split.hasIssued (sp : Split) : Bool := sp.trapped || sp.park.drains || sp.issued = some sp.pc

/-- Two splits at one PC merge: neither parked, or one parked at the SYNCS both stand at (R112). A handling split and a
held one do not, nor does one that has issued the instruction there. -/
def Split.merges (a b : Split) : Bool :=
  a.pc = b.pc && a.handling = b.handling && !a.hasIssued && !b.hasIssued &&
    ((a.park.idle && b.park.idle) || (a.park = .syncs && (b.park = .syncs || b.park.idle))
      || (b.park = .syncs && a.park.idle))

/-- The merged split: it holds no shadow and no spin record (R30, R112). It holds no place of R216 either, where one of the two held
one (DESIGN CHOICE, log entry 54). -/
def Split.merge (a b : Split) : Split :=
  { Split.start a.pc (a.l ||| b.l) (a.e ||| b.e) with
    park := if a.park = .syncs || b.park = .syncs then .syncs else .running
    handling := a.handling, eligibleAt := match a.eligibleAt, b.eligibleAt with
      | some m, some n => some (max m n)
      | some m, none => some m
      | none, n => n }

/-- What an instruction leaves that waited for drain stamps: its registers written, and its split past its two words (R255,
R272). -/
def DrainWait.written (w : DrainWait) (x : View) : View :=
  let y := w.s.foldl (fun (x : View) p => x.setS p.1 p.2) x
  { g := w.v.foldl (fun (g : Group) p => g.setV p.1 p.2.1 p.2.2) y.g, sp := { y.sp with park := .running, pc := y.sp.pc + 8 } }

/-- Insert a split by lowest lane. -/
def insertSplit (a : Split) : List Split → List Split
  | [] => [a]
  | b :: l => if a.low < b.low then a :: b :: l else b :: insertSplit a l

/-- Add a split to merged ones, merging it where it can. -/
def addSplit (l : List Split) (a : Split) : List Split :=
  match l with
  | [] => [a]
  | b :: l => if b.merges a then b.merge a :: l else b :: addSplit l a

/-- Splits ordered by lowest lane and merged. -/
def mergeSplits (l : List Split) : List Split := (l.foldr insertSplit []).foldl addSplit []

/-- When every split is parked at some SYNCS, all go on (R116). -/
def releaseSyncs (l : List Split) : List Split :=
  if l.all (fun sp => sp.park = .syncs) then l.map (fun sp => { sp with park := .running, pc := sp.pc + 4 }) else l

/-- The splits of a group in order, merged, released. -/
def settleSplits (l : List Split) : List Split := releaseSyncs (mergeSplits l)

/-- The splits of a group with the one at a lowest lane replaced. -/
def Group.put (g : Group) (low : Nat) (sps : List Split) : Group :=
  { g with splits := settleSplits (g.splits.filter (fun sp => sp.low ≠ low) ++ sps) }

/-- Replace a group. -/
def Device.putGroup (d : Device) (key : Nat) (g : Group) : Device := { d with groups := d.groups.set key g }

/-! ### The end of a group (R223, R266) -/

/-- How a group ends. -/
inductive GroupEnd
  | normal
  | faulted (v : W64)
  | cancelled
  | requeued
  deriving DecidableEq, Repr

/-- A team is bound to its core when a PRIV page was touched on its behalf, or when what ends had bound it (R402). -/
def Device.stick (d : Device) (team : Nat) (also : Bool) : Device :=
  if d.privUsed || also then { d with privUsed := false, teams := d.teams.upd team (fun t => { t with sticky := true }) } else d

/-- A group leaves its slot: what it has stored is accepted at home (R223), its monitors go, and its writes stay counted
until they are performed (R255). -/
def Device.removeGroup (d0 : Device) (key : Nat) (g : Group) : Device :=
  let d := (d0.order (key / 48) .rel .dev).stick g.team (g.usedGq || g.touchedPriv)
  { d with
    groups := d.groups.erase key
    monitors := d.monitors.filter (fun m => slotKey m.core m.slot ≠ key)
    drains := match d.drains.get g.guid with
      | some r => if r.done = g.writes then d.drains.erase g.guid else d.drains.set g.guid { r with issued := g.writes }
      | none => d.drains }

/-- A group ends: the slot is freed and its result future, if it has one, settles (R266). -/
def Device.endGroup (d : Device) (e : Env) (key : Nat) (g : Group) (how : GroupEnd) : Except Miss Device :=
  let d1 := d.removeGroup key g
  let ag := Agent.core (key / 48)
  let who := g.who key
  match how with
  | .normal => d1.futEnd e g.ctx ag g.result 2 (g.s.get 1 ++ g.s.get 0) (some { guid := g.guid, count := g.writes }) false who
  | .faulted v => d1.futEnd e g.ctx ag g.result 4 v none false who
  | .cancelled => d1.futEnd e g.ctx ag g.result 3 0 none false who
  | .requeued => .ok d1

/-! ### The trap frame (R122, R397) -/

/-- The block of a group in its context's save area. -/
def Device.blockAt (d : Device) (g : Group) : W64 :=
  match d.ctxs.get g.ctx with
  | some c => c.save + BitVec.ofNat 64 (131072 * g.block)
  | none => 0

/-- The 128 bytes of a trap frame; its reserved words are written as zero (R6, R122). -/
def frameBytes (trappc resume addr code : W64) (lanes exec : Mask) (saved : List W32) : List Byte :=
  natToBytes 8 trappc.toNat ++ natToBytes 8 resume.toNat ++ natToBytes 8 addr.toNat ++ natToBytes 8 code.toNat
    ++ natToBytes 16 lanes.toNat ++ natToBytes 16 exec.toNat ++ saved.flatMap (fun w => natToBytes 4 w.toNat)
    ++ List.replicate 32 0

/-- s52 to s59. -/
def Group.saved (g : Group) : List W32 := (List.range 8).map (fun k => g.s.get (52 + k))

/-- Write s52 to s59. -/
def Group.restore (g : Group) (l : List W32) : Group :=
  { g with s := (l.zip (List.range l.length)).foldl (fun m p => m.set (52 + p.2) p.1) g.s }

/-- A trap as the frame records it. -/
def TrapReq.waiting (t : TrapReq) (sp : Split) : WaitingTrap :=
  { trappc := sp.pc, resume := if 0x80 ≤ t.code then sp.pc + 4 else sp.pc, addr := t.addr
    code := BitVec.ofNat 64 (t.code % 256 + t.detail % 256 * 256), lanes := t.lanes, lane := sp.low }

/-! ### Traps that no handler takes (R124, R125) -/

/-- The launch a group belongs to ends with FAULTED. -/
def Device.faultLaunch (d : Device) (g : Group) : Device :=
  match d.teams.get g.team with
  | none => d
  | some t =>
    match t.launch with
    | none => d
    | some k => { d with launches := d.launches.upd k (fun r => { r with faulted := true }) }

/-- An unhandled trap ends the group (R124). -/
def Device.unhandled (d : Device) (e : Env) (key : Nat) (g : Group) (code detail : Nat) (pc addr : W64) :
    Except Miss Device :=
  match g.task with
  | none =>
    let d1 := d.faultLaunch g
    (d1.report e { ErrRec.blank 1 e.now with
      code, detail, ctx := g.ctx, slot := key % 48, core := key / 48, addr, pc }).endGroup e key g .requeued
  | some _ => d.endGroup e key g (.faulted (faultValue code pc false))

/-- Enter the handler on a split with what its trap recorded (R122). The frame's write waits for a page or a channel; where it
fails a check, no handler can take the trap, which is then unhandled (log entry 43). -/
def Device.enter (d : Device) (e : Env) (key : Nat) (g : Group) (sp : Split) (w : WaitingTrap) : Except Miss Device :=
  let f := d.blockAt g
  match d.write e.plat e.tick g.ctx (Agent.copier (key / 48)) false f
      (frameBytes w.trappc w.resume w.addr w.code w.lanes sp.e g.saved) with
  | .error (.fault _ _ _ ts) =>
    (d.retouch ts).unhandled e key g (w.code.extractLsb' 0 8).toNat (w.code.extractLsb' 8 8).toNat w.trappc w.addr
  | .error m => .error m
  | .ok d1 =>
    let x : View := { g := { g with inHandler := true }
                      sp := { sp with park := .running, pc := g.tvec, handling := true, trapped := false } }
    let x := (x.setPair 52 f).setPair 54 w.addr
    let x := (x.setS 56 (w.code.extractLsb' 0 32)).setTriple 19 w.lanes
    .ok (d1.putGroup key (x.g.put sp.low [x.sp]))

/-- Undo the recorded PALLOC and PFREE of a sealed group, latest first (R322). A fault met drops the undo with a record. -/
def Device.undoPool (d : Device) (e : Env) (ctx : Nat) (who : Who) : List PoolRec → Except Miss Device
  | [] => .ok d
  | r :: l =>
    let p := d.pool ctx r.pool
    if p.gen ≠ r.gen then d.undoPool e ctx who l
    else
      let one : Except Miss Device :=
        if r.free then d.setMapBit e ctx p r.cell true
        else
          (d.cellFree e ctx r.pool r.cell).map Prod.fst
      match one with
      | .error (.fault code det a ts) => ((d.retouch ts).reportFault e ctx code det a who).undoPool e ctx who l
      | .error m => .error m
      | .ok d1 => d1.undoPool e ctx who l

/-- The pool operations a group's buffer records, latest first. -/
def Group.poolRecs (g : Group) : List PoolRec := g.sealBuf.elim [] (fun b => b.pool.reverse)

/-- The copies into the scratchpad of a sealed group go with it (R300). -/
def Device.dropCopiesOf (d : Device) (g : Group) : Device :=
  if g.sealBuf.isSome then { d with copies := d.copies.mapV (fun _ l => l.filter (fun c => c.team ≠ some g.team)) } else d

/-- A sealed task aborts: its buffer is discarded, its pool operations are undone, and its copies into its scratchpad go
(R125, R259, R300). -/
def Device.abort (d : Device) (e : Env) (key : Nat) (g : Group) (how : GroupEnd) : Except Miss Device :=
  match d.undoPool e g.ctx (g.who key) g.poolRecs with
  | .error m => .error m
  | .ok d1 => (d1.dropCopiesOf g).endGroup e key g how

/-! ### What errors have ended (R426, R427) -/

/-- Undo and settle what is owed, or queue its record again. -/
def Device.payOwed (d : Device) (e : Env) (o : Owed) : Except Miss Device :=
  let who : Who := { core := o.core, slot := o.slot, swarm := o.swarm }
  match d.undoPool e o.ctx who o.undo, o.again with
  | .error m, _ => .error m
  | .ok d1, some (core, q) => .ok (d1.pushDevice e (some core) q)
  | .ok d1, none => o.fut.elim (.ok d1) (fun f => d1.futSettle e o.ctx o.ag f o.st o.value none o.engine who)

/-- Pay what is owed, now or once its pages and channels are there: what it is owed for has ended either way. -/
def Device.pay (d : Device) (e : Env) (o : Owed) : Device :=
  match d.payOwed e o with
  | .ok d1 => d1
  | .error (.page vas) =>
    let d1 := d.pageRequests e o.ctx o.core o.slot o.swarm vas
    { d1 with owed := d1.owed ++ [o] }
  | .error _ => { d with owed := d.owed ++ [o] }

/-- What is owed is paid where it can be. -/
def Device.owedSettle (d : Device) (e : Env) : Device :=
  match d.owed with
  | [] => d
  | l => l.foldl (fun d o => d.pay e o) { d with owed := [] }

/-- Units in use in a core's seal store (R233). -/
def Device.sealUsed (d : Device) (core : Nat) : Nat :=
  d.groups.foldl (fun a p => if p.1 / 48 = core then a + (match p.2.sealBuf with
    | some b => b.units
    | none => 0) else a) 0

/-- Units of a core's seal store, and those a group may hold (R233). -/
def sealUnits : Nat := 4096
/-- The limit of one group. -/
def sealLimit : Nat := 1024

/-- A group's split waits for seal-store units (R234). -/
def Group.sealStalled (g : Group) : Bool := g.splits.any (fun sp => match sp.park with
  | .stall (.seal _) => true
  | _ => false)

/-- The split of a group that waits for more seal-store units than are free. -/
def Group.sealShort (g : Group) (free : Nat) : Option Split := g.splits.find? (fun sp => match sp.park with
  | .stall (.seal n) => decide (free < n)
  | _ => false)

/-- The group placed last of some; ties to the greater slot. -/
def youngest : List (Nat × Group) → Option (Nat × Group)
  | [] => none
  | p :: l =>
    match youngest l with
    | none => some p
    | some q => if q.2.placedAt < p.2.placedAt || (p.2.placedAt = q.2.placedAt && q.1 < p.1) then some p else some q

/-- The groups of a core that hold seal-store units. -/
def Device.sealHolders (d : Device) (core : Nat) : List (Nat × Group) :=
  d.groups.filter (fun p => p.1 / 48 = core && (match p.2.sealBuf with
    | some b => decide (0 < b.units)
    | none => false))

/-- What is left to do for a group that has ended at once: the undo of its pool operations, and its result future FAULTED with a
value word. -/
def Group.owes (g : Group) (key : Nat) (value : W64) : Owed :=
  { ctx := g.ctx, core := key / 48, slot := key % 48, swarm := g.swarm, ag := Agent.core (key / 48), undo := g.poolRecs
    fut := futOf g.result, st := 4, value, engine := false }

/-- A sealed task aborts at once: its units are free, and what its end still waits for is owed (R125, R234, R236). -/
def Device.abortNow (d : Device) (e : Env) (key : Nat) (g : Group) (value : W64) : Device :=
  ((d.dropCopiesOf g).removeGroup key g).pay e (g.owes key value)

/-- While every group of a core that holds units waits for more than are free, the youngest of them is aborted with SEALOVF
at its stalled instruction, at once (R234, R292). -/
def Device.sealDeadlock (d : Device) (e : Env) (core : Nat) : Nat → Device
  | 0 => d
  | fuel + 1 =>
    let holders := d.sealHolders core
    let free := sealUnits - d.sealUsed core
    if holders.all (fun p => (p.2.sealShort free).isSome) then
      match youngest holders with
      | none => d
      | some p =>
        (d.abortNow e p.1 p.2 (faultValue 0x08 (((p.2.sealShort free).map Split.pc).getD 0) false)).sealDeadlock e core fuel
    else d

/-- No core's holders of seal-store units all wait. -/
def Device.sealSettle (d : Device) (e : Env) : Device :=
  ((d.groups.filter (fun p => p.2.sealStalled)).map (fun p => p.1 / 48)).dedup.foldl (fun d c => d.sealDeadlock e c 48) d

/-- A sealed task aborted by a page fault or a page not resident: its record is held until a RANGE covers the page
(R292). PROD of its PENDING result future keeps the tag of the slot that it ran in until it starts again, here and where it is queued
again at once (DESIGN CHOICE, log entry 55). -/
def Device.abortPage (d : Device) (e : Env) (key : Nat) (g : Group) (va : W64) : Except Miss Device :=
  match d.abort e key g .requeued with
  | .error m => .error m
  | .ok d1 =>
    let d2 := d1.pageRequest e g.ctx (key / 48) (key % 48) g.swarm va
    match g.task with
    | some q =>
      .ok { d2 with heldSealed := d2.heldSealed ++ [{ core := key / 48, q := { q with uncorr := 0 }, va, freed := false }] }
    | none => .ok d2

/-- A sealed task aborted by some pages that are not resident: one request for each (R388). -/
def Device.abortPages (d : Device) (e : Env) (key : Nat) (g : Group) (va : W64) (l : List W64) : Except Miss Device :=
  (d.abortPage e key g va).map (fun d => d.pageRequests e g.ctx (key / 48) (key % 48) g.swarm l)

/-! ### Teams killed by an uncorrectable error (R426) -/

/-- Linear index of a team in its grid (R207). -/
def Team.index (t : Team) : Nat := t.coord.1 + t.grid.1 * (t.coord.2.1 + t.grid.2.1 * t.coord.2.2)

/-- One group of a killed team ends at once; its value word names the instruction that read poison, if one did (R124). A sealed
task's record is queued again, three times in a row at most; a commit under way is carried out whole (R222, R426). -/
def Device.killGroup (d : Device) (e : Env) (at_ : Option (Nat × W64)) (key : Nat) (g : Group) : Device :=
  let own : W64 := ((g.splits.map Split.pc).headD 0)
  let pc := match at_ with
    | some (k, pc) => if k = key then pc else own
    | none => own
  let o := g.owes key (faultValue 0x0D pc false)
  match g.phase, g.task with
  | .committing, _ => d
  | .live, none => d.removeGroup key g
  | .live, some q =>
    ((d.dropCopiesOf g).removeGroup key g).pay e
      (if g.sealBuf.isSome && decide (q.uncorr < 3) then
        { o with again := some (key / 48, { q with uncorr := q.uncorr + 1, since := e.now }) }
      else o)

/-- The swarm and the slot that a record of a killed team names: those of a task's one group (R431). -/
def Device.teamWho (d : Device) (team : Nat) (r : ErrRec) : ErrRec :=
  match d.groups.find? (fun p => p.2.team = team && p.2.task.isSome) with
  | some p => { r with slot := p.1 % 48, swarm := p.2.swarm }
  | none => r

/-- A grid team that was killed is placed again when its kernel is idempotent, twice at most; else its launch ends with FAULTED
(R426). -/
def Device.relaunch (d : Device) (t : Team) : Device :=
  match t.launch with
  | none => d
  | some k => { d with launches := d.launches.upd k (fun l =>
      if l.kd.idem && decide (t.relaunch < 2) then { l with again := l.again ++ [(t.index, t.relaunch + 1)] }
      else { l with faulted := true }) }

/-- A team that still holds a group is killed: its groups end, and a SPADUE record is written. One that has ended, or was killed
before, is left as it is. -/
def Device.killTeam (d : Device) (e : Env) (team : Nat) (r : ErrRec) (at_ : Option (Nat × W64) := none) : Device :=
  match d.teams.get team, d.groups.filter (fun p => p.2.team = team) with
  | none, _ | _, [] => d
  | some t, l =>
    let d1 := l.foldl (fun d p => d.killGroup e at_ p.1 p.2) d
    (d1.report e { d.teamWho team r with type := 3, code := 0x0D, ctx := t.ctx, core := t.core, time := e.now }).relaunch t

/-- The waiting traps that a core holds for a group (R398). -/
def trapRoom : Nat := 16

/-- A group's waiting traps are as many as its core holds (R398). -/
def Group.trapsFull (g : Group) : Bool := decide (trapRoom ≤ g.waiting.length)

/-- Raise a trap on a split (R121, R124 to R126). Code 0x0D is no trap: the group's team is killed, and the record names the
poisoned sector (R79, R426, R431). -/
def Device.raise (d : Device) (e : Env) (key : Nat) (g : Group) (sp : Split) (t : TrapReq) : Except Miss Device :=
  if t.code = 0x0D then
    .ok (d.killTeam e g.team { ErrRec.blank 3 e.now with detail := t.detail, slot := key % 48, swarm := g.swarm, addr := t.addr }
      (some (key, sp.pc)))
  else if g.sealBuf.isSome then
    if t.code = 0x04 then d.abortPage e key g t.addr
    else if t.code = 0x0E then d.abort e key g .cancelled
    else d.abort e key g (.faulted (faultValue t.code sp.pc false))
  else if g.inHandler && !sp.handling then
    .ok (d.putGroup key { g.put sp.low [{ sp with park := .running, trapped := true }] with
      waiting := g.waiting ++ [t.waiting sp] })
  else if t.code = 0x0E && g.tvec = 0 then d.endGroup e key g .cancelled
  else if g.inHandler || g.tvec = 0 then d.unhandled e key g t.code t.detail sp.pc t.addr
  else d.enter e key g sp (t.waiting sp)

/-! ### Returning from a trap (R123) -/

/-- The waiting trap of the split with the lowest lane. -/
def firstWaiting : List WaitingTrap → Option WaitingTrap
  | [] => none
  | w :: l =>
    match firstWaiting l with
    | none => some w
    | some v => if v.lane < w.lane then some v else some w

/-- A handler has ended: the held splits are released, and the next waiting trap is taken (R123). -/
def Device.released (d : Device) (e : Env) (key : Nat) (g : Group) : Except Miss Device :=
  let g := { g with inHandler := false, splits := settleSplits (g.splits.map (fun sp => { sp with handling := false })) }
  match firstWaiting g.waiting with
  | none => .ok (d.putGroup key g)
  | some w =>
    let g := { g with waiting := g.waiting.filter (fun v => v ≠ w) }
    match g.splitOf w.lane with
    | none => .ok (d.putGroup key g)
    | some sp =>
      if g.tvec = 0 then d.unhandled e key g (w.code.extractLsb' 0 8).toNat (w.code.extractLsb' 8 8).toNat w.trappc w.addr
      else d.enter e key g sp w

/-- A frame as the handler's end reads it: its bytes from an offset; poison met is SPADUE, detail 4 (R426). -/
def Device.frameRead (d : Device) (e : Env) (key : Nat) (g : Group) (off n : Nat) : Except Miss (Device × List Byte) :=
  let ag := Agent.copier (key / 48)
  match d.probeN e.plat e.tick g.ctx ag .load false (d.blockAt g + BitVec.ofNat 64 off) n with
  | .error m => .error m
  | .ok l =>
    let d1 := d.touchAll ag g.ctx .load l
    if d1.poisonRun ag l then .error (.fault 0x0D 4 (d1.poisonFirst ag l) d1.touches) else .ok (d1, d1.readRun ag l)

/-- s52 to s59 from the bytes of a frame. -/
def savedWords (l : List Byte) : List W32 :=
  (List.range 8).map (fun k => BitVec.ofNat 32 (bytesToNat ((l.drop (4 * k)).take 4)))

/-! ### After an instruction -/

/-- The group past its commit point or retired once its last split has ended (R222, R223). -/
def Device.lastSplit (d : Device) (e : Env) (key : Nat) (g : Group) : Except Miss Device :=
  if g.sealBuf.isSome then .ok (d.putGroup key { g with phase := .committing, splits := [] })
  else d.endGroup e key g .normal

/-- Put an instruction's result back: the issuing split replaced by those that go on; when none is left of a handling
split its handler ends (R123), and when none is left of the group it retires. A frame that cannot be read back is a trap of
the handler (R124). -/
def Device.finish (d : Device) (e : Env) (key : Nat) (g : Group) (low : Nat) (handling : Bool) (sps : List Split) :
    Except Miss Device :=
  let g1 := g.put low sps
  if g1.splits = [] then d.lastSplit e key g1
  else if handling && sps = [] then
    match d.frameRead e key g1 64 32 with
    | .error (.fault code det a ts) =>
      match g.splitAt low with
      | some sp => (d.retouch ts).raise e key g sp { code, detail := det, addr := a, lanes := sp.e }
      | none => .ok ((d.retouch ts).putGroup key g1)
    | .error m => .error m
    | .ok (d1, l) => d1.released e key (g1.restore (savedWords l))
  else .ok (d.putGroup key g1)

/-- What an instruction of classes 0 to 5 does to its group: the group, and the splits the issuing one becomes; or a
trap. -/
inductive Out
  | ok (g : Group) (sps : List Split)
  | trap (t : TrapReq)
  deriving DecidableEq, Repr

/-- The stall that a miss asks for. -/
def Miss.stall : Miss → Stall
  | .page vas => .page vas
  | _ => .channel

/-- What an instruction of classes 6 and 7 does: the device with the group's registers in it, and what the issuing split
becomes; effects that stand and then a trap; or nothing yet. -/
inductive Res
  | done (d : Device) (sp : Split)
  /-- The issuing split is in place already, and the device is as the instruction leaves it. -/
  | whole (d : Device)
  | trap (d : Device) (sp : Split) (t : TrapReq)
  | stall (why : Stall)
  /-- Nothing yet, for an access of a unit's own that must wait (R277, R314): it delays a sealed task and does not abort it. -/
  | delay (why : Stall)
  | abortPage (va : W64)
  deriving DecidableEq, Repr

/-- The splits of the group in a slot as the device holds them; a view's own when the slot is empty. -/
def Device.splitsAt (d : Device) (key : Nat) (x : View) : List Split :=
  match d.groups.get key with
  | some g => g.splits
  | none => x.g.splits

/-- Put a view's registers into the device; the group's other splits stay as the device holds them. -/
def Device.commit (d : Device) (key : Nat) (x : View) : Device := d.putGroup key { x.g with splits := d.splitsAt key x }

/-- A meaning that leaves a view. -/
def Res.view (d : Device) (key : Nat) (x : View) : Res := .done (d.commit key x) x.sp

/-- A meaning that leaves a view and then acts on other splits: the issuing split goes on first. -/
def Res.thenDo (d : Device) (e : Env) (key : Nat) (x y : View) (f : Device → Except Miss Device) : Res :=
  match d.finish e key y.g x.sp.low x.sp.handling [y.sp] with
  | .error m => .stall m.stall
  | .ok d1 =>
    match f d1 with
    | .error m => .stall m.stall
    | .ok d2 => .whole d2

/-- Continue with a view. -/
def Out.view (x : View) : Out := .ok x.g [x.sp]

/-- The environment of a state's steps. -/
def State.env (s : State) : Env := { plat := s.plat, tick := s.tick }

/-- Key of the issuing group's slot. -/
def SplitRef.key (r : SplitRef) : Nat := slotKey r.core r.slot

/-- The group and split that issue. -/
def State.issuer (s : State) : Option View :=
  match s.dev.groups.get s.cur.key with
  | none => none
  | some g =>
    match g.splitAt s.cur.lane with
    | none => none
    | some sp => some { g, sp }

/-- Put a device into the state. -/
def State.withDev (s : State) (d : Device) : State := { s with dev := d }

/-- A wait of an instruction that has issued: it issues again, or completes, once the wait is over (R234, R388, R415).
The others keep an instruction from issuing: its split is not ready (R255, R299, R337). -/
def Stall.again : Stall → Bool
  | .page _ | .channel | .seal _ => true
  | .engine _ _ | .copySlot | .full _ => false

/-- The issuing split waits at its PC, where it has issued the instruction or not (R112, R211, R388). -/
def State.stalledAs (s : State) (x : View) (issued : Option W64) (why : Stall) : State :=
  let d1 := s.dev.putGroup s.cur.key (x.g.put x.sp.low [{ x.sp with park := .stall why, issued }])
  match why with
  | .page l => s.withDev (d1.pageRequests s.env x.g.ctx s.cur.core s.cur.slot x.g.swarm l)
  | .seal _ => s.withDev (d1.sealDeadlock s.env s.cur.core 48)
  | _ => s.withDev d1

/-- The issuing split waits in its instruction. -/
def State.stalled (s : State) (x : View) (why : Stall) : State :=
  s.stalledAs x (if why.again then some x.sp.pc else x.sp.issued) why

/-- Close an instruction: the next state, or a wait with nothing done. -/
def State.close (s : State) (x : View) (r : Except Miss Device) : Host.Outcome State Fault Refusal :=
  match r with
  | .ok d => .next (s.withDev d)
  | .error m => .next (s.stalled x m.stall)

/-- Step 7 of R61: every register of every span is allocated (R13, R14). -/
def Group.inRange (g : Group) (spans : List (Nat × Nat)) : Bool := spans.all (fun p => decide (p.1 + p.2 ≤ g.nreg))

/-- REGRANGE: a decode trap, met by no lane (R14, R122). -/
def regRange (x : View) : TrapReq := { code := 0x02, lanes := x.sp.e }

/-- Run a meaning of classes 0 to 5 on the issuing split. -/
def State.onView (s : State) (spans : List (Nat × Nat)) (f : View → Out) : Host.Outcome State Fault Refusal :=
  match s.issuer with
  | none => .fault .noIssuer
  | some x =>
    match (if x.g.inRange spans then f x else .trap (regRange x)) with
    | .ok g sps => s.close x (s.dev.finish s.env s.cur.key g x.sp.low x.sp.handling sps)
    | .trap t => s.close x (s.dev.raise s.env s.cur.key x.g x.sp t)

/-- What a result makes of the device; a wait changes nothing, nor does a trap that would wait with no room for it: what
raises it is tried again once the handler has ended (R398). -/
def Device.apply (d0 : Device) (e : Env) (key : Nat) (x : View) : Res → Except Miss Device
  | .done d sp =>
    match d.groups.get key with
    | none => .ok d
    | some g => d.finish e key g x.sp.low x.sp.handling [sp]
  | .trap d sp t =>
    match d.groups.get key with
    | none => .ok d
    | some g => if g.inHandler && !sp.handling && g.trapsFull then .ok d0 else d.raise e key g sp t
  | .abortPage va => d0.abortPage e key x.g va
  | .whole d => .ok d
  | .stall _ | .delay _ => .ok d0

/-- Run a meaning of classes 6 and 7 on the issuing split. In a sealed task a page not resident aborts it (R388). -/
def State.onDevice (s : State) (spans : List (Nat × Nat)) (f : Env → SplitRef → Device → View → Res) :
    Host.Outcome State Fault Refusal :=
  match s.issuer with
  | none => .fault .noIssuer
  | some x =>
    match (if x.g.inRange spans then f s.env s.cur s.dev x else .trap s.dev x.sp (regRange x)) with
    | .stall (.page (va :: l)) =>
      if x.g.sealBuf.isSome then s.close x (s.dev.abortPages s.env s.cur.key x.g va l)
      else .next (s.stalled x (.page (va :: l)))
    | .stall why | .delay why => .next (s.stalled x why)
    | r => s.close x (s.dev.apply s.env s.cur.key x r)

end Sys2Proof.Machine
end

