-- ==== Sys2Proof/Machine/Events.lean ====
section
/-! DEFINITION. What every event of the device shares: it changes the device when it is due and nothing when it is not; a
page it must wait for is requested (R388). -/

namespace Sys2Proof.Machine

/-- An event that acts on the device for a context, and for a core and a swarm where it has them. -/
def State.onDev (s : State) (ctx core : Nat) (f : Env → Device → Option (Except Miss Device)) (swarm : Nat := 0) :
    Host.Outcome State Fault Refusal :=
  match f s.env s.dev with
  | none => .next s
  | some (.ok d) => .next (s.withDev d)
  | some (.error (.page vas)) => .next (s.withDev (s.dev.pageRequests s.env ctx core 0 swarm vas))
  | some (.error _) => .next s

/-- An event that acts on the device and meets no page. -/
def State.whenDue (s : State) (due : Bool) (f : Env → Device → Device) : Host.Outcome State Fault Refusal :=
  .next (if due then s.withDev (f s.env s.dev) else s)

/-- An event that acts on the platform. -/
def State.onPlat (s : State) (f : Platform → Platform) : Host.Outcome State Fault Refusal := .next { s with plat := f s.plat }

/-- The view of a split of a group slot. -/
def State.viewAt (s : State) (core slot lane : Nat) : Option View := ({ s with cur := { core, slot, lane } } : State).issuer

/-- Close what an event does for a split: its device, or a wait with nothing done. -/
def State.closeParked (s : State) (core slot : Nat) (g : Group) : Except Miss Device → Host.Outcome State Fault Refusal
  | .ok d => .next (s.withDev d)
  | .error (.page vas) => .next (s.withDev (s.dev.pageRequests s.env g.ctx core slot g.swarm vas))
  | .error _ => .next s

/-- An event that acts for a split: the split goes on, traps, or waits on. In a sealed task an access of its own to a page that
is not resident aborts it (R292, R388). -/
def State.onParked (s : State) (core slot lane : Nat) (f : Env → SplitRef → Device → View → Option Res) :
    Host.Outcome State Fault Refusal :=
  match s.viewAt core slot lane with
  | none => .next s
  | some x =>
    match f s.env { core, slot, lane } s.dev x with
    | none => .next s
    | some (.stall (.page (va :: l))) => s.closeParked core slot x.g
        (if x.g.sealBuf.isSome then s.dev.abortPages s.env (slotKey core slot) x.g va l else .error (.page (va :: l)))
    | some (.delay (.page l)) => s.closeParked core slot x.g (.error (.page l))
    | some (.stall _) | some (.delay _) => .next s
    | some r => s.closeParked core slot x.g (s.dev.apply s.env (slotKey core slot) x r)

/-- An event that changes one split alone. -/
def State.onSplit (s : State) (core slot lane : Nat) (f : Env → View → Option Split) : Host.Outcome State Fault Refusal :=
  s.onParked core slot lane (fun e _ d x => (f e x).map (fun sp => .done d sp))

/-- An event that changes one group alone. -/
def State.onGroup (s : State) (core slot : Nat) (f : Env → Device → Group → Option Group) : Host.Outcome State Fault Refusal :=
  match s.dev.groups.get (slotKey core slot) with
  | none => .next s
  | some g =>
    match f s.env s.dev g with
    | none => .next s
    | some g1 => .next (s.withDev (s.dev.putGroup (slotKey core slot) g1))

end Sys2Proof.Machine
end

