-- ==== Sys2Proof/Machine/Flags.lean ====
section
/-! DEFINITION. Flags and rounding modes as instructions meet them: flags raised by issued instructions and not yet merged
(R33, R57), and the mode an instruction rounds under (R35, R68). -/

namespace Sys2Proof.Machine

/-- The OR of some flags. -/
def orFlags : List Flags → Flags
  | [] => 0
  | f :: l => f ||| orFlags l

/-- An instruction has raised flags: they merge when it completes (R33). -/
def View.raiseFlags (x : View) (f : Flags) : View :=
  if f = 0 then x else { x with g := { x.g with inflight := x.g.inflight ++ [f] } }

/-- Merge the flags of every issued instruction (R33). -/
def Group.mergeFlags (g : Group) : Group := { g with fx := g.fx ||| orFlags g.inflight, inflight := [] }

/-- Merge the flags of the instruction that has been in flight longest (R33). -/
def Group.mergeFirst (g : Group) : Group :=
  match g.inflight with
  | [] => g
  | f :: l => { g with fx := g.fx ||| f, inflight := l }

/-- The mode RMODE gives; RS and the values 5 to 7 round RNE where RS does not apply (R34, R35). -/
def Group.defaultMode (g : Group) : RMode :=
  match g.rmode.toNat with
  | 1 => .rz | 2 => .rd | 3 => .ru | _ => .rne

/-- The mode of an instruction that is no conversion or drain (R35, R68). -/
def View.mode (x : View) (rm : Rm) : RMode :=
  match rm with
  | .dflt => x.g.defaultMode
  | .rne | .rs => .rne
  | .rz => .rz
  | .rd => .rd
  | .ru => .ru

/-- A conversion or drain rounds stochastically (R35). -/
def View.isRs (x : View) (rm : Rm) : Bool := rm = .rs || (rm = .dflt && x.g.rmode = 4)

/-- A lane's RNG state. -/
def Group.rngOf (g : Group) (lane : Nat) : W64 := g.rng.get lane

/-- Set a lane's RNG state. -/
def Group.setRng (g : Group) (lane : Nat) (s : W64) : Group := { g with rng := g.rng.set lane s }

/-- The modes for the elements that a lane consumes in order under RS, one RNG step for each present one (R51): each
element's mode, and the state after. -/
def rsModes (s : W64) : List Bool → List RMode × W64
  | [] => ([], s)
  | p :: l =>
    if p then
      let s1 := rngStep s
      let r := rsModes s1 l
      (.rs (rngBits s1) :: r.1, r.2)
    else
      let r := rsModes s l
      (.rne :: r.1, r.2)

/-- The modes for a lane's elements, given which are present, and the lane's RNG state after them (R35, R51). -/
def View.modes (x : View) (rm : Rm) (lane : Nat) (present : List Bool) : List RMode × W64 :=
  if x.isRs rm then rsModes (x.g.rngOf lane) present
  else (present.map (fun _ => x.mode rm), x.g.rngOf lane)

end Sys2Proof.Machine
end

