-- ==== Sys2Proof/Machine/Operands.lean ====
section
/-! DEFINITION. Operands of vector instructions: operand B, sub-elements, codebooks, and results lane by lane (R26, R38,
R39, R41, R127 to R131). -/

namespace Sys2Proof.Machine

/-! ### Codebooks (R26, R39, R41) -/

/-- The eight words of q0, highest first. -/
def book0 : BitVec 256 :=
  0xC0C0C080#32 ++ 0xC040C000#32 ++ 0xBFC0BF80#32 ++ 0xBF00FFFF#32 ++ 0x40C04080#32 ++ 0x40404000#32 ++ 0x3FC03F80#32
    ++ 0x3F000000#32

/-- A codebook register. -/
def Group.book (g : Group) (k : Nat) : BitVec 256 := if k = 0 then book0 else g.q.get k

/-- An entry of a codebook, a BF16 code. -/
def Group.bookEntry (g : Group) (k code : Nat) : Nat := ((g.book k).extractLsb' (16 * code) 16).toNat

/-- The value of an element's code, c4 through a codebook (R41). -/
def Group.elem (g : Group) (t : Ty) (book code : Nat) : XVal :=
  if t = .c4 then Ty.bf16.value (g.bookEntry book code) else t.value code

/-! ### Operand B and sub-elements (R38, R129) -/

/-- Operand B of a lane: the scalar when S is set. -/
def View.opB (x : View) (f : FmtV) (lane : Nat) : W32 := if f.s then x.s f.vb.toNat else x.v f.vb.toNat lane

/-- The sub-elements of a lane word, lowest first. -/
def subs (t : Ty) (w : W32) : List Nat := (List.range t.lanes).map (fun j => subElem t w j)

/-- Element-wise over one, two and three lane words: the word and the flags. -/
def map1 (t : Ty) (f : Nat → Nat × Flags) (a : W32) : W32 × Flags :=
  let l := (subs t a).map f
  (packWord t (l.map Prod.fst), orFlags (l.map Prod.snd))

/-- Element-wise over two lane words. -/
def map2 (t : Ty) (f : Nat → Nat → Nat × Flags) (a b : W32) : W32 × Flags :=
  let l := List.zipWith f (subs t a) (subs t b)
  (packWord t (l.map Prod.fst), orFlags (l.map Prod.snd))

/-- Element-wise over three lane words. -/
def map3 (t : Ty) (f : Nat → Nat → Nat → Nat × Flags) (a b c : W32) : W32 × Flags :=
  let l := List.zipWith (fun (p : Nat × Nat) z => f p.1 p.2 z) ((subs t a).zip (subs t b)) (subs t c)
  (packWord t (l.map Prod.fst), orFlags (l.map Prod.snd))

/-! ### Results (R127, R128, R130) -/

/-- Write a vector register in the lanes of a mask, and raise the flags of those lanes. -/
def View.writeV (x : View) (m : Mask) (d : Nat) (f : Nat → W32 × Flags) : View :=
  let r := (lanesOf m).map (fun l => (l, f l))
  let y : View := { x with g := x.g.setVs d (r.map (fun p => (p.1, p.2.1))) }
  y.raiseFlags (orFlags (r.map (fun p => p.2.2)))

/-- Write a triple in the active lanes (R130). -/
def View.writeT (x : View) (act : Mask) (k : Nat) (r : Mask) : View :=
  x.setTriple k ((x.triple k &&& ~~~act) ||| (r &&& act))

/-- The mask of the active lanes that a test picks. -/
def pickLanes (act : Mask) (p : Nat → Bool) : Mask :=
  (lanesOf act).foldl (fun m l => if p l then m ||| (1#96 <<< l) else m) 0

/-- A vector instruction of some length under a predicate: no effect when no lane is active (R128). -/
def State.vector (s : State) (i : Instr) (n : Nat) (ms : Pred) (f : View → Mask → View) :
    Host.Outcome State Fault Refusal :=
  s.onView i.spans (fun x => Out.view ((if x.active ms = 0 then x else f x (x.active ms)).next n))

/-- Format V: a result word and flags from each active lane's number. -/
def State.vecV (s : State) (i : Instr) (f : FmtV) (r : View → Nat → W32 × Flags) : Host.Outcome State Fault Refusal :=
  s.vector i 8 f.ms (fun x m => x.writeV m f.vd.toNat (r x))

/-- Format V: a triple from each active lane's number, with flags. -/
def State.vecT (s : State) (i : Instr) (f : FmtV) (r : View → Nat → Bool × Flags) : Host.Outcome State Fault Refusal :=
  s.vector i 8 f.ms (fun x m =>
    (x.writeT m f.vd.toNat (pickLanes m (fun l => (r x l).1))).raiseFlags (orFlags ((lanesOf m).map (fun l => (r x l).2))))

end Sys2Proof.Machine
end

