-- ==== Sys2Proof/Machine/Spin.lean ====
section
/-! DEFINITION. The spin detector (R218, R219): what makes an iteration idle, the record a backward branch updates, and
the lines a split has loaded. -/

namespace Sys2Proof.Machine

/-- Note lines a load reads (R219): none is kept once there are more than four. -/
def Spin.load (p : Spin) (lines : List Nat) : Spin :=
  lines.foldl (fun p k =>
    if p.lines.contains k then p
    else if p.lines.length < 4 then { p with lines := p.lines ++ [k] }
    else { p with tooMany := true }) p

/-- Note lines a load reads. -/
def View.noteLoad (x : View) (lines : List Nat) : View := { x with sp := { x.sp with spin := x.sp.spin.load lines } }

/-- Instructions that make an iteration not idle whatever they write (R218). -/
def isBusy : Instr → Bool
  | .stg _ | .sts _ | .stsm _ | .stsc _ | .atomg _ | .atoms _ | .redg _ | .bestmax _ | .tst _ => true
  | .spawn _ | .jrec _ | .fnew _ | .fres _ | .fwait _ | .freg _ | .fcan _ | .swnew _ | .swdl _ | .swcan _
  | .swendClose _ | .swendRun _ | .barInit _ | .barArrive _ | .barWait _ | .barExpect _ | .cpy _ | .cpydn _
  | .colqQpoint _ | .colqQsphere _ | .colqQseg _ | .dyns _ | .gqcfg _ | .gqpush _ | .gqpop _ | .gqflush _ | .pdef _
  | .palloc _ | .pfree _ | .preset _ | .regdef _ | .hstw _ | .sigdec _ => true
  | _ => false

/-- Branches (R107, R218). -/
def isBranch : Instr → Bool
  | .br _ | .brs _ | .brv _ | .brany _ | .bway _ | .jmp _ | .call _ | .calli _ _ | .ret _ | .tret => true
  | _ => false

/-- Scalars whose value changed. -/
def changedScalars (a b : Group) : List Nat := (List.range 60).filter (fun k => a.s.get k ≠ b.s.get k)

/-- FX as the instructions issued so far leave it: with the flags that are still to merge (R33). -/
def Group.flagsIssued (g : Group) : Flags := g.inflight.foldl (· ||| ·) g.fx

/-- Some register other than a scalar changed; a flag that an instruction raises is its write of FX. -/
def changedOther (a b : Group) : Bool :=
  decide (a.v ≠ b.v) || a.h ≠ b.h || a.wBase ≠ b.wBase || a.wSize ≠ b.wSize || a.q ≠ b.q || a.flagsIssued ≠ b.flagsIssued
    || a.rmode ≠ b.rmode || a.seed ≠ b.seed

/-- The words of E that differ, as scalars: s60 to s62 (R16). -/
def changedExec (a b : Mask) : List Nat :=
  ((List.range 3).filter (fun k => a.extractLsb' (32 * k) 32 ≠ b.extractLsb' (32 * k) 32)).map (fun k => 60 + k)

/-- The record after an instruction: what it changed, with the words of E, and whether it was a busy one. -/
def Spin.issue (p : Spin) (busy : Bool) (a b : Group) (exec : List Nat) : Spin :=
  let ks := changedScalars a b ++ exec
  let ok : Bool := !busy && !changedOther a b && ks.all (fun k => p.changed = none || p.changed = some k)
    && decide (ks.length ≤ 1)
  { p with idle := p.idle && ok, changed := match ks with
      | k :: _ => some k
      | [] => p.changed }

/-- A backward branch at an address is taken (R218). -/
def Spin.back (p : Spin) (pc : W64) : Spin :=
  { p with
    addr := some pc, n := if p.addr = some pc && p.idle then p.n + 1 else 1
    idle := true, changed := none, lines := [], tooMany := false }

/-- Demote a split (R218); one that is demoted begins anew, but for a hit that it has not yet seen (log entry 45). -/
def Split.demote (sp : Split) (now : Nat) : Split :=
  { sp with demoted := true, demotedAt := now, notedHit := false, spin := { sp.spin with n := 0 } }

/-- The count at which a backward branch demotes its split (R218). -/
def spinLimit : Nat := 64

/-- Restore a demoted split (R219). -/
def Split.restoreSpin (sp : Split) : Split :=
  { sp with demoted := false, notedHit := false, noted := [], spin := Spin.clear }

/-- A demoted split that an event of R219 has reached is restored. -/
def Split.restored (sp : Split) : Split := if sp.demoted && sp.notedHit then sp.restoreSpin else sp

/-- What an instruction, or the end of its wait, writes enters the split's record: one that makes its iteration not idle
restores a demoted split (R218, R219). -/
def Split.noteWrites (sp : Split) (busy : Bool) (a b : Group) (exec : List Nat) : Split :=
  let p := sp.spin.issue busy a b exec
  { sp with spin := p, notedHit := sp.notedHit || (sp.demoted && !p.idle) }

/-- A split has met a trap in an instruction: it has entered the handler, or waits for it (R121). -/
def Split.tookTrap (sp before : Split) : Bool := sp.trapped || (sp.handling && !before.handling)

/-- A split of the issuing one after it issued: its spin record; a backward branch, taken and not trapped, that brings the count to 64 demotes it,
with the lines noted that its last iteration loaded. -/
def Split.spun (i : Instr) (now : Nat) (before : View) (after : Group) (sp : Split) : Split :=
  let exec := if sp.l = before.sp.l && !isBranch i then changedExec before.sp.e sp.e else []
  let sp := sp.noteWrites (isBusy i) before.g after exec
  if isBranch i && !sp.tookTrap before.sp && decide (sp.pc.toNat ≤ before.sp.pc.toNat) then
    let q := sp.spin.back before.sp.pc
    if q.n = spinLimit && !(sp.demoted && sp.notedHit) then
      { sp with spin := q, noted := if sp.spin.tooMany then [] else sp.spin.lines }.demote now
    else { sp with spin := q }
  else sp

/-- A split counts as demoted in issue choice (R119, R218, R219). -/
def Split.isDemoted (sp : Split) : Bool := (sp.demoted && !sp.notedHit) || (match sp.park with
  | .watch _ _ => true
  | _ => false)

end Sys2Proof.Machine
end

