-- ==== Sys2Proof/Machine/Barriers.lean ====
section
/-! DEFINITION. Named barriers: their events, the release and the poisoning of waiters, and BAR (R301, R302). -/

namespace Sys2Proof.Machine

/-- A barrier at team start (R210). -/
def Barrier.blank : Barrier :=
  { init := false, poison := false, detail := 0, count := 0, arr := 0, pend := 0, phase := 0, who := [] }

/-- A barrier just initialised (R301). -/
def Barrier.open_ (c : W32) : Barrier := { Barrier.blank with init := true, count := c.setWidth 16 }

/-- Replace a barrier of a team. -/
def Device.setBar (d : Device) (team n : Nat) (b : Barrier) : Device :=
  { d with teams := d.teams.upd team (fun t => { t with bars := t.bars.set n b }) }

/-! ### Waiters -/

/-- The splits of a group parked on a barrier, by lowest lane. -/
def Group.waiters (g : Group) (n : Nat) : List Nat :=
  (g.splits.filter (fun sp => match sp.park with
    | .barWait f _ _ _ => f.va.toNat = n
    | _ => false)).map Split.low

/-- End the WAIT of a parked split with a status. -/
def Group.endWait (status : W32) (g : Group) (low : Nat) : Group :=
  match g.splitAt low with
  | none => g
  | some sp =>
    match sp.park with
    | .barWait f _ _ _ =>
      let y := ((View.mk g { sp with park := .running }).setS f.sd.toNat status).next 8
      y.g.put low [y.sp]
    | _ => g

/-- Release every split parked on a barrier with a status. -/
def Device.releaseBar (d : Device) (team n : Nat) (status : W32) : Device :=
  { d with groups := d.groups.mapV (fun _ g =>
      if g.team = team then (g.waiters n).foldl (Group.endWait status) g else g) }

/-- BAROVR for some parked splits, each a slot and its lowest lane. Where a core holds no more waiting traps, the WAIT issues
again once the handler has ended, and then meets the poisoned barrier (R398). -/
def Device.failWaits (e : Env) (detail : Nat) : List (Nat × Nat) → Device → Except Miss Device
  | [], d => .ok d
  | (key, low) :: l, d =>
    match d.groups.get key with
    | none => Device.failWaits e detail l d
    | some g =>
      match g.splitAt low with
      | none => Device.failWaits e detail l d
      | some sp =>
        match (if g.inHandler && !sp.handling && g.trapsFull then .ok (d.putGroup key (g.put low [{ sp with park := .running }]))
          else d.raise e key g sp { code := 0x0B, detail, lanes := sp.e }) with
        | .error m => .error m
        | .ok d1 => Device.failWaits e detail l d1

/-- Poison a barrier: every parked waiter takes BAROVR (R301). -/
def Device.poisonBar (d : Device) (e : Env) (team n : Nat) (b : Barrier) (detail : Nat) : Except Miss Device :=
  let ws := d.groups.flatMap (fun p => if p.2.team = team then (p.2.waiters n).map (fun low => (p.1, low)) else [])
  Device.failWaits e detail ws (d.setBar team n { b with poison := true, detail })

/-- After an event on an open barrier: the phase completes when it can, its waiters are released with status 0, and the
groups that arrived have completed it (R212, R301). -/
def Device.settleBar (d : Device) (team n : Nat) (b : Barrier) : Device :=
  if b.arr = b.count.toNat && b.pend = 0 then
    let d1 := d.setBar team n { b with phase := b.phase + 1, arr := 0, who := [] }
    let d2 : Device := { d1 with groups := d1.groups.mapV (fun _ g =>
      if g.team = team && b.who.contains g.gid then { g with phases := g.phases + 1 } else g) }
    d2.releaseBar team n 0
  else d.setBar team n b

/-! ### Events of a barrier (R301) -/

/-- An arrival of a group that counts n, on an open barrier. -/
def Device.arriveBar (d : Device) (e : Env) (team k gid n : Nat) (b : Barrier) : Except Miss Device :=
  let b1 := { b with arr := b.arr + n, who := if b.who.contains gid then b.who else b.who ++ [gid] }
  if b.count.toNat < b1.arr then d.poisonBar e team k b1 2 else .ok (d.settleBar team k b1)

/-- Bytes announced on an open barrier. -/
def Device.expectBar (d : Device) (e : Env) (team k : Nat) (n : W32) (b : Barrier) : Except Miss Device :=
  let b1 := { b with pend := b.pend + n.toNat }
  if 2 ^ 47 - 1 < b1.pend then d.poisonBar e team k b1 3 else .ok (d.settleBar team k b1)

/-- A copy's decrement; dropped when the team has gone (R298). -/
def Device.copyBar (d : Device) (e : Env) (team k n : Nat) : Except Miss Device :=
  match d.teams.get team with
  | none => .ok d
  | some t =>
    let b := t.bars.getD k Barrier.blank
    if b.poison then .ok d
    else if !b.init then d.poisonBar e team k b 1
    else
      let b1 := { b with pend := b.pend - n }
      if b1.pend < 0 then d.poisonBar e team k b1 1 else .ok (d.settleBar team k b1)

/-! ### BAR (R302) -/

/-- A BAR instruction: the barrier must lie in the team's block (R27), whatever the predicate admits. -/
def State.barOp (s : State) (i : Instr) (f : FmtT) (op : Env → SplitRef → Device → View → Barrier → Res) :
    Host.Outcome State Fault Refusal :=
  s.onDevice i.spans (fun e r d x =>
    let t := d.teamOf x.g
    if t.bars.length ≤ f.va.toNat then .trap d x.sp (regRange x)
    else if x.active f.ms = 0 then Res.view d r.key (x.next 8)
    else op e r d x (t.bars.getD f.va.toNat Barrier.blank))

/-- BOUNDS of an instruction that acts once for its split. -/
def boundsTrap (d : Device) (x : View) : Res := .trap d x.sp { code := 0x11, lanes := x.sp.e }

/-- A count from 1 to 65,535. -/
def countOk (c : W32) : Bool := decide (1 ≤ c.toNat) && decide (c.toNat ≤ 65535)

/-- BAR INIT (R301, R302). -/
def execBarInit (f : FmtT) (s : State) :=
  s.barOp (.barInit f) f (fun e r d x _ =>
    let c := x.s f.sa.toNat
    if !countOk c then boundsTrap d x
    else Res.thenDo d e r.key x (x.next 8) (fun d =>
      .ok ((d.setBar x.g.team f.va.toNat (Barrier.open_ c)).releaseBar x.g.team f.va.toNat 2)))

/-- BAR ARRIVE (R301, R302). -/
def execBarArrive (f : FmtT) (s : State) :=
  s.barOp (.barArrive f) f (fun e r d x b =>
    let n := if f.opt.getLsbD 0 then x.s f.sb.toNat else 1
    if !countOk n || (!b.init && !b.poison) then boundsTrap d x
    else
      let y := (x.setS f.sd.toNat b.phase).next 8
      if b.poison then Res.view d r.key y
      else Res.thenDo d e r.key x y (fun d => d.arriveBar e x.g.team f.va.toNat x.g.gid n.toNat b))

/-- BAR WAIT (R301, R302). -/
def execBarWait (f : FmtT) (s : State) :=
  s.barOp (.barWait f) f (fun e r d x b =>
    let p := x.s f.sa.toNat
    if b.poison then .trap d x.sp { code := 0x0B, detail := b.detail, lanes := x.sp.e }
    else if !b.init then boundsTrap d x
    else if b.phase ≠ p then Res.view d r.key ((x.setS f.sd.toNat 0).next 8)
    else .done d { x.sp with park := .barWait f p ((x.sp.rewait.map Prod.snd).getD e.now) (x.s f.sb.toNat) })

/-- BAR EXPECT (R301, R302). -/
def execBarExpect (f : FmtT) (s : State) :=
  s.barOp (.barExpect f) f (fun e r d x b =>
    if b.poison then Res.view d r.key (x.next 8)
    else if !b.init then boundsTrap d x
    else Res.thenDo d e r.key x (x.next 8) (fun d => d.expectBar e x.g.team f.va.toNat (x.s f.sb.toNat) b))

/-- BAR TEST (R301, R302). -/
def execBarTest (f : FmtT) (s : State) :=
  s.barOp (.barTest f) f (fun _ r d x b =>
    if !b.poison && !b.init then boundsTrap d x
    else
      let v : W32 := if b.poison then 3 else if b.phase = x.s f.sa.toNat then 1 else 0
      Res.view d r.key ((x.setS f.sd.toNat v).next 8))

/-- BAR_WAIT_TIMEOUT: DTIME has passed the timeout of a parked WAIT (R302). -/
def execBarWaitTimeout (core slot lane : Nat) (s : State) :=
  s.onParked core slot lane (fun e r d x =>
    match x.sp.park with
    | .barWait f _ start tout =>
      if tout ≠ 0 && decide (start.toNat + tout.toNat ≤ e.now.toNat) then
        some (Res.view d r.key (({ x with sp := { x.sp with park := .running } }.setS f.sd.toNat 1).next 8))
      else none
    | _ => none)

end Sys2Proof.Machine
end

