-- ==== Sys2Proof/Machine/Access.lean ====
section
/-! DEFINITION. What the memory instructions share: lane addresses and their checks (R71, R168 to R170), acquire and
release on SWC pages (R251), the seal buffer of a sealed group (R174, R233 to R235), loads and stores of lanes, the
scratchpad (R226, R228), and the order of lanes that meet (R173). -/

namespace Sys2Proof.Machine

/-- A checked access: its pages. -/
abbrev Run := List (Xlate × Nat × W64)

/-! ### Lane addresses and their checks -/

/-- The index of a lane (R71). -/
def View.index (x : View) (f : FmtM) (lane : Nat) : Int := if f.xi then (x.v f.vx.toNat lane).toInt * 2 ^ f.sc.val else 0

/-- The address of a lane from a base (R71): exact. -/
def View.laneAddr (x : View) (f : FmtM) (base unit lane : Nat) : Int := base + x.index f lane + f.off.toInt * unit

/-- The checks of one lane's global access of n bytes in the order of R168. -/
def Device.laneRun (d : Device) (e : Env) (ctx : Nat) (ag : Agent) (k : Access) (linkOk : Bool) (align n : Nat) (a : Int) :
    Except Miss Run :=
  if a % align ≠ 0 then .error (.fault 0x03 0 (BitVec.ofInt 64 a) d.touches)
  else if a < 0 || decide (2 ^ 57 ≤ a) then .error (.fault 0x05 0 (BitVec.ofInt 64 a) d.touches)
  else d.probeN e.plat e.tick ctx ag k linkOk (BitVec.ofInt 64 a) n

/-- The checks of one lane's scratchpad access of n bytes (R168): its offset, or MISALIGN or BOUNDS at the 32-bit offset. -/
def spadRun (t : Team) (n : Nat) (a : Int) : Except Miss Nat :=
  let at_ : W64 := (BitVec.ofInt 32 a).setWidth 64
  if a % n ≠ 0 then .error (.fault 0x03 0 at_ [])
  else if a < 0 || decide ((t.spSize : Int) < a + n) then .error (.fault 0x11 0 at_ [])
  else .ok a.toNat

/-- What the checks of an instruction's lanes come to. -/
inductive Checked (α : Type)
  | ok (l : List (Nat × α))
  | trap (t : TrapReq)
  | stall (why : Stall)
  deriving Repr

/-- Faults of some lanes, lowest lane first: lane, code, detail, address. -/
def faultsOf {α : Type} (l : List (Nat × Except Miss α)) : List (Nat × Nat × Nat × W64) :=
  l.filterMap (fun p => match p.2 with
    | .error (.fault c det a _) => some (p.1, c, det, a)
    | _ => none)

/-- A mask of some lanes. -/
def maskOfLanes (l : List Nat) : Mask := l.foldl (fun m k => m ||| (1#96 <<< k)) 0

/-- The trap that some lanes' faults raise: the lowest code, the lanes that met it, the detail and address of the lowest of
them (R122, R169). -/
def worstTrap : List (Nat × Nat × Nat × W64) → Option TrapReq
  | [] => none
  | l@((_, c0, _) :: _) =>
    let code := l.foldl (fun m p => min m p.2.1) c0
    let met := l.filter (fun p => p.2.1 = code)
    let low := met.foldl (fun m p => min m p.1) 96
    let first := (met.filter (fun p => p.1 = low)).map (fun p => p.2.2)
    some { code, detail := (first.map Prod.fst).headD 0, addr := (first.map Prod.snd).headD 0
           lanes := maskOfLanes (met.map Prod.fst) }

/-- The lanes' checks together (R169, R387): a trap before a wait, a wait for every page that is not resident. -/
def sumChecks {α : Type} (l : List (Nat × Except Miss α)) : Checked α :=
  match worstTrap (faultsOf l) with
  | some t => .trap t
  | none =>
    let pages := l.flatMap (fun p => match p.2 with
      | .error (.page vas) => vas
      | _ => [])
    if pages ≠ [] then .stall (.page pages)
    else if l.any (fun p => match p.2 with
      | .error .channel => true
      | _ => false) then .stall .channel
    else .ok (l.filterMap (fun p => match p.2 with
      | .ok x => some (p.1, x)
      | _ => none))

/-- Answer with what the checks stop on, or go on. -/
def Checked.run {α : Type} (c : Checked α) (d : Device) (x : View) (f : List (Nat × α) → Res) : Res :=
  match c with
  | .ok l => f l
  | .trap t => .trap d x.sp t
  | .stall why => .stall why

/-- A trap of every active lane, with no address. -/
def everyLane (x : View) (act : Mask) (code detail : Nat) (d : Device) : Res := .trap d x.sp { code, detail, lanes := act }

/-- An instruction that acts once for its split reports E in LANES (R122, as R296 and R349 give). -/
def Res.uniform : Res → Res
  | .trap d sp t => .trap d sp { t with lanes := sp.e }
  | r => r

/-! ### Operations of lanes that may fault in their course (R277, R314, R330, R333) -/

/-- Why a lane's operation made no change; a fault names the accesses that had touched their pages (R386). -/
inductive LaneErr
  | wait (w : Stall)
  | fault (code detail : Nat) (addr : W64) (seen : List Touched)
  deriving DecidableEq, Repr

/-- A failed check as a lane meets it. -/
def Miss.lane : Miss → LaneErr
  | .fault c det a ts => .fault c det a ts
  | m => .wait m.stall

/-- The lanes' operations one after another: the device, the lanes' results, and the faults noted; or a wait with nothing
done. -/
def eachLane {α β : Type} (op : Device → α → Except LaneErr (Device × β)) :
    List (Nat × α) → Device → Except Stall (Device × List (Nat × β) × List (Nat × Nat × Nat × W64))
  | [], d => .ok (d, [], [])
  | (lane, a) :: l, d =>
    match op d a with
    | .ok (d1, b) =>
      match eachLane op l d1 with
      | .error w => .error w
      | .ok (d2, bs, fs) => .ok (d2, (lane, b) :: bs, fs)
    | .error (.wait w) => .error w
    | .error (.fault c det at_ ts) =>
      match eachLane op l (d.retouch ts) with
      | .error w => .error w
      | .ok (d2, bs, fs) => .ok (d2, bs, (lane, c, det, at_) :: fs)

/-! ### The seal buffer (R174, R233 to R235) -/

/-- The buffered store of a sector. -/
def SealBuf.find (b : SealBuf) (key : Nat) : Option (List (Nat × Byte)) :=
  b.entries.findSome? (fun o => match o with
    | .sector k bytes => if k = key then some bytes else none
    | _ => none)

/-- Later bytes replace earlier ones of the same offset. -/
def mergeBytes (old new : List (Nat × Byte)) : List (Nat × Byte) :=
  old.filter (fun p => !new.any (fun q => q.1 = p.1)) ++ new

/-- Buffer the bytes a store puts into one sector: merged into its entry, or a new entry of one unit (R233). -/
def SealBuf.putSector (b : SealBuf) (key : Nat) (bytes : List (Nat × Byte)) : SealBuf :=
  match b.find key with
  | some old => { b with entries := b.entries.map (fun o => match o with
      | .sector k _ => if k = key then .sector k (mergeBytes old bytes) else o
      | o => o) }
  | none => { b with entries := b.entries ++ [.sector key bytes], units := b.units + 1 }

/-- Buffer one other effect. -/
def SealBuf.push (b : SealBuf) (o : SealOp) (units : Nat) : SealBuf :=
  { b with entries := b.entries ++ [o], units := b.units + units }

/-- Note one part of a buffered write, once for each page. -/
def noteWrite1 (ag : Agent) (ctx : Nat) (l : List Touched) (t : Xlate × Nat × W64) : List Touched :=
  if l.any (fun w => w.va.toNat / 4096 = t.2.2.toNat / 4096) then l
  else l ++ [{ ag, ctx, va := t.2.2, kind := .store, x := t.1 }]

/-- Note the virtual pages of buffered writes, whose D the commit sets (R259, R386), and whether they release at .dev or .sys
(R251). -/
def SealBuf.notePages (b : SealBuf) (ag : Agent) (ctx : Nat) (o : MemOrd) (sc : Scope) (l : List Run) : SealBuf :=
  { b with
    pages := (b.pages ++ l.flatMap (fun (r : Run) => r.map (fun (t : Xlate × Nat × W64) => t.2.2.toNat / 4096))).dedup
    rel := b.rel || (isRel o && wideScope sc)
    writes := l.flatten.foldl (noteWrite1 ag ctx) b.writes }

/-- A place's bytes cut at sectors: (key, bytes by offset). -/
def sectorsOf (key : Nat) (bytes : List Byte) : List (Nat × List (Nat × Byte)) :=
  let l := (List.range bytes.length).zip bytes
  (List.range ((key + bytes.length - 1) / 16 - key / 16 + 1)).map (fun j =>
    let base := (key / 16 + j) * 16
    (base, (l.filter (fun p => (key + p.1) / 16 * 16 = base)).map (fun p => ((key + p.1) % 16, p.2))))

/-- The sectors of a checked store. -/
def runSectors : Run → List Byte → List (Nat × List (Nat × Byte))
  | [], _ => []
  | t :: l, bytes => sectorsOf (spaceKey t.1.space t.1.pa) (bytes.take t.2.1) ++ runSectors l (bytes.drop t.2.1)

/-- Replace a group's buffer by one that holds more: SEALOVF past the group's limit, a wait for the core's units, or the
view with the new buffer (R233, R234). -/
def Device.sealTake (d : Device) (core : Nat) (x : View) (old new : SealBuf) (f : View → Res) : Res :=
  if sealLimit < new.units then .trap d x.sp { code := 0x08, lanes := x.sp.e }
  else if sealUnits < d.sealUsed core + (new.units - old.units) then .stall (.seal (new.units - old.units))
  else f { x with g := { x.g with sealBuf := some new } }

/-- A group's own buffered byte (R235). -/
def Group.sealByte (g : Group) (key : Nat) (b : Byte) : Byte :=
  match g.sealBuf with
  | none => b
  | some s =>
    match s.find (key / 16 * 16) with
    | none => b
    | some l => ((l.find? (fun p => p.1 = key % 16)).map Prod.snd).getD b

/-- Bytes read at a place, overlaid with the group's own buffered stores (R174). -/
def Group.overlay (g : Group) (key : Nat) (l : List Byte) : List Byte :=
  match g.sealBuf with
  | none => l
  | some _ => (List.range l.length).zip l |>.map (fun p => g.sealByte (key + p.1) p.2)

/-! ### Loads (R169, R174, R251) -/

/-- The 128 B lines of a checked access. -/
def runLines (l : Run) : List Nat :=
  l.flatMap (fun t => (List.range ((t.1.pa + t.2.1 - 1) / 128 - t.1.pa / 128 + 1)).map (fun k => lineKey t.1.space t.1.pa + k))

/-- Physical place of a checked access's first byte. -/
def runKey (l : Run) : Nat := (l.map (fun t => spaceKey t.1.space t.1.pa)).headD 0

/-- Some page of an access is PRIV. -/
def runPriv (l : Run) : Bool := l.any (fun t => t.1.cls = 2)

/-- Note that a group has touched a PRIV page. -/
def View.notePriv (x : View) (p : Bool) : View := if p then { x with g := { x.g with touchedPriv := true } } else x

/-- A group reads bytes at a place through its L1, with its seal buffer over them. -/
def Device.groupRead (d : Device) (ag : Agent) (g : Group) (l : Run) : List Byte :=
  l.flatMap (fun t => g.overlay (spaceKey t.1.space t.1.pa) (d.readAt ag t.1 t.2.1))

/-- A checked load of some lanes: the pages are touched, the sectors filled; poison met is SPADUE, detail 4 (R426). The
continuation gets the device, the view with the lines noted, and each lane's bytes. -/
def Device.loadLanes (d : Device) (core : Nat) (x : View) (l : List (Nat × Run))
    (f : Device → View → List (Nat × List Byte) → Res) : Res :=
  let ag := Agent.core core
  let d1 := l.foldl (fun d p => d.touchAll ag x.g.ctx .load p.2) d
  let bad := l.filter (fun p => d1.poisonRun ag p.2)
  if bad ≠ [] then
    .trap d1 x.sp { code := 0x0D, detail := 4, addr := d1.poisonFirst ag (bad.flatMap Prod.snd), lanes := maskOfLanes (bad.map Prod.fst) }
  else
    let vals := l.map (fun p => (p.1, d1.groupRead ag x.g p.2))
    let d2 := l.foldl (fun d p => p.2.foldl (fun d t => d.fillAt ag t.1 t.2.1) d) d1
    f d2 ((x.noteLoad (l.flatMap (fun p => runLines p.2))).notePriv (l.any (fun p => runPriv p.2))) vals

/-- Lanes load n bytes each from global memory under an order. -/
def loadGlobal (e : Env) (core : Nat) (d : Device) (x : View) (o : MemOrd) (sc : Scope) (align n : Nat)
    (reqs : List (Nat × Int)) (f : Device → View → List (Nat × List Byte) → Res) : Res :=
  (sumChecks (reqs.map (fun p => (p.1, d.laneRun e x.g.ctx (Agent.core core) .load true align n p.2)))).run d x (fun l =>
    (d.order core (if isAcq o then .acq else .plain) sc).loadLanes core x l f)

/-! ### Writes and their count (R255) -/

/-- A group's next write would leave more than 2^24 of its writes not performed. -/
def Device.writeFull (d : Device) (g : Group) : Bool :=
  match d.drains.get g.guid with
  | some r => decide (2 ^ 24 ≤ (g.writes - r.done).toNat)
  | none => false

/-- A writing instruction waits while the group's limit of writes not performed is reached. -/
def Device.writeGate (d : Device) (x : View) (f : Unit → Res) : Res :=
  if d.writeFull x.g then .stall (.full { guid := x.g.guid, count := x.g.writes - (2 ^ 24 - 1) }) else f ()

/-- A write that acts is counted. -/
def View.counted (x : View) : View := { x with g := { x.g with writes := x.g.writes + 1 } }

/-! ### Lanes on one location (R173) -/

/-- Elements in an order that free choices pick. -/
def shuffle {α : Type} (tick k : Nat) : Nat → List α → List α
  | 0, l => l
  | fuel + 1, l =>
    match l with
    | [] => []
    | [a] => [a]
    | a :: m =>
      let j := Config.freeNat tick (k + fuel) % (m.length + 1)
      let l := a :: m
      (l.getD j a) :: shuffle tick k fuel (l.eraseIdx j)

/-- Keys with no repeat. -/
def distinct {α : Type} [DecidableEq α] : List α → Bool
  | [] => true
  | a :: l => !l.contains a && distinct l

/-- The order in which lanes are applied: ascending when no two name one place, else unspecified. -/
def laneOrder {α β : Type} [DecidableEq β] (tick : Nat) (place : α → β) (l : List α) : List α :=
  if distinct (l.map place) then l else shuffle tick 16 96 l

/-- Lanes in an order that free choices pick, where what one does may meet what another does (R9). -/
def anyOrder {α : Type} (tick : Nat) (l : List α) : List α := shuffle tick 16 96 l

/-! ### Stores -/

/-- One lane's store past its checks. -/
def Device.storeLane (d : Device) (ag : Agent) (ctx : Nat) (l : Run) (bytes : List Byte) : Device :=
  (d.touchAll ag ctx .store l).writeRun ag l bytes

/-- A sealed group buffers its lanes' stores (R174). -/
def bufferStores (b : SealBuf) (l : List (Run × List Byte)) : SealBuf :=
  l.foldl (fun b p => (runSectors p.1 p.2).foldl (fun b s => b.putSector s.1 s.2) b) b

/-- Lanes store under an order: at once, or into the seal buffer; then the continuation. Two lanes meet where their addresses
name one place in memory. A store that is buffered is translated as it issues, which sets A; its commit sets D (R259, R386). -/
def storeGlobal (e : Env) (core : Nat) (d : Device) (x : View) (o : MemOrd) (sc : Scope) (align n : Nat)
    (reqs : List (Nat × Int × List Byte)) (f : Device → View → Res) : Res :=
  (sumChecks (reqs.map (fun p => (p.1, (d.laneRun e x.g.ctx (Agent.core core) .store true align n p.2.1).map
      (fun r => (r, p.2.1, p.2.2)))))).run d x (fun l =>
    d.writeGate x (fun _ =>
      let ag := Agent.core core
      let l := laneOrder e.tick (fun p => runKey p.2.1) l
      let y := x.counted.notePriv (l.any (fun p => runPriv p.2.1))
      match x.g.sealBuf with
      | some b =>
        let d1 := l.foldl (fun d p => d.touchAll ag x.g.ctx .load p.2.1) d
        d1.sealTake core y b ((bufferStores b (l.map (fun p => (p.2.1, p.2.2.2)))).notePages ag x.g.ctx o sc (l.map (fun p => p.2.1)))
          (fun y => f d1 y)
      | none =>
        let ro : MemOrd := if isRel o then .rel else .plain
        let d1 := l.foldl (fun d p => d.storeLane ag x.g.ctx p.2.1 p.2.2.2) (d.order core ro sc)
        f (d1.order core ro sc) y))

/-! ### Scratchpad (R226, R228) -/

/-- Bytes of a core's scratchpad. -/
def spadBytes : Nat := 524288

/-- Where a team's offset lies in the scratchpads. -/
def Team.spadAt (t : Team) (core off : Nat) : Nat := core * spadBytes + t.spBase + off

/-- The 128 B line of a scratchpad place, apart from every line of memory. -/
def spadLine (at_ : Nat) : Nat := 2 ^ 59 + at_ / 128

/-- The lines of n bytes of a scratchpad. -/
def spadLines (at_ n : Nat) : List Nat := (List.range ((at_ + n - 1) / 128 - at_ / 128 + 1)).map (fun k => spadLine (at_ + 128 * k))

/-- Bytes of a scratchpad. -/
def Device.spadRead (d : Device) (at_ n : Nat) : List Byte := readBytes d.spad at_ n

/-- Write bytes of a scratchpad under a context: splits that noted their lines are told (R219). -/
def Device.spadWrite (d : Device) (ctx at_ : Nat) (bytes : List Byte) : Device :=
  let d1 := { d with
    spad := writeBytes d.spad at_ bytes
    spadOwner := writeBytes d.spadOwner at_ (bytes.map (fun _ => BitVec.ofNat 8 ctx)) }
  (spadLines at_ bytes.length).foldl (fun d line => d.tell line) d1

/-! ### Registers of a lane by width (R13, R171) -/

/-- Bytes of a width. -/
def widthBytes : Width → Nat
  | .w8 => 1 | .w16 => 2 | .w32 => 4 | .w64 => 8 | .w128 => 16

/-- The n low bytes of consecutive registers of a lane. -/
def View.regBytes (x : View) (r lane n : Nat) : List Byte :=
  ((List.range ((n + 3) / 4)).flatMap (fun k => natToBytes 4 (x.v (r + k) lane).toNat)).take n

/-- Write loaded bytes into consecutive registers of a lane; 8 and 16 bits fill the register, extended. -/
def Group.putBytes (g : Group) (r lane : Nat) (sx : Bool) (bytes : List Byte) : Group :=
  let n := bytesToNat bytes
  match bytes.length with
  | 1 => g.setV r lane (if sx then (BitVec.ofNat 8 n).signExtend 32 else BitVec.ofNat 32 n)
  | 2 => g.setV r lane (if sx then (BitVec.ofNat 16 n).signExtend 32 else BitVec.ofNat 32 n)
  | k => (List.range (k / 4)).foldl (fun g j => g.setV (r + j) lane (BitVec.ofNat 32 (n / 2 ^ (32 * j)))) g

/-- Write every lane's loaded bytes. -/
def View.putLanes (x : View) (r : Nat) (sx : Bool) (l : List (Nat × List Byte)) : View :=
  { x with g := l.foldl (fun g p => g.putBytes r p.1 sx p.2) x.g }

/-! ### The shape of a memory instruction -/

/-- A memory instruction of some length under a predicate: no effect when no lane is active (R168, R242). -/
def State.access (s : State) (i : Instr) (n : Nat) (ms : Pred)
    (f : Env → SplitRef → Device → View → Mask → Res) : Host.Outcome State Fault Refusal :=
  s.onDevice i.spans (fun e r d x =>
    if x.active ms = 0 then Res.view d r.key (x.next n) else f e r d x (x.active ms))

/-- The lanes' addresses over a global base pair. -/
def View.globalReqs (x : View) (f : FmtM) (unit : Nat) (act : Mask) : List (Nat × Int) :=
  (lanesOf act).map (fun l => (l, x.laneAddr f (x.pair f.sa.toNat).toNat unit l))

/-- The lanes' addresses over a scratchpad base. -/
def View.spadReqs (x : View) (f : FmtM) (unit : Nat) (act : Mask) : List (Nat × Int) :=
  (lanesOf act).map (fun l => (l, x.laneAddr f (x.s f.sa.toNat).toNat unit l))

end Sys2Proof.Machine
end

