-- ==== Sys2Proof/Machine/Comb.lean ====
section
/-! DEFINITION. Comb regions: keys, the cells of a region's tree, lookup, insertion with splits, deletion with collapses,
and the least entry at or above a key (R324 to R333). -/

namespace Sys2Proof.Machine

/-! ### Regions (R324, R326) -/

/-- A defined region's fields. -/
structure Region where
  id : Nat
  pool : Nat
  vw : Nat
  fmt : Ty
  rank : Nat
  e : Nat
  deriving DecidableEq, Repr

/-- Fields of a configuration value that REGDEF accepted. -/
def Region.ofConfig (id : Nat) (c : W64) : Region :=
  { id, pool := (c.extractLsb' 24 6).toNat, vw := (c.extractLsb' 16 3).toNat + 1
    fmt := (Ty.ofCode (c.extractLsb' 12 4).toNat).getD .b32, rank := (c.extractLsb' 8 2).toNat + 1
    e := (c.extractLsb' 0 7).toNat }

/-- Key bits of a tree level. -/
def Region.b (r : Region) : Nat := if r.rank = 3 then 3 else 4

/-- Levels below the root. -/
def Region.depth (r : Region) : Nat := (r.rank * r.e + r.b - 1) / r.b

/-- The Morton key of a coordinate (R326). -/
def Region.key (r : Region) (c : List Nat) : Nat :=
  (List.range r.e).foldl (fun k i =>
    (List.range r.rank).foldl (fun k d => if (c.getD d 0).testBit i then k + 2 ^ (i * r.rank + d) else k) k) 0

/-- A key's digit at a depth (R326). -/
def Region.digit (r : Region) (key d : Nat) : Nat := key / 2 ^ (r.depth * r.b - r.b * (d + 1)) % 2 ^ r.b

/-- A key's first d digits, its other bits zero (R327). -/
def Region.head (r : Region) (key d : Nat) : Nat :=
  let sh := r.depth * r.b - r.b * d
  key / 2 ^ sh * 2 ^ sh

/-- Bits of the width that covers a value (R181). -/
def Region.cover (r : Region) : Nat := if r.vw = 1 then 8 else if r.vw = 2 then 16 else if r.vw ≤ 4 then 32 else 64

/-- The elements of a value. -/
def Region.elems (r : Region) (v : Nat) : List Nat :=
  (List.range (r.vw * 8 / r.fmt.bits)).map (fun j => v / 2 ^ (r.fmt.bits * j) % 2 ^ r.fmt.bits)

/-- A value that a TST deletes with: each element zero or ABSENT; raw bits all zero (R328). -/
def Region.deletes (r : Region) (v : Nat) : Bool :=
  match r.fmt with
  | .b32 | .n32 | .s32 => v % 2 ^ (8 * r.vw) = 0
  | t => (r.elems v).all (fun c => t.absentCode = some c || (t.value c).isZero)

/-- The value of ABSENT in every element; zero where the format has none (R181, R335). -/
def Region.absent (r : Region) : Nat :=
  match r.fmt.absentCode with
  | none => 0
  | some a => (List.range (r.vw * 8 / r.fmt.bits)).foldl (fun v j => v + a * 2 ^ (r.fmt.bits * j)) 0

/-- A region's entry in the comb table. -/
def Device.comb (d : Device) (ctx id : Nat) : Comb :=
  match d.ctxs.get ctx with
  | some c => (c.combs.get id).getD { config := 0, nent := 0, root := 0 }
  | none => { config := 0, nent := 0, root := 0 }

/-- Replace a region's entry. -/
def Device.setComb (d : Device) (ctx id : Nat) (c : Comb) : Device :=
  d.updCtx ctx (fun x => { x with combs := x.combs.set id c })

/-- The region a number names, when it is defined. -/
def Device.region (d : Device) (ctx id : Nat) : Option Region :=
  let c := d.comb ctx id
  if c.config = 0 then none else some (Region.ofConfig id c.config)

/-! ### Cells (R327, R333) -/

/-- Why a comb operation made no change, and the accesses that had touched their pages (R386). -/
inductive CombErr
  | miss (m : Miss)
  | full (seen : List Touched)
  | malformed (cell : W64) (seen : List Touched)
  deriving DecidableEq, Repr

/-- A cell: a leaf with its entries (key, value), or an interior cell with its children, each an index + 1. -/
inductive Cell
  | leaf (depth pfx : Nat) (ents : List (Nat × Nat))
  | inner (depth pfx : Nat) (children : List Nat)
  deriving DecidableEq, Repr

/-- A leaf's bytes. -/
def leafBytes (depth pfx : Nat) (ents : List (Nat × Nat)) : Nat :=
  (depth * 256 + ents.length * 8) + pfx * 2 ^ 64 +
    2 ^ 128 * bytesToNat (ents.flatMap (fun p => natToBytes 8 p.1 ++ natToBytes 8 p.2))

/-- An interior cell's bytes. -/
def innerBytes (depth pfx : Nat) (children : List Nat) : Nat :=
  (depth * 256 + (children.filter (fun c => c ≠ 0)).length * 8 + 1) + pfx * 2 ^ 64 +
    2 ^ 128 * bytesToNat (children.flatMap (fun c => natToBytes 4 c))

/-- A cell's bytes. -/
def Cell.toNat : Cell → Nat
  | .leaf d p l => leafBytes d p l
  | .inner d p c => innerBytes d p c

/-- Keys ascend strictly. -/
def ascending : List (Nat × Nat) → Bool
  | a :: b :: l => decide (a.1 < b.1) && ascending (b :: l)
  | _ => true

/-- The cell that 128 bytes hold at a depth of a descent; none when it is malformed. -/
def Region.cellOf (r : Region) (count depth n : Nat) : Option Cell :=
  let pfx := n / 2 ^ 64 % 2 ^ 64
  let nent := n / 8 % 32
  let body := n / 2 ^ 128
  if n / 256 % 256 ≠ depth then none
  else if n % 2 = 0 then
    let ents := (List.range nent).map (fun j => (body / 2 ^ (128 * j) % 2 ^ 64, body / 2 ^ (128 * j + 64) % 2 ^ (8 * r.vw)))
    if 7 < nent || !ascending ents || ents.any (fun p => r.head p.1 depth ≠ r.head pfx depth) then none
    else some (.leaf depth pfx ents)
  else
    let ch := (List.range (2 ^ r.b)).map (fun g => body / 2 ^ (32 * g) % 2 ^ 32)
    if r.depth ≤ depth || nent = 0 || nent ≠ (ch.filter (fun c => c ≠ 0)).length || ch.any (fun c => decide (count < c)) then none
    else some (.inner depth pfx ch)

/-- Address of a region's cell. -/
def Device.combCellAt (d : Device) (ctx : Nat) (r : Region) (i : Nat) : W64 := (d.pool ctx r.pool).cellAt i

/-- Read the cell of an index at a depth of a descent. -/
def Device.combRead (d : Device) (e : Env) (ctx : Nat) (r : Region) (depth i : Nat) : Except CombErr (Device × Cell) :=
  let a := d.combCellAt ctx r i
  match d.atomicLoad e ctx Agent.unit a 128 with
  | .error m => .error (.miss m)
  | .ok (d1, n) =>
    match r.cellOf (d.pool ctx r.pool).count depth n with
    | none => .error (.malformed a d1.touches)
    | some c => .ok (d1, c)

/-- Write a cell whole. -/
def Device.combWrite (d : Device) (e : Env) (ctx : Nat) (r : Region) (i : Nat) (c : Cell) : Except CombErr Device :=
  match d.atomicStore e ctx Agent.unit (d.combCellAt ctx r i) 128 c.toNat with
  | .error m => .error (.miss m)
  | .ok d1 => .ok d1

/-- Allocate a cell of the bound pool (R319). -/
def Device.combAlloc (d : Device) (e : Env) (ctx : Nat) (r : Region) : Except CombErr (Device × Nat) :=
  match d.cellAlloc e ctx r.pool with
  | .error m => .error (.miss m)
  | .ok (d1, none) => .error (.full d1.touches)
  | .ok (d1, some i) => .ok (d1, i)

/-- Free a cell to the bound pool; one whose map bit is clear, a program having freed it, leaves the pool as it is
(DESIGN CHOICE, log entry 55). -/
def Device.combFree (d : Device) (e : Env) (ctx : Nat) (r : Region) (i : Nat) : Except CombErr Device :=
  match d.cellFree e ctx r.pool i with
  | .error m => .error (.miss m)
  | .ok q => .ok q.1

/-! ### Lookup -/

/-- The cells on a key's path from a cell down, root first: it ends at a leaf, or at an interior cell without the child. -/
def Device.combPath (d : Device) (e : Env) (ctx : Nat) (r : Region) (key : Nat) :
    Nat → Nat → Nat → Except CombErr (Device × List (Nat × Cell))
  | 0, _, i => .error (.malformed (d.combCellAt ctx r i) d.touches)
  | fuel + 1, depth, i =>
    match d.combRead e ctx r depth i with
    | .error x => .error x
    | .ok (d1, .leaf dp p l) => .ok (d1, [(i, .leaf dp p l)])
    | .ok (d1, .inner dp p ch) =>
      let c := ch.getD (r.digit key depth) 0
      if c = 0 then .ok (d1, [(i, .inner dp p ch)])
      else
        match d1.combPath e ctx r key fuel (depth + 1) (c - 1) with
        | .error x => .error x
        | .ok (d2, l) => .ok (d2, (i, .inner dp p ch) :: l)

/-- The path of a key from the root; empty for an empty tree. -/
def Device.combWalk (d : Device) (e : Env) (ctx : Nat) (r : Region) (key : Nat) : Except CombErr (Device × List (Nat × Cell)) :=
  let root := (d.comb ctx r.id).root
  if root = 0 then .ok (d, []) else d.combPath e ctx r key (r.depth + 1) 0 (root - 1)

/-- A key's value in a leaf. -/
def lookupKey (key : Nat) (l : List (Nat × Nat)) : Option Nat := (l.find? (fun p => p.1 = key)).map Prod.snd

/-- The value of a key (R331). -/
def Device.combGet (d : Device) (e : Env) (ctx : Nat) (r : Region) (key : Nat) : Except CombErr (Device × Option Nat) :=
  match d.combWalk e ctx r key with
  | .error x => .error x
  | .ok (d1, l) =>
    match l.getLast? with
    | some (_, .leaf _ _ ents) => .ok (d1, lookupKey key ents)
    | _ => .ok (d1, none)

/-- The entry with the least key at or above a bound under a cell; `tight` while the path is the bound's own (R332). -/
def Device.combNext (e : Env) (ctx : Nat) (r : Region) (lo : Nat) :
    Nat → Bool → Nat → Nat → Device → Except CombErr (Device × Option (Nat × Nat))
  | 0, _, _, i, d => .error (.malformed (d.combCellAt ctx r i) d.touches)
  | fuel + 1, tight, depth, i, d =>
    match d.combRead e ctx r depth i with
    | .error x => .error x
    | .ok (d1, .leaf _ _ l) => .ok (d1, l.find? (fun p => decide (lo ≤ p.1)))
    | .ok (d1, .inner _ _ ch) =>
      let g0 := if tight then r.digit lo depth else 0
      (ch.zip (List.range ch.length)).foldl (fun acc p =>
        match acc with
        | .error x => .error x
        | .ok (d, some v) => .ok (d, some v)
        | .ok (d, none) =>
          if p.1 = 0 || decide (p.2 < g0) then .ok (d, none)
          else Device.combNext e ctx r lo fuel (tight && p.2 = g0) (depth + 1) (p.1 - 1) d) (.ok (d1, none))

/-- The entry with the least key at or above a bound (R182). -/
def Device.combSeek (d : Device) (e : Env) (ctx : Nat) (r : Region) (lo : Nat) : Except CombErr (Device × Option (Nat × Nat)) :=
  let root := (d.comb ctx r.id).root
  if root = 0 then .ok (d, none) else Device.combNext e ctx r lo (r.depth + 1) true 0 (root - 1) d

/-! ### Insertion and splits (R328) -/

/-- Insert or replace an entry in key order. -/
def insertKey (k v : Nat) : List (Nat × Nat) → List (Nat × Nat)
  | [] => [(k, v)]
  | p :: l => if k < p.1 then (k, v) :: p :: l else if k = p.1 then (k, v) :: l else p :: insertKey k v l

/-- The entries of a set by their digit at a depth. -/
def Region.parts (r : Region) (depth : Nat) (s : List (Nat × Nat)) : List (List (Nat × Nat)) :=
  (List.range (2 ^ r.b)).map (fun g => s.filter (fun p => r.digit p.1 depth = g))

/-- The number of cells that build allocates. -/
def Region.buildSize (r : Region) : Nat → Nat → List (Nat × Nat) → Nat
  | 0, _, _ => 1
  | fuel + 1, depth, s =>
    if s.length ≤ 7 then 1
    else 1 + ((r.parts depth s).map (fun p => if p = [] then 0 else r.buildSize fuel (depth + 1) p)).foldl (fun a b => a + b) 0

/-- Build the subtree of a set of entries at a depth: its cell. -/
def Device.combBuild (e : Env) (ctx : Nat) (r : Region) : Nat → Nat → List (Nat × Nat) → Device → Except CombErr (Device × Nat)
  | 0, _, _, d => .error (.full d.touches)
  | fuel + 1, depth, s, d =>
    match d.combAlloc e ctx r with
    | .error x => .error x
    | .ok (d1, i) =>
      let pfx := r.head ((s.map Prod.fst).headD 0) depth
      let kids : Except CombErr (Device × List Nat) :=
        if s.length ≤ 7 then .ok (d1, [])
        else (r.parts depth s).foldl (fun acc p =>
          match acc with
          | .error x => .error x
          | .ok (d, l) =>
            if p = [] then .ok (d, l ++ [0])
            else
              match Device.combBuild e ctx r fuel (depth + 1) p d with
              | .error x => .error x
              | .ok (d', c) => .ok (d', l ++ [c + 1])) (.ok (d1, []))
      match kids with
      | .error x => .error x
      | .ok (d2, ch) =>
        match d2.combWrite e ctx r i (if s.length ≤ 7 then .leaf depth pfx s else .inner depth pfx ch) with
        | .error x => .error x
        | .ok d3 => .ok (d3, i)

/-- The region gains or loses entries, and perhaps a root. -/
def Device.combCount (d : Device) (ctx : Nat) (r : Region) (f : W64 → W64) : Device :=
  let c := d.comb ctx r.id
  d.setComb ctx r.id { c with nent := f c.nent }

/-- Set the region's root, as index + 1. -/
def Device.combRoot (d : Device) (ctx : Nat) (r : Region) (root : Nat) : Device :=
  d.setComb ctx r.id { d.comb ctx r.id with root }

/-- Point the parent at the end of a path, or the root, to a cell (index + 1). -/
def Device.combLink (d : Device) (e : Env) (ctx : Nat) (r : Region) (key : Nat) (parent : Option (Nat × Cell)) (c : Nat) :
    Except CombErr Device :=
  match parent with
  | some (i, .inner dp p ch) => d.combWrite e ctx r i (.inner dp p (ch.set (r.digit key dp) c))
  | _ => .ok (d.combRoot ctx r c)

/-- Store a value at a key (R328). -/
def Device.combPut (d : Device) (e : Env) (ctx : Nat) (r : Region) (key v : Nat) : Except CombErr Device :=
  match d.combWalk e ctx r key with
  | .error x => .error x
  | .ok (d1, path) =>
    let fresh (depth : Nat) (parent : Option (Nat × Cell)) : Except CombErr Device :=
      match Device.combBuild e ctx r 1 depth [(key, v)] d1 with
      | .error x => .error x
      | .ok (d2, c) =>
        match d2.combLink e ctx r key parent (c + 1) with
        | .error x => .error x
        | .ok d3 => .ok (d3.combCount ctx r (fun n => n + 1))
    match path.reverse with
    | [] => fresh 0 none
    | (i, .inner dp p ch) :: _ => fresh (dp + 1) (some (i, .inner dp p ch))
    | (i, .leaf dp p ents) :: up =>
      if (lookupKey key ents).isSome then d1.combWrite e ctx r i (.leaf dp p (insertKey key v ents))
      else if ents.length < 7 then
        match d1.combWrite e ctx r i (.leaf dp p (insertKey key v ents)) with
        | .error x => .error x
        | .ok d2 => .ok (d2.combCount ctx r (fun n => n + 1))
      else
        let s := insertKey key v ents
        let q := d1.pool ctx r.pool
        if q.count - q.live < r.buildSize (r.depth + 1 - dp) dp s then .error (.full d1.touches)
        else
          match Device.combBuild e ctx r (r.depth + 1 - dp) dp s d1 with
          | .error x => .error x
          | .ok (d2, c) =>
            match d2.combLink e ctx r key up.head? (c + 1) with
            | .error x => .error x
            | .ok d3 =>
              match d3.combFree e ctx r i with
              | .error x => .error x
              | .ok d4 => .ok (d4.combCount ctx r (fun n => n + 1))

/-! ### Deletion (R329) -/

/-- Free an empty cell and drop it from its parent, and so on up; the path is deepest first. -/
def Device.combCollapse (d : Device) (e : Env) (ctx : Nat) (r : Region) (key : Nat) : Nat → List (Nat × Cell) →
    Except CombErr Device
  | i, up =>
    match up with
    | [] =>
      match d.combFree e ctx r i with
      | .error x => .error x
      | .ok d1 => .ok (d1.combRoot ctx r 0)
    | (j, .leaf _ _ _) :: _ => .error (.malformed (d.combCellAt ctx r j) d.touches)
    | (j, .inner dp p ch) :: rest =>
      match d.combFree e ctx r i with
      | .error x => .error x
      | .ok d1 =>
        let ch' := ch.set (r.digit key dp) 0
        match d1.combWrite e ctx r j (.inner dp p ch') with
        | .error x => .error x
        | .ok d2 => if ch'.all (fun c => c = 0) then d2.combCollapse e ctx r key j rest else .ok d2

/-- Delete a key's entry, if there is one (R329). -/
def Device.combDelete (d : Device) (e : Env) (ctx : Nat) (r : Region) (key : Nat) : Except CombErr Device :=
  match d.combWalk e ctx r key with
  | .error x => .error x
  | .ok (d1, path) =>
    match path.reverse with
    | (i, .leaf dp p ents) :: up =>
      if (lookupKey key ents).isNone then .ok d1
      else
        let ents' := ents.filter (fun q => q.1 ≠ key)
        match d1.combWrite e ctx r i (.leaf dp p ents') with
        | .error x => .error x
        | .ok d2 =>
          let d3 := d2.combCount ctx r (fun n => n - 1)
          if ents' = [] then d3.combCollapse e ctx r key i up else .ok d3
    | _ => .ok d1

/-- One lane's TST on a region (R328, R329). -/
def Device.combStore (d : Device) (e : Env) (ctx : Nat) (r : Region) (key v : Nat) : Except CombErr Device :=
  if r.deletes v then d.combDelete e ctx r key else d.combPut e ctx r key (v % 2 ^ (8 * r.vw))

end Sys2Proof.Machine
end

