-- ==== Sys2Proof/Machine/Scalar.lean ====
section
/-! DEFINITION. Class 0: the scalar instructions (R97 to R106). Each takes effect whatever E holds. -/

namespace Sys2Proof.Machine

/-- A scalar instruction: the view changed, then the program counter past `n` bytes. -/
def State.scalar (s : State) (n : Nat) (f : View → View) : Host.Outcome State Fault Refusal :=
  s.onView [] (fun x => Out.view ((f x).next n))

/-- An immediate sign-extended to 32 bits (R98). -/
def sext9 (i : BitVec 9) : W32 := i.signExtend 32
/-- An immediate zero-extended to 32 bits (R98). -/
def zext9 (i : BitVec 9) : W32 := i.setWidth 32
/-- An immediate sign-extended to 64 bits (R98). -/
def sext9l (i : BitVec 9) : W64 := i.signExtend 64

/-- SD := op(SA, SB) in format S. -/
def State.binS (s : State) (op : W32 → W32 → W32) (d a b : SReg) : Host.Outcome State Fault Refusal :=
  s.scalar 4 (fun x => x.setS d.toNat (op (x.s a.toNat) (x.s b.toNat)))

/-- SD := op(SA, immediate) in format S. -/
def State.immS (s : State) (op : W32 → W32 → W32) (d a : SReg) (i : W32) : Host.Outcome State Fault Refusal :=
  s.scalar 4 (fun x => x.setS d.toNat (op (x.s a.toNat) i))

/-! ### The operations of R99 -/

/-- Bits 63 to 32 of the signed product. -/
def mulHS (a b : W32) : W32 := ((a.signExtend 64) * (b.signExtend 64)).extractLsb' 32 32
/-- Bits 63 to 32 of the unsigned product. -/
def mulHN (a b : W32) : W32 := ((a.setWidth 64) * (b.setWidth 64)).extractLsb' 32 32
/-- Left shift by a whole-word count. -/
def shl32 (a b : W32) : W32 := if 32 ≤ b.toNat then 0 else a <<< b.toNat
/-- Right shift with zero fill by a whole-word count. -/
def shr32 (a b : W32) : W32 := if 32 ≤ b.toNat then 0 else a >>> b.toNat
/-- Right shift with sign fill by a whole-word count. -/
def sar32 (a b : W32) : W32 := if 32 ≤ b.toNat then (if a.msb then 0xFFFFFFFF else 0) else a.sshiftRight b.toNat
/-- Signed minimum. -/
def minS (a b : W32) : W32 := if b.slt a then b else a
/-- Signed maximum. -/
def maxS (a b : W32) : W32 := if a.slt b then b else a
/-- Unsigned minimum. -/
def minN (a b : W32) : W32 := if b.ult a then b else a
/-- Unsigned maximum. -/
def maxN (a b : W32) : W32 := if a.ult b then b else a
/-- Unsigned quotient; all ones by zero. -/
def divN (a b : W32) : W32 := if b = 0 then 0xFFFFFFFF else a / b
/-- Unsigned remainder; the dividend by zero. -/
def remN (a b : W32) : W32 := if b = 0 then a else a % b

/-- SADD, register form (R99). -/
def execSadd (d a b : SReg) (s : State) := s.binS (· + ·) d a b
/-- SADD, immediate form (R99). -/
def execSaddImm (d a : SReg) (imm : BitVec 9) (s : State) := s.immS (· + ·) d a (sext9 imm)
/-- SSUB, register form (R99). -/
def execSsub (d a b : SReg) (s : State) := s.binS (· - ·) d a b
/-- SSUB, immediate form (R99). -/
def execSsubImm (d a : SReg) (imm : BitVec 9) (s : State) := s.immS (· - ·) d a (sext9 imm)
/-- SMUL, register form (R99). -/
def execSmul (d a b : SReg) (s : State) := s.binS (· * ·) d a b
/-- SMUL, immediate form (R99). -/
def execSmulImm (d a : SReg) (imm : BitVec 9) (s : State) := s.immS (· * ·) d a (sext9 imm)
/-- SMULHS, register form (R99). -/
def execSmulhs (d a b : SReg) (s : State) := s.binS mulHS d a b
/-- SMULHS, immediate form (R99). -/
def execSmulhsImm (d a : SReg) (imm : BitVec 9) (s : State) := s.immS mulHS d a (sext9 imm)
/-- SMULHN, register form (R99). -/
def execSmulhn (d a b : SReg) (s : State) := s.binS mulHN d a b
/-- SMULHN, immediate form, zero-extended (R99). -/
def execSmulhnImm (d a : SReg) (imm : BitVec 9) (s : State) := s.immS mulHN d a (zext9 imm)
/-- SAND, register form (R99). -/
def execSand (d a b : SReg) (s : State) := s.binS (· &&& ·) d a b
/-- SAND, immediate form (R99). -/
def execSandImm (d a : SReg) (imm : BitVec 9) (s : State) := s.immS (· &&& ·) d a (sext9 imm)
/-- SOR, register form (R99). -/
def execSor (d a b : SReg) (s : State) := s.binS (· ||| ·) d a b
/-- SOR, immediate form (R99). -/
def execSorImm (d a : SReg) (imm : BitVec 9) (s : State) := s.immS (· ||| ·) d a (sext9 imm)
/-- SXOR, register form (R99). -/
def execSxor (d a b : SReg) (s : State) := s.binS (· ^^^ ·) d a b
/-- SXOR, immediate form (R99). -/
def execSxorImm (d a : SReg) (imm : BitVec 9) (s : State) := s.immS (· ^^^ ·) d a (sext9 imm)
/-- SANDN, register form (R99). -/
def execSandn (d a b : SReg) (s : State) := s.binS (fun p q => p &&& ~~~q) d a b
/-- SANDN, immediate form (R99). -/
def execSandnImm (d a : SReg) (imm : BitVec 9) (s : State) := s.immS (fun p q => p &&& ~~~q) d a (sext9 imm)
/-- SSHL, register form (R99). -/
def execSshl (d a b : SReg) (s : State) := s.binS shl32 d a b
/-- SSHL, immediate count (R99). -/
def execSshlImm (d a : SReg) (imm : BitVec 5) (s : State) := s.immS shl32 d a (imm.setWidth 32)
/-- SSHR, register form (R99). -/
def execSshr (d a b : SReg) (s : State) := s.binS shr32 d a b
/-- SSHR, immediate count (R99). -/
def execSshrImm (d a : SReg) (imm : BitVec 5) (s : State) := s.immS shr32 d a (imm.setWidth 32)
/-- SSAR, register form (R99). -/
def execSsar (d a b : SReg) (s : State) := s.binS sar32 d a b
/-- SSAR, immediate count (R99). -/
def execSsarImm (d a : SReg) (imm : BitVec 5) (s : State) := s.immS sar32 d a (imm.setWidth 32)
/-- SMIN, register form (R99). -/
def execSmin (d a b : SReg) (s : State) := s.binS minS d a b
/-- SMIN, immediate form (R99). -/
def execSminImm (d a : SReg) (imm : BitVec 9) (s : State) := s.immS minS d a (sext9 imm)
/-- SMAX, register form (R99). -/
def execSmax (d a b : SReg) (s : State) := s.binS maxS d a b
/-- SMAX, immediate form (R99). -/
def execSmaxImm (d a : SReg) (imm : BitVec 9) (s : State) := s.immS maxS d a (sext9 imm)
/-- SMINN, register form (R99). -/
def execSminn (d a b : SReg) (s : State) := s.binS minN d a b
/-- SMINN, immediate form (R99). -/
def execSminnImm (d a : SReg) (imm : BitVec 9) (s : State) := s.immS minN d a (zext9 imm)
/-- SMAXN, register form (R99). -/
def execSmaxn (d a b : SReg) (s : State) := s.binS maxN d a b
/-- SMAXN, immediate form (R99). -/
def execSmaxnImm (d a : SReg) (imm : BitVec 9) (s : State) := s.immS maxN d a (zext9 imm)
/-- SDIVN, register form (R99). -/
def execSdivn (d a b : SReg) (s : State) := s.binS divN d a b
/-- SDIVN, immediate form (R99). -/
def execSdivnImm (d a : SReg) (imm : BitVec 9) (s : State) := s.immS divN d a (zext9 imm)
/-- SREMN, register form (R99). -/
def execSremn (d a b : SReg) (s : State) := s.binS remN d a b
/-- SREMN, immediate form (R99). -/
def execSremnImm (d a : SReg) (imm : BitVec 9) (s : State) := s.immS remN d a (zext9 imm)

/-! ### Moves and constants (R63, R100, R101) -/

/-- NOP does nothing (R63). -/
def execNop (s : State) := s.scalar 4 id
/-- SMOV, one register (R100). -/
def execSmov (d a : SReg) (s : State) := s.scalar 4 (fun x => x.setS d.toNat (x.s a.toNat))
/-- SMOV of a pair, both words read before either is written (R100). -/
def execSmovPair (d a : SReg) (s : State) := s.scalar 4 (fun x => x.setPair d.toNat (x.pair a.toNat))
/-- SMOV of an immediate (R100). -/
def execSmovImm (d : SReg) (imm : BitVec 9) (s : State) := s.scalar 4 (fun x => x.setS d.toNat (sext9 imm))
/-- SLI in its four forms (R101). -/
def execSli (f : FmtSI) (s : State) :=
  s.scalar 12 (fun x =>
    match f.fn.toNat with
    | 0 => x.setS f.sd.toNat f.lit
    | 1 => x.setPair f.sd.toNat (f.lit.signExtend 64)
    | 2 => x.setPair f.sd.toNat (f.lit.setWidth 64)
    | _ => x.setS (f.sd.toNat + 1) f.lit)

/-! ### 64-bit arithmetic, counts and fields (R102 to R104) -/

/-- SADD64 of pairs (R102). -/
def execSadd64 (d a b : SReg) (s : State) := s.scalar 4 (fun x => x.setPair d.toNat (x.pair a.toNat + x.pair b.toNat))
/-- SADD64 of an immediate (R102). -/
def execSadd64Imm (d a : SReg) (imm : BitVec 9) (s : State) :=
  s.scalar 4 (fun x => x.setPair d.toNat (x.pair a.toNat + sext9l imm))
/-- SSUB64 of pairs (R102). -/
def execSsub64 (d a b : SReg) (s : State) := s.scalar 4 (fun x => x.setPair d.toNat (x.pair a.toNat - x.pair b.toNat))
/-- SSUB64 of an immediate (R102). -/
def execSsub64Imm (d a : SReg) (imm : BitVec 9) (s : State) :=
  s.scalar 4 (fun x => x.setPair d.toNat (x.pair a.toNat - sext9l imm))
/-- SLEA with a scaled register (R102). -/
def execSlea (fn : BitVec 3) (d a b : SReg) (s : State) :=
  s.scalar 4 (fun x => x.setPair d.toNat (x.pair a.toNat + ((x.s b.toNat).signExtend 64 <<< fn.toNat)))
/-- SLEA of an immediate (R102). -/
def execSleaImm (d a : SReg) (imm : BitVec 9) (s : State) :=
  s.scalar 4 (fun x => x.setPair d.toNat (x.pair a.toNat + sext9l imm))

/-- Set bits of a word of n bits. -/
def popcount (n x : Nat) : Nat := ((List.range n).filter (fun k => x.testBit k)).length
/-- Leading zeros of a word of n bits. -/
def leadingZeros (n x : Nat) : Nat := if x = 0 then n else n - 1 - Nat.log2 x

/-- SPOPC of a register (R103). -/
def execSpopc (d a : SReg) (s : State) :=
  s.scalar 4 (fun x => x.setS d.toNat (BitVec.ofNat 32 (popcount 32 (x.s a.toNat).toNat)))
/-- SPOPC of a pair (R103). -/
def execSpopcL (d a : SReg) (s : State) :=
  s.scalar 4 (fun x => x.setS d.toNat (BitVec.ofNat 32 (popcount 64 (x.pair a.toNat).toNat)))
/-- SCLZ of a register (R103). -/
def execSclz (d a : SReg) (s : State) :=
  s.scalar 4 (fun x => x.setS d.toNat (BitVec.ofNat 32 (leadingZeros 32 (x.s a.toNat).toNat)))
/-- SCLZ of a pair (R103). -/
def execSclzL (d a : SReg) (s : State) :=
  s.scalar 4 (fun x => x.setS d.toNat (BitVec.ofNat 32 (leadingZeros 64 (x.pair a.toNat).toNat)))

/-- The field of w bits at a position, zero- or sign-extended (R104, R145). -/
def bitField (a : W32) (pos w : Nat) (sx : Bool) : W32 :=
  let f := a.toNat / 2 ^ pos % 2 ^ w
  if sx && f.testBit (w - 1) then BitVec.ofNat 32 (f + 2 ^ 32 - 2 ^ w) else BitVec.ofNat 32 f

/-- Bits [pos + w − 1 : pos] of a word replaced (R104). -/
def bitInsert (d a : W32) (pos w : Nat) : W32 :=
  let m : W32 := BitVec.ofNat 32 ((2 ^ w - 1) * 2 ^ pos)
  (d &&& ~~~m) ||| ((a <<< pos) &&& m)

/-- SBFX (R104). -/
def execSbfx (f : FmtSI) (s : State) :=
  s.scalar 12 (fun x => x.setS f.sd.toNat
    (bitField (x.s f.sa.toNat) (f.xf.extractLsb' 0 5).toNat ((f.xf.extractLsb' 8 5).toNat + 1) (f.xf.getLsbD 15)))
/-- SBFI (R104). -/
def execSbfi (f : FmtSI) (s : State) :=
  s.scalar 12 (fun x => x.setS f.sd.toNat
    (bitInsert (x.s f.sd.toNat) (x.s f.sa.toNat) (f.xf.extractLsb' 0 5).toNat ((f.xf.extractLsb' 8 5).toNat + 1)))

/-! ### Compares and masks (R105, R106) -/

/-- The ten conditions of SCMP on words of any width (R105). -/
def cmpCond {w : Nat} (c : Nat) (a b : BitVec w) : Bool :=
  match c with
  | 0 => a = b | 1 => a ≠ b | 2 => a.slt b | 3 => a.sle b | 4 => b.slt a | 5 => b.sle a
  | 6 => a.ult b | 7 => a.ule b | 8 => b.ult a | _ => b.ule a

/-- A condition as a word. -/
def boolWord (b : Bool) : W32 := if b then 1 else 0

/-- SCMP (R105). -/
def execScmp (f : FmtSI) (s : State) :=
  let c := (f.xf.extractLsb' 0 4).toNat
  s.scalar 12 (fun x => x.setS f.sd.toNat (boolWord (
    if f.xf.getLsbD 4 then cmpCond c (x.pair f.sa.toNat) (if f.i then f.lit.signExtend 64 else x.pair f.sb.toNat)
    else cmpCond c (x.s f.sa.toNat) (if f.i then f.lit else x.s f.sb.toNat))))

/-- The operations of SMASK (R106). -/
def maskOp (fn : Nat) (a b : Mask) : Mask :=
  match fn with
  | 0 => a &&& b
  | 1 => a ||| b
  | 2 => a ^^^ b
  | 3 => a &&& ~~~b
  | 4 => ~~~a
  | _ => a &&& (0 - a)

/-- SMASK (R106). -/
def execSmask (fn : BitVec 3) (d a b : SReg) (s : State) :=
  s.scalar 4 (fun x => x.setTriple d.toNat (maskOp fn.toNat (x.triple a.toNat) (x.triple b.toNat)))

end Sys2Proof.Machine
end

