-- ==== Sys2Proof/Machine/VecInt.lean ====
section
/-! DEFINITION. Class 2: vector integer, logical, move and lane instructions, scans and row maps (R133 to R147). -/

namespace Sys2Proof.Machine

/-! ### Integer elements (R42, R43, R133 to R136) -/

/-- An element as a signed integer. -/
def elemInt (t : Ty) (c : Nat) : Int := (BitVec.ofNat t.bits c).toInt

/-- An exact result in a data integer: saturated to ±M with OF (R42). -/
def saturate (t : Ty) (z : Int) : Nat × Flags :=
  let m : Int := t.intMax
  if m < z then (intCode t.bits false t.intMax, fOF)
  else if z < -m then (intCode t.bits true t.intMax, fOF)
  else (intCode t.bits (decide (z < 0)) z.natAbs, 0)

/-- A code is the ABSENT code of its type. -/
def isAbs (t : Ty) (c : Nat) : Bool := t.absentCode = some c

/-- A two-operand integer element (R133). -/
def intBin (t : Ty) (raw : W32 → W32 → W32) (op : Int → Int → Int) (a b : Nat) : Nat × Flags :=
  if t.isData then
    if isAbs t a || isAbs t b then (t.absentCode.getD 0, 0) else saturate t (op (elemInt t a) (elemInt t b))
  else ((raw (BitVec.ofNat 32 a) (BitVec.ofNat 32 b)).toNat, 0)

/-- A multiply-add element (R133); with `c` ABSENT the saturated product, as the pseudocode's comment has it (log entry
52). -/
def intMad (t : Ty) (a b c : Nat) : Nat × Flags :=
  if t.isData then
    if isAbs t a || isAbs t b then (c, 0)
    else saturate t (elemInt t a * elemInt t b + (if isAbs t c then 0 else elemInt t c))
  else ((BitVec.ofNat 32 a * BitVec.ofNat 32 b + BitVec.ofNat 32 c).toNat, 0)

/-- Less in the order of a type: unsigned for n32, signed otherwise (R135, R136). -/
def elemLt (t : Ty) (a b : Nat) : Bool :=
  match t with
  | .b32 | .n32 => decide (a < b)
  | _ => decide (elemInt t a < elemInt t b)

/-- Minimum or maximum of two elements; ABSENT is the identity for data integers (R135). -/
def intPick (t : Ty) (hi : Bool) (a b : Nat) : Nat :=
  if isAbs t a then b
  else if isAbs t b then a
  else if hi then (if elemLt t a b then b else a) else (if elemLt t b a then b else a)

/-- VADD (R133). -/
def execVadd (f : FmtV) (s : State) :=
  s.vecV (.vadd f) f (fun x l => map2 f.ty (intBin f.ty (· + ·) (· + ·)) (x.v f.va.toNat l) (x.opB f l))
/-- VSUB (R133). -/
def execVsub (f : FmtV) (s : State) :=
  s.vecV (.vsub f) f (fun x l => map2 f.ty (intBin f.ty (· - ·) (· - ·)) (x.v f.va.toNat l) (x.opB f l))
/-- VMUL (R133). -/
def execVmul (f : FmtV) (s : State) :=
  s.vecV (.vmul f) f (fun x l => map2 f.ty (intBin f.ty (· * ·) (· * ·)) (x.v f.va.toNat l) (x.opB f l))
/-- VMULH (R133). -/
def execVmulh (f : FmtV) (s : State) :=
  s.vecV (.vmulh f) f (fun x l => ((if f.ty = .n32 then mulHN else mulHS) (x.v f.va.toNat l) (x.opB f l), 0))
/-- VMAD (R133). -/
def execVmad (f : FmtV) (s : State) :=
  s.vecV (.vmad f) f (fun x l => map3 f.ty (intMad f.ty) (x.v f.va.toNat l) (x.opB f l) (x.v f.vc.toNat l))
/-- VAND (R133). -/
def execVand (f : FmtV) (s : State) := s.vecV (.vand f) f (fun x l => (x.v f.va.toNat l &&& x.opB f l, 0))
/-- VOR (R133). -/
def execVor (f : FmtV) (s : State) := s.vecV (.vor f) f (fun x l => (x.v f.va.toNat l ||| x.opB f l, 0))
/-- VXOR (R133). -/
def execVxor (f : FmtV) (s : State) := s.vecV (.vxor f) f (fun x l => (x.v f.va.toNat l ^^^ x.opB f l, 0))
/-- VANDN (R133). -/
def execVandn (f : FmtV) (s : State) := s.vecV (.vandn f) f (fun x l => (x.v f.va.toNat l &&& ~~~x.opB f l, 0))
/-- VSHL (R99, R133). -/
def execVshl (f : FmtV) (s : State) := s.vecV (.vshl f) f (fun x l => (shl32 (x.v f.va.toNat l) (x.opB f l), 0))
/-- VSHR (R99, R133). -/
def execVshr (f : FmtV) (s : State) := s.vecV (.vshr f) f (fun x l => (shr32 (x.v f.va.toNat l) (x.opB f l), 0))
/-- VSAR (R99, R133). -/
def execVsar (f : FmtV) (s : State) := s.vecV (.vsar f) f (fun x l => (sar32 (x.v f.va.toNat l) (x.opB f l), 0))
/-- VMIN (R135). -/
def execVmin (f : FmtV) (s : State) :=
  s.vecV (.vmin f) f (fun x l => map2 f.ty (fun a b => (intPick f.ty false a b, 0)) (x.v f.va.toNat l) (x.opB f l))
/-- VMAX (R135). -/
def execVmax (f : FmtV) (s : State) :=
  s.vecV (.vmax f) f (fun x l => map2 f.ty (fun a b => (intPick f.ty true a b, 0)) (x.v f.va.toNat l) (x.opB f l))

/-- The absolute value of an element (R134). -/
def intAbs (t : Ty) (a : Nat) : Nat :=
  if isAbs t a then a else (elemInt t a).natAbs % 2 ^ t.bits

/-- VABS (R134). -/
def execVabs (f : FmtV) (s : State) :=
  s.vecV (.vabs f) f (fun x l => map1 f.ty (fun a => (intAbs f.ty a, 0)) (x.v f.va.toNat l))

/-- The six predicates of VCMP; an ABSENT i32 is unordered (R136). -/
def intCmp (t : Ty) (c a b : Nat) : Bool :=
  if isAbs t a || isAbs t b then c = 1
  else
    match c with
    | 0 => a = b
    | 1 => a ≠ b
    | 2 => elemLt t a b
    | 3 => !elemLt t b a
    | 4 => elemLt t b a
    | _ => !elemLt t a b

/-- VCMP (R136). -/
def execVcmp (f : FmtV) (s : State) :=
  s.vecT (.vcmp f) f (fun x l => (intCmp f.ty f.md.toNat (x.v f.va.toNat l).toNat (x.opB f l).toNat, 0))

/-- VPOPC (R137). -/
def execVpopc (f : FmtV) (s : State) :=
  s.vecV (.vpopc f) f (fun x l => (BitVec.ofNat 32 (popcount 32 (x.v f.va.toNat l).toNat), 0))
/-- VCLZ (R137). -/
def execVclz (f : FmtV) (s : State) :=
  s.vecV (.vclz f) f (fun x l => (BitVec.ofNat 32 (leadingZeros 32 (x.v f.va.toNat l).toNat), 0))

/-! ### Moves and lane operations (R138 to R145) -/

/-- VMOV: a vector, or a scalar to every active lane (R138). -/
def execVmov (f : FmtV) (s : State) :=
  s.vecV (.vmov f) f (fun x l => (if f.s then x.s f.vb.toNat else x.v f.va.toNat l, 0))
/-- VLI (R138). -/
def execVli (f : FmtVI) (s : State) :=
  s.vector (.vli f) 12 f.v.ms (fun x m => x.writeV m f.v.vd.toNat (fun _ => (f.lit, 0)))
/-- VSEL (R139). -/
def execVsel (f : FmtV) (s : State) :=
  s.vecV (.vsel f) f (fun x l => (if (x.triple f.vc.toNat).getLsbD l then x.v f.va.toNat l else x.opB f l, 0))

/-- The source lane of VSHUF, computed in unbounded integers; none outside the group (R140). -/
def shufLane (md w l b : Nat) : Option Nat :=
  match md with
  | 0 => if b < w then some b else none
  | 1 => if l ^^^ b < w then some (l ^^^ b) else none
  | 2 => if b ≤ l then some (l - b) else none
  | _ => if l + b < w then some (l + b) else none

/-- VSHUF (R140). -/
def execVshuf (f : FmtV) (s : State) :=
  s.vecV (.vshuf f) f (fun x l =>
    (x.v f.va.toNat ((shufLane f.md.toNat x.g.width l (x.opB f l).toNat).getD l), 0))

/-- A lane's value, 0 at and beyond GWIDTH (R141, R143). -/
def View.laneValue (x : View) (r k : Nat) : W32 := if k < x.g.width then x.v r k else 0

/-- VBCST (R141). -/
def execVbcst (f : FmtV) (s : State) :=
  s.vector (.vbcst f) 8 f.ms (fun x m =>
    let k := if f.md = 1 then lowLane m else (x.s f.vb.toNat).toNat
    x.writeV m f.vd.toNat (fun _ => (x.laneValue f.va.toNat k, 0)))

/-- VLANE (R142). -/
def execVlane (f : FmtV) (s : State) :=
  s.vector (.vlane f) 8 f.ms (fun x m => x.writeV m f.vd.toNat (fun l =>
    (BitVec.ofNat 32 (match f.md.toNat with
      | 0 => l
      | 1 => x.g.gid * x.g.width + l
      | _ => ((lanesOf m).filter (fun k => decide (k < l))).length), 0)))

/-- VV2S (R143). -/
def execVv2s (f : FmtV) (s : State) :=
  s.vector (.vv2s f) 8 f.ms (fun x m =>
    x.setS f.vd.toNat (x.laneValue f.va.toNat (if f.md = 1 then lowLane m else f.vb.toNat)))

/-- The sub-elements VPACK takes from one operand (R144). -/
def packHalf (t : Ty) (even : Bool) (a : W32) : List Nat :=
  (List.range (t.lanes / 2)).map (fun j => subElem t a (if even then 2 * j else j))

/-- VPACK (R144). -/
def execVpack (f : FmtV) (s : State) :=
  s.vecV (.vpack f) f (fun x l =>
    (packWord f.ty (packHalf f.ty (f.md = 1) (x.v f.va.toNat l) ++ packHalf f.ty (f.md = 1) (x.opB f l)), 0))

/-- VUNPK (R144). -/
def execVunpk (f : FmtV) (s : State) :=
  s.vecV (.vunpk f) f (fun x l =>
    (bitField (x.v f.va.toNat l) (f.ty.bits * (f.md.toNat % 8)) f.ty.bits (f.md.getLsbD 3), 0))

/-- VBFX (R145). -/
def execVbfx (f : FmtVI) (s : State) :=
  s.vector (.vbfx f) 12 f.v.ms (fun x m => x.writeV m f.v.vd.toNat (fun l =>
    (bitField (x.v f.v.va.toNat l) (f.lit.extractLsb' 0 5).toNat ((f.lit.extractLsb' 8 5).toNat + 1) (f.lit.getLsbD 16), 0)))

/-! ### Scans (R146) -/

/-- Which of two codes a minimum or maximum gives: NaN wins, −0 lies below +0, and one ABSENT input gives the other
unchanged (R45, R149). -/
def floatPick (t : Ty) (hi : Bool) (a b : Nat) : Nat :=
  let va := t.value a
  let vb := t.value b
  if va = .absent then b
  else if vb = .absent then a
  else if va = .nan || vb = .nan then t.nanCode
  else
    let less (p q : XVal) : Bool := p.lt q || (p.isZero && q.isZero && p.neg? && !q.neg?)
    if hi then (if less va vb then b else a) else (if less vb va then b else a)

/-- A scan's result over some lanes' words, in lane order (R146). -/
def scanOf (t : Ty) (md : Nat) (mode : RMode) (l : List W32) : W32 × Flags :=
  let cs := l.map BitVec.toNat
  if md < 2 then
    match t with
    | .n32 | .s32 | .b32 => (l.foldl (· + ·) 0, 0)
    | .f32 =>
      let ps := (cs.map Ty.f32.value).filter XVal.present
      if ps.isEmpty then (0xFFFFFFFF, 0)
      else
        let r := sumX mode ps
        let d := deliver .f32 mode r.1
        (BitVec.ofNat 32 d.1, r.2 ||| d.2)
    | t =>
      let ps := cs.filter (fun c => !isAbs t c)
      if ps.isEmpty then (BitVec.ofNat 32 (t.absentCode.getD 0), 0)
      else
        let r := saturate t ((ps.map (elemInt t)).foldl (· + ·) 0)
        (BitVec.ofNat 32 r.1, r.2)
  else
    match cs with
    | [] => (0, 0)
    | c :: cs =>
      if t = .f32 then
        let r := cs.foldl (floatPick t (md = 2)) c
        (BitVec.ofNat 32 (if t.value r = .nan then t.nanCode else r), 0)
      else (BitVec.ofNat 32 (cs.foldl (intPick t (md = 2)) c), 0)

/-- VSCAN (R146). -/
def execVscan (f : FmtV) (s : State) :=
  s.vector (.vscan f) 8 f.ms (fun x m => x.writeV m f.vd.toNat (fun l =>
    scanOf f.ty f.md.toNat (x.mode f.rm)
      (((lanesOf m).filter (fun k => if f.md = 1 then decide (k < l) else decide (k ≤ l))).map (fun k => x.v f.va.toNat k))))

/-! ### Row maps (R147) -/

/-- The lowest row that contains a position, with its pointer. -/
def rowOf (p : Nat → Nat) (rc e : Nat) : Option Nat := (List.range rc).find? (fun r => decide (p r ≤ e) && decide (e < p (r + 1)))

/-- VROWMAP (R147). -/
def execVrowmap (f : FmtV) (s : State) :=
  s.vector (.vrowmap f) 8 f.ms (fun x m =>
    let base := x.s f.vb.toNat
    let rc0 := (x.s f.vc.toNat).toNat
    let rc := min rc0 (x.g.width - 1)
    let p : Nat → Nat := fun r => (x.v f.va.toNat r).toNat
    let bad := decide (x.g.width - 1 < rc0) || (List.range rc).any (fun r => decide (p (r + 1) < p r))
    (x.writeV m f.vd.toNat (fun l =>
      let e := (base + BitVec.ofNat 32 l).toNat
      (match rowOf p rc e with
        | some r => BitVec.ofNat 32 (if f.md = 0 then r else e - p r)
        | none => 0xFFFFFFFF, 0))).raiseFlags (if bad then fRP else 0))

end Sys2Proof.Machine
end

