-- ==== Sys2Proof/Machine/VecFloat.lean ====
section
/-! DEFINITION. Class 3: element-wise floating point (R148 to R155). -/

namespace Sys2Proof.Machine

/-! ### Elements (R45 to R49, R148) -/

/-- Deliver a result value, with the flags of the exact step and of the rounding. -/
def give (t : Ty) (mode : RMode) (r : XVal × Flags) : Nat × Flags :=
  let d := deliver t mode r.1
  (d.1, r.2 ||| d.2)

/-- The exact sum of two values, ABSENT if either is (R45). -/
def addX (mode : RMode) (a b : XVal) : XVal × Flags :=
  if a.present && b.present then sumX mode [a, b] else (.absent, 0)

/-- A two-operand element: round(op(a, b)). -/
def floatBin (t : Ty) (mode : RMode) (op : XVal → XVal → XVal × Flags) (a b : Nat) : Nat × Flags :=
  give t mode (op (t.value a) (t.value b))

/-- A fused multiply-add element, the product negated or not (R45, R148). -/
def floatFma (t : Ty) (mode : RMode) (neg : Bool) (a b c : Nat) : Nat × Flags :=
  let p := (t.value a).mul (t.value b)
  if p.1 = .absent then (c, 0)
  else
    let q := if neg then p.1.negate else p.1
    let s := if (t.value c).present then sumX mode [q, t.value c] else (q, 0)
    give t mode (s.1, p.2 ||| s.2)

/-- A square root element (R148). -/
def floatSqrt (t : Ty) (mode : RMode) (a : Nat) : Nat × Flags :=
  match t.value a with
  | .absent => give t mode (.absent, 0)
  | .nan => give t mode (.nan, 0)
  | .inf s => give t mode (if s then (.nan, fIV) else (.inf false, 0))
  | .num s n d e =>
    if n = 0 then give t mode (.zero s, 0)
    else if s then give t mode (.nan, fIV)
    else give t mode (sqrtX (n / d) e, 0)

/-- The sign of an element cleared or inverted; NaN becomes canonical and ABSENT stays (R37, R148). -/
def floatSign (t : Ty) (inv : Bool) (a : Nat) : Nat :=
  match t.value a with
  | .absent => a
  | .nan => t.nanCode
  | _ => if inv then a ^^^ 2 ^ (t.bits - 1) else a % 2 ^ (t.bits - 1)

/-- VFADD (R148). -/
def execVfadd (f : FmtV) (s : State) :=
  s.vecV (.vfadd f) f (fun x l => map2 f.ty (floatBin f.ty (x.mode f.rm) (addX (x.mode f.rm))) (x.v f.va.toNat l) (x.opB f l))
/-- VFSUB (R148). -/
def execVfsub (f : FmtV) (s : State) :=
  s.vecV (.vfsub f) f (fun x l =>
    map2 f.ty (floatBin f.ty (x.mode f.rm) (fun a b => addX (x.mode f.rm) a b.negate)) (x.v f.va.toNat l) (x.opB f l))
/-- VFMUL (R148). -/
def execVfmul (f : FmtV) (s : State) :=
  s.vecV (.vfmul f) f (fun x l => map2 f.ty (floatBin f.ty (x.mode f.rm) XVal.mul) (x.v f.va.toNat l) (x.opB f l))
/-- VFDIV (R148). -/
def execVfdiv (f : FmtV) (s : State) :=
  s.vecV (.vfdiv f) f (fun x l => map2 f.ty (floatBin f.ty (x.mode f.rm) XVal.div) (x.v f.va.toNat l) (x.opB f l))
/-- VFMA (R148). -/
def execVfma (f : FmtV) (s : State) :=
  s.vecV (.vfma f) f (fun x l =>
    map3 f.ty (floatFma f.ty (x.mode f.rm) false) (x.v f.va.toNat l) (x.opB f l) (x.v f.vc.toNat l))
/-- VFMS (R148). -/
def execVfms (f : FmtV) (s : State) :=
  s.vecV (.vfms f) f (fun x l =>
    map3 f.ty (floatFma f.ty (x.mode f.rm) true) (x.v f.va.toNat l) (x.opB f l) (x.v f.vc.toNat l))
/-- VFSQRT (R148). -/
def execVfsqrt (f : FmtV) (s : State) :=
  s.vecV (.vfsqrt f) f (fun x l => map1 f.ty (floatSqrt f.ty (x.mode f.rm)) (x.v f.va.toNat l))
/-- VFABS (R148). -/
def execVfabs (f : FmtV) (s : State) :=
  s.vecV (.vfabs f) f (fun x l => map1 f.ty (fun a => (floatSign f.ty false a, 0)) (x.v f.va.toNat l))
/-- VFNEG (R148). -/
def execVfneg (f : FmtV) (s : State) :=
  s.vecV (.vfneg f) f (fun x l => map1 f.ty (fun a => (floatSign f.ty true a, 0)) (x.v f.va.toNat l))
/-- VFMIN (R149). -/
def execVfmin (f : FmtV) (s : State) :=
  s.vecV (.vfmin f) f (fun x l => map2 f.ty (fun a b => (floatPick f.ty false a b, 0)) (x.v f.va.toNat l) (x.opB f l))
/-- VFMAX (R149). -/
def execVfmax (f : FmtV) (s : State) :=
  s.vecV (.vfmax f) f (fun x l => map2 f.ty (fun a b => (floatPick f.ty true a b, 0)) (x.v f.va.toNat l) (x.opB f l))

/-- An element of VFADDA: ABSENT is the identity, the other input unchanged (R150). -/
def floatAdda (t : Ty) (mode : RMode) (a b : Nat) : Nat × Flags :=
  if !(t.value a).present then (b, 0)
  else if !(t.value b).present then (a, 0)
  else floatBin t mode (addX mode) a b

/-- VFADDA (R150). -/
def execVfadda (f : FmtV) (s : State) :=
  s.vecV (.vfadda f) f (fun x l => map2 f.ty (floatAdda f.ty (x.mode f.rm)) (x.v f.va.toNat l) (x.opB f l))

/-! ### The reduction of R47 -/

/-- The R47 reduction: the present terms with the flags their products raise, and the accumulator's code; with no present
term the accumulator is kept bit for bit. -/
def reduce (mode : RMode) (c : Option W32) (terms : List (XVal × Flags)) : W32 × Flags :=
  let s := terms.filter (fun t => t.1.present)
  if s.isEmpty then (c.getD 0xFFFFFFFF, 0)
  else
    let acc := match c with
      | some w => if (Ty.f32.value w.toNat).present then [Ty.f32.value w.toNat] else []
      | none => []
    let r := give .f32 mode (sumX mode (acc ++ s.map Prod.fst))
    (BitVec.ofNat 32 r.1, orFlags (s.map Prod.snd) ||| r.2)

/-- VFDOT2 (R151). -/
def execVfdot2 (f : FmtV) (s : State) :=
  s.vecV (.vfdot2 f) f (fun x l =>
    let a := (subs f.ty (x.v f.va.toNat l)).map f.ty.value
    let b := (subs f.ty (x.opB f l)).map f.ty.value
    reduce (x.mode f.rm) (some (x.v f.vc.toNat l)) (List.zipWith XVal.mul a b))

/-- A value times 2^n; exponents past any format's range act alike (R152). -/
def scaleX (n : Int) : XVal → XVal
  | .num s m d e => .num s m d (e + max (-4096) (min 4096 n))
  | v => v

/-- VFSCALE (R152). -/
def execVfscale (f : FmtV) (s : State) :=
  s.vecV (.vfscale f) f (fun x l =>
    map1 f.ty (fun a => deliver f.ty (x.mode f.rm) (scaleX (x.opB f l).toInt (f.ty.value a))) (x.v f.va.toNat l))

/-- An element rounded to an integral value; IX only in the `.x` form (R153). -/
def floatRnd (t : Ty) (mode : RMode) (flag : Bool) (a : Nat) : Nat × Flags :=
  match t.value a with
  | .num s n d e =>
    if n = 0 then (a, 0)
    else
      let r := roundAt mode s n d e 0
      ((deliver t .rne (.num s r.1 1 0)).1, if flag && r.2 then fIX else 0)
  | .nan => (t.nanCode, 0)
  | _ => (a, 0)

/-- VFRND (R153). -/
def execVfrnd (f : FmtV) (s : State) :=
  s.vecV (.vfrnd f) f (fun x l => map1 f.ty (floatRnd f.ty (x.mode f.rm) (f.md = 1)) (x.v f.va.toNat l))

/-- The eight predicates of VFCMP, with IV for an ordered one on a NaN (R154), the other input ABSENT or not (log entry
52). -/
def floatCmp (c : Nat) (a b : XVal) : Bool × Flags :=
  let uo := !a.present || !b.present || a = .nan || b = .nan
  let iv : Flags := if decide (2 ≤ c) && decide (c ≤ 5) && (a = .nan || b = .nan) then fIV else 0
  if uo then (c = 1 || c = 6, iv)
  else
    (match c with
      | 0 => a.eqv b
      | 1 => !a.eqv b
      | 2 => a.lt b
      | 3 => !b.lt a
      | 4 => b.lt a
      | 5 => !a.lt b
      | 6 => false
      | _ => true, 0)

/-- VFCMP (R154). -/
def execVfcmp (f : FmtV) (s : State) :=
  s.vecT (.vfcmp f) f (fun x l =>
    floatCmp f.md.toNat (Ty.f32.value (x.v f.va.toNat l).toNat) (Ty.f32.value (x.opB f l).toNat))

/-- The class mask of an element (R155). -/
def floatClass (t : Ty) (a : Nat) : Nat :=
  let neg := decide (2 ^ (t.bits - 1) ≤ a)
  match t.value a with
  | .absent => 2 ^ 9
  | .nan => 2 ^ 8
  | .inf s => if s then 1 else 2 ^ 7
  | .num _ n _ _ =>
    let sub := match t.floatFmt with
      | some g => decide (a % 2 ^ (t.bits - 1) < 2 ^ g.mb)
      | none => false
    if n = 0 then (if neg then 2 ^ 3 else 2 ^ 4)
    else if sub then (if neg then 2 ^ 2 else 2 ^ 5)
    else (if neg then 2 ^ 1 else 2 ^ 6)

/-- VFCLASS (R155). -/
def execVfclass (f : FmtV) (s : State) :=
  s.vecV (.vfclass f) f (fun x l => map1 f.ty (fun a => (floatClass f.ty a, 0)) (x.v f.va.toNat l))

end Sys2Proof.Machine
end

