-- ==== Sys2Proof/Machine/MemAccess.lean ====
section
/-! DEFINITION. Class 6 and QLD: loads, stores, fragments, atomics, the incumbent cell, handles and what they reach,
fences, cache control and discard (R165, R168 to R186). -/

namespace Sys2Proof.Machine

/-! ### Loads and stores (R171) -/

/-- LDG (R171). -/
def execLdg (f : FmtM) (s : State) :=
  s.access (.ldg f) 8 f.ms (fun e r d x act =>
    let n := widthBytes f.w
    loadGlobal e r.core d x f.ord f.scope n n (x.globalReqs f n act) (fun d x l =>
      Res.view d r.key ((x.putLanes f.vd.toNat (f.md = 1) l).next 8)))

/-- STG (R171, R173, R174). -/
def execStg (f : FmtM) (s : State) :=
  s.access (.stg f) 8 f.ms (fun e r d x act =>
    let n := widthBytes f.w
    storeGlobal e r.core d x f.ord f.scope n n
      ((x.globalReqs f n act).map (fun p => (p.1, p.2, x.regBytes f.vd.toNat p.1 n)))
      (fun d x => Res.view d r.key (x.next 8)))

/-- Lanes load from scratchpad offsets. -/
def loadSpad (r : SplitRef) (d : Device) (x : View) (f : FmtM) (sx : Bool) (n : Nat) (l : List (Nat × Nat)) : View :=
  let t := d.teamOf x.g
  let at_ (p : Nat × Nat) : Nat := t.spadAt r.core p.2
  (x.noteLoad (l.flatMap (fun p => spadLines (at_ p) n))).putLanes f.vd.toNat sx (l.map (fun p => (p.1, d.spadRead (at_ p) n)))

/-- Lanes store to scratchpad offsets in lane order: the highest-numbered lane's bytes stand (R173). -/
def storeSpad (r : SplitRef) (d : Device) (x : View) (f : FmtM) (n : Nat) (l : List (Nat × Nat)) : Device :=
  let t := d.teamOf x.g
  l.foldl (fun d p => d.spadWrite x.g.ctx (t.spadAt r.core p.2) (x.regBytes f.vd.toNat p.1 n)) d

/-- The checks of lanes' scratchpad addresses. -/
def Device.spadChecks (d : Device) (x : View) (n : Nat) (reqs : List (Nat × Int)) : Checked Nat :=
  sumChecks (reqs.map (fun p => (p.1, spadRun (d.teamOf x.g) n p.2)))

/-- LDS (R171). -/
def execLds (f : FmtM) (s : State) :=
  s.access (.lds f) 8 f.ms (fun _ r d x act =>
    let n := widthBytes f.w
    (d.spadChecks x n (x.spadReqs f n act)).run d x (fun l =>
      Res.view d r.key ((loadSpad r d x f (f.md = 1) n l).next 8)))

/-- STS (R171, R173). -/
def execSts (f : FmtM) (s : State) :=
  s.access (.sts f) 8 f.ms (fun _ r d x act =>
    let n := widthBytes f.w
    (d.spadChecks x n (x.spadReqs f n act)).run d x (fun l =>
      d.writeGate x (fun _ => Res.view (storeSpad r d x f n l) r.key (x.counted.next 8))))

/-! ### Modulo addressing (R172) -/

/-- A modulo descriptor is valid (R25). -/
def wValid (t : Team) (base size : Nat) : Bool :=
  decide (base % 16 = 0) && decide (size % 16 = 0) && decide (size ≠ 0) && decide (base + size ≤ t.spSize)

/-- The lanes' offsets through wK. -/
def View.moduloReqs (x : View) (f : FmtM) (base size n : Nat) (act : Mask) : List (Nat × Int) :=
  (lanesOf act).map (fun l => (l, base + x.laneAddr f (x.s f.sa.toNat).toNat n l % size))

/-- The post-increment of sA (R172). -/
def View.moduloStep (x : View) (f : FmtM) (size n : Nat) : View :=
  if f.md.getLsbD 3 then
    x.setS f.sa.toNat (BitVec.ofNat 32 (((x.s f.sa.toNat).toNat + n * x.g.width) % size))
  else x

/-- Modulo addressing around an access (R172). -/
def State.modulo (s : State) (i : Instr) (f : FmtM) (go : SplitRef → Device → View → Nat → List (Nat × Nat) → (View → View) → Res) :
    Host.Outcome State Fault Refusal :=
  s.access i 8 f.ms (fun _ r d x act =>
    let n := widthBytes f.w
    let k := (f.md.extractLsb' 0 3).toNat
    let base := (x.g.wBase.get k).toNat
    let size := (x.g.wSize.get k).toNat
    if !wValid (d.teamOf x.g) base size then everyLane x act 0x11 0 d
    else (d.spadChecks x n (x.moduloReqs f base size n act)).run d x (fun l =>
      go r d x n l (fun y => (y.moduloStep f size n).next 8)))

/-- LDSM (R172). -/
def execLdsm (f : FmtM) (s : State) :=
  s.modulo (.ldsm f) f (fun r d x n l fin => Res.view d r.key (fin (loadSpad r d x f false n l)))

/-- STSM (R172, R173). -/
def execStsm (f : FmtM) (s : State) :=
  s.modulo (.stsm f) f (fun r d x n l fin =>
    d.writeGate x (fun _ => Res.view (storeSpad r d x f n l) r.key (fin x.counted)))

/-! ### Uniform and fragment loads (R175, R176) -/

/-- LDU (R175). -/
def execLdu (f : FmtM) (s : State) :=
  s.access (.ldu f) 8 f.ms (fun e r d x act =>
    let n := widthBytes f.w
    let a : Int := (x.pair f.sa.toNat).toNat + f.off.toInt * n
    Res.uniform (loadGlobal e r.core d x f.ord f.scope n n [(lowLane act, a)] (fun d x l =>
      let v := bytesToNat ((l.map Prod.snd).headD [])
      let y := if f.w = .w64 then x.setPair f.vd.toNat (BitVec.ofNat 64 v) else x.setS f.vd.toNat (BitVec.ofNat 32 v)
      Res.view d r.key (y.next 8))))

/-- STSC (R174, R175). -/
def execStsc (f : FmtM) (s : State) :=
  s.access (.stsc f) 8 f.ms (fun e r d x act =>
    let n := widthBytes f.w
    let a : Int := (x.pair f.sa.toNat).toNat + f.off.toInt * n
    let v := if f.w = .w64 then (x.pair f.vd.toNat).toNat else (x.s f.vd.toNat).toNat
    Res.uniform (storeGlobal e r.core d x f.ord f.scope n n [(lowLane act, a, natToBytes n v)]
      (fun d x => Res.view d r.key (x.next 8))))

/-- Where a lane's part of a fragment lies (R176). -/
def fragAddr (f : FmtM) (base : Nat) (pitch : Nat) (lane : Nat) : Int :=
  let sl := if f.md.getLsbD 2 then 0 else lane / 32
  let j := lane % 32
  if f.md.getLsbD 0 then ((base + (32 * sl + j) * pitch : Nat) : Int) + f.off.toInt * 16
  else ((base + (8 * sl + j % 8) * pitch + j / 8 * 16 : Nat) : Int) + f.off.toInt * 16

/-- The checks of one lane's part of a fragment in scratchpad: a multiple of 16. -/
def spadRun16 (t : Team) (n : Nat) (a : Int) : Except Miss Nat :=
  if a % 16 ≠ 0 then .error (.fault 0x03 0 ((BitVec.ofInt 32 a).setWidth 64) [])
  else if a < 0 || decide ((t.spSize : Int) < a + n) then .error (.fault 0x11 0 ((BitVec.ofInt 32 a).setWidth 64) [])
  else .ok a.toNat

/-- LDFRAG (R176). -/
def execLdfrag (f : FmtM) (s : State) :=
  s.access (.ldfrag f) 8 f.ms (fun e r d x act =>
    let n := if f.md.getLsbD 0 then 64 else 16
    if f.md.getLsbD 3 then
      let reqs := (lanesOf act).map (fun l => (l, fragAddr f (x.s f.sa.toNat).toNat (x.s (f.sa.toNat + 1)).toNat l))
      (sumChecks (reqs.map (fun p => (p.1, spadRun16 (d.teamOf x.g) n p.2)))).run d x (fun l =>
        Res.view d r.key ((loadSpad r d x f false n l).next 8))
    else
      let reqs := (lanesOf act).map (fun l => (l, fragAddr f (x.pair f.sa.toNat).toNat (x.s (f.sa.toNat + 2)).toNat l))
      loadGlobal e r.core d x f.ord f.scope 16 n reqs (fun d x l =>
        Res.view d r.key ((x.putLanes f.vd.toNat false l).next 8)))

/-! ### Atomics (R177, R178) -/

/-- A code of f32 with a NaN made canonical. -/
def canonF32 (c : Nat) : Nat := if Ty.f32.value c = .nan then Ty.f32.nanCode else c

/-- The new memory value of an atomic on n bytes: operation, old value, operand, compare value (R177). -/
def atomicOp (op n m v c : Nat) : Nat :=
  let top := 2 ^ (8 * n)
  let sgn (a : Nat) : Int := if a < top / 2 then a else (a : Int) - top
  match op with
  | 0 => (m + v) % top
  | 1 => canonF32 (floatAdda .f32 .rne m v).1
  | 2 => min m v
  | 3 => if sgn m ≤ sgn v then m else v
  | 4 => canonF32 (floatPick .f32 false m v)
  | 5 => max m v
  | 6 => if sgn v ≤ sgn m then m else v
  | 7 => canonF32 (floatPick .f32 true m v)
  | 8 => m &&& v
  | 9 => m ||| v
  | 10 => m ^^^ v
  | 11 => v
  | 12 => if m = c then v else m
  | 13 => if v ≤ m then 0 else m + 1
  | _ =>
    if Ty.i32.value m = .absent then v
    else if Ty.i32.value v = .absent then m
    else (deliver .i32 .rne (sumX .rne [Ty.i32.value m, Ty.i32.value v]).1).1

/-- The atomics that the host link carries (R393). -/
def linkAtomic (op : Nat) : Bool := op = 0 || op = 11 || op = 12

/-- One lane's atomic at home: the device, and the old value. -/
def Device.atomicLane (d : Device) (ag : Agent) (ctx op n v c : Nat) (l : Run) : Device × Nat :=
  let d1 := l.foldl (fun d t => d.beforeAtomic ag t.1) (d.touchAll ag ctx .atomic l)
  let m := bytesToNat (l.flatMap (fun t => readBytes (d1.space t.1.space) t.1.pa t.2.1))
  (d1.storeRun l (natToBytes n (atomicOp op n m v c)), m)

/-- The lanes' atomics one after another: the device, and each lane's old value. -/
def Device.atomicLanes (d : Device) (ag : Agent) (ctx op n : Nat) : List (Nat × Run × Nat × Nat) → Device × List (Nat × List Byte)
  | [] => (d, [])
  | (lane, l, v, c) :: rest =>
    let r := d.atomicLane ag ctx op n v c l
    let q := r.1.atomicLanes ag ctx op n rest
    (q.1, (lane, natToBytes n r.2) :: q.2)

/-- The lanes' operand and compare values of an atomic. -/
def View.atomicArgs (x : View) (f : FmtMI) (n lane : Nat) : Nat × Nat :=
  (bytesToNat (x.regBytes f.vb.toNat lane n), bytesToNat (x.regBytes f.vc.toNat lane n))

/-- Before lanes' atomics leave the core: their pages are touched, its dirty sectors of their lines are written back, and the
lines leave its L1 (R230, R386). -/
def Device.leaveL1 (d : Device) (ag : Agent) (ctx : Nat) (l : List (Nat × Run)) : Device :=
  l.foldl (fun d p => p.2.foldl (fun d t => d.beforeAtomic ag t.1) (d.touchAll ag ctx .atomic p.2)) d

/-- Lanes perform atomics on global memory (R173, R178): the continuation gets the lanes' old values. -/
def atomicGlobal (e : Env) (core : Nat) (d : Device) (x : View) (f : FmtMI) (act : Mask)
    (fin : Device → View → List (Nat × List Byte) → Res) : Res :=
  let n := widthBytes f.m.w
  let op := f.m.md.toNat
  let ag := Agent.core core
  (sumChecks ((x.globalReqs f.m n act).map (fun p =>
    (p.1, d.laneRun e x.g.ctx ag .atomic (linkAtomic op) n n p.2)))).run d x (fun l =>
    d.writeGate x (fun _ =>
      let d0 := d.leaveL1 ag x.g.ctx l
      let bad := l.filter (fun p => d0.poisonRun ag p.2)
      if bad ≠ [] then .trap d0 x.sp { code := 0x0D, detail := 4, addr := d0.poisonFirst ag (bad.flatMap Prod.snd), lanes := maskOfLanes (bad.map Prod.fst) }
      else
        let q := (laneOrder e.tick (fun p => runKey p.2) l).map (fun p => (p.1, p.2, (x.atomicArgs f n p.1)))
        let r := (d0.order core f.m.ord f.m.scope).atomicLanes ag x.g.ctx op n (q.map (fun p => (p.1, p.2.1, p.2.2.1, p.2.2.2)))
        fin r.1 (x.counted.notePriv (l.any (fun p => runPriv p.2))) r.2))

/-- ATOMG (R177): SEALOP in a sealed task (R174). -/
def execAtomg (f : FmtMI) (s : State) :=
  s.access (.atomg f) 12 f.m.ms (fun e r d x act =>
    if x.g.sealBuf.isSome then everyLane x act 0x07 0 d
    else atomicGlobal e r.core d x f act (fun d x l => Res.view d r.key ((x.putLanes f.m.vd.toNat false l).next 12)))

/-- REDG (R177): deferred in a sealed task (R174), lanes that meet in an unspecified order (R173). -/
def execRedg (f : FmtMI) (s : State) :=
  s.access (.redg f) 12 f.m.ms (fun e r d x act =>
    match x.g.sealBuf with
    | none => atomicGlobal e r.core d x f act (fun d x _ => Res.view d r.key (x.next 12))
    | some b =>
      let n := widthBytes f.m.w
      let op := f.m.md.toNat
      let ag := Agent.core r.core
      (sumChecks ((x.globalReqs f.m n act).map (fun p =>
        (p.1, d.laneRun e x.g.ctx ag .atomic (linkAtomic op) n n p.2)))).run d x (fun l =>
        d.writeGate x (fun _ =>
          let d1 := l.foldl (fun d p => d.touchAll ag x.g.ctx .load p.2) d
          let b' := (laneOrder e.tick (fun p => runKey p.2) l).foldl (fun b p => b.push (.redg (runKey p.2) op (f.m.w = .w64)
            (BitVec.ofNat 64 (x.atomicArgs f n p.1).1)) 1) (b.notePages ag x.g.ctx f.m.ord f.m.scope (l.map Prod.snd))
          d1.sealTake r.core (x.counted.notePriv (l.any (fun p => runPriv p.2))) b b' (fun y => Res.view d1 r.key (y.next 12)))))

/-- One after another, lanes' atomics on scratchpad: the device and the old values. -/
def Device.spadAtomics (d : Device) (ctx op n : Nat) : List (Nat × Nat × Nat × Nat) → Device × List (Nat × List Byte)
  | [] => (d, [])
  | (lane, at_, v, c) :: rest =>
    let m := bytesToNat (d.spadRead at_ n)
    let q := (d.spadWrite ctx at_ (natToBytes n (atomicOp op n m v c))).spadAtomics ctx op n rest
    (q.1, (lane, natToBytes n m) :: q.2)

/-- ATOMS (R177, R178). -/
def execAtoms (f : FmtMI) (s : State) :=
  s.access (.atoms f) 12 f.m.ms (fun e r d x act =>
    let n := widthBytes f.m.w
    let t := d.teamOf x.g
    (d.spadChecks x n (x.spadReqs f.m n act)).run d x (fun l =>
      d.writeGate x (fun _ =>
        let q := (laneOrder e.tick Prod.snd l).map (fun p =>
          (p.1, t.spadAt r.core p.2, (x.atomicArgs f n p.1).1, (x.atomicArgs f n p.1).2))
        let o := d.spadAtomics x.g.ctx f.m.md.toNat n q
        Res.view o.1 r.key ((x.counted.putLanes f.m.vd.toNat false o.2).next 12))))

/-! ### The incumbent cell (R179) -/

/-- Rank of a score. -/
def scoreRank (c : Nat) : Nat := match Ty.f32.value c with
  | .absent => 0
  | .nan => 1
  | _ => 2

/-- A candidate replaces the cell. -/
def beats (new old : Nat) : Bool :=
  Ty.f32.value new ≠ .nan &&
    (decide (scoreRank old < scoreRank new) ||
      (scoreRank new = 2 && scoreRank old = 2 && (Ty.f32.value old).lt (Ty.f32.value new)))

/-- One candidate offered to a cell of a space. -/
def Device.offer (d : Device) (t : Space) (pa cell : Nat) : Device :=
  let old := bytesToNat (readBytes (d.space t) pa 16)
  if beats (cell % 2 ^ 32) (old % 2 ^ 32) then d.store t pa (natToBytes 16 cell) else d

/-- BESTMAX (R179): deferred in a sealed task (R174), lanes that meet in an unspecified order (R173). -/
def execBestmax (f : FmtM) (s : State) :=
  s.access (.bestmax f) 8 f.ms (fun e r d x act =>
    let ag := Agent.core r.core
    (sumChecks ((x.globalReqs f 16 act).map (fun p =>
      (p.1, d.laneRun e x.g.ctx ag .atomic false 16 16 p.2)))).run d x (fun l =>
      d.writeGate x (fun _ =>
        let cell (lane : Nat) : Nat := bytesToNat (x.regBytes f.vd.toNat lane 16)
        let y := x.counted.notePriv (l.any (fun p => runPriv p.2))
        match x.g.sealBuf with
        | some b =>
          let d1 := l.foldl (fun d p => d.touchAll ag x.g.ctx .load p.2) d
          let b' := (laneOrder e.tick (fun p => runKey p.2) l).foldl (fun b p => b.push (.bestmax (runKey p.2) (BitVec.ofNat 128 (cell p.1))) 1)
            (b.notePages ag x.g.ctx f.ord f.scope (l.map Prod.snd))
          d1.sealTake r.core y b b' (fun y => Res.view d1 r.key (y.next 8))
        | none =>
          let d0 := d.leaveL1 ag x.g.ctx l
          let bad := l.filter (fun p => d0.poisonRun ag p.2)
          if bad ≠ [] then .trap d0 x.sp { code := 0x0D, detail := 4, addr := d0.poisonFirst ag (bad.flatMap Prod.snd), lanes := maskOfLanes (bad.map Prod.fst) }
          else
            let d2 := (laneOrder e.tick (fun p => runKey p.2) l).foldl (fun d p =>
              p.2.foldl (fun d t => (d.beforeAtomic ag t.1).offer t.1.space t.1.pa (cell p.1)) d)
              (d0.order r.core (if isRel f.ord then .rel else .plain) f.scope)
            Res.view d2 r.key (y.next 8))))

/-! ### Handles and codebooks (R165, R180) -/

/-- The address of a 32-byte descriptor (R165, R180). -/
def View.descAddr (x : View) (f : FmtM) : Int := (x.pair f.sa.toNat).toNat + f.off.toInt * 32

/-- A comb handle's reserved bits are loaded as zero (R180). -/
def handleOf (v : BitVec 256) : BitVec 256 := if v.getLsbD 57 then v &&& ~~~(((2 ^ 47 - 1) * 2 ^ 10 : Nat) : BitVec 256) else v

/-- HLD (R180). -/
def execHld (f : FmtM) (s : State) :=
  s.access (.hld f) 8 f.ms (fun e r d x act =>
    Res.uniform (loadGlobal e r.core d x f.ord f.scope 32 32 [(lowLane act, x.descAddr f)] (fun d x l =>
      let v := handleOf (BitVec.ofNat 256 (bytesToNat ((l.map Prod.snd).headD [])))
      Res.view d r.key ({ x with g := { x.g with h := x.g.h.set f.md.toNat v } }.next 8))))

/-- QLD (R165): it acts at once in a sealed task, with no buffered store over what it reads (R174). -/
def execQld (f : FmtM) (s : State) :=
  s.access (.qld f) 8 f.ms (fun e r d x act =>
    Res.uniform (loadGlobal e r.core d { x with g := { x.g with sealBuf := none } } f.ord f.scope 32 32
      [(lowLane act, x.descAddr f)] (fun d y l =>
      let v := BitVec.ofNat 256 (bytesToNat ((l.map Prod.snd).headD []))
      Res.view d r.key ({ y with g := { y.g with sealBuf := x.g.sealBuf, q := x.g.q.set f.md.toNat v } }.next 8))))

/-! ### Elements at a coordinate (R24, R181) -/

/-- A dense handle's fields (R23). -/
structure Dense where
  base : Nat
  fmt : Ty
  rank : Nat
  extent : List Nat
  stride : List Int
  deriving DecidableEq, Repr

/-- A dense handle; none when FMT is 0xF (R24). -/
def denseOf (h : BitVec 256) : Option Dense :=
  (Ty.ofCode (h.extractLsb' 60 4).toNat).map (fun fmt =>
    { base := (h.extractLsb' 0 57).toNat, fmt, rank := (h.extractLsb' 58 2).toNat + 1
      extent := (List.range 4).map (fun k => (h.extractLsb' (64 + 24 * k) 24).toNat)
      stride := 1 :: (List.range 3).map (fun k => (h.extractLsb' (160 + 32 * k) 32).toInt) })

/-- The coordinates a lane holds in VX to VX+3. -/
def View.coord (x : View) (f : FmtM) (lane : Nat) : List Nat := (List.range 4).map (fun k => (x.v (f.vx.toNat + k) lane).toNat)

/-- A coordinate lies in the extents. -/
def Dense.inside (h : Dense) (c : List Nat) : Bool := (List.range h.rank).all (fun k => decide (c.getD k 0 < h.extent.getD k 0))

/-- The linear index of a coordinate. -/
def Dense.linear (h : Dense) (c : List Nat) : Int :=
  (List.range h.rank).foldl (fun a k => a + (c.getD k 0 : Int) * h.stride.getD k 0) 0

/-- Bits an access of a width moves. -/
def widthBits (w : Width) : Nat := 8 * widthBytes w

/-- One lane's address through a dense handle: at 4 bits a linear index must be even. -/
def Dense.at_ (h : Dense) (c : List Nat) : Except Miss Int :=
  let i := h.linear c
  let a : Int := h.base + (i * h.fmt.bits) / 8
  if h.fmt.bits = 4 && i % 2 ≠ 0 then .error (.fault 0x03 0 (BitVec.ofInt 64 a) []) else .ok a

/-- What a handle names for TLD and TST: nothing usable, a dense tensor, or a region. -/
inductive Target
  | bad
  | dense (h : Dense)
  | comb (r : Region)
  deriving DecidableEq, Repr

/-- The target of a handle, checked for a width and for the lanes' coordinates (R24, R181). -/
def Device.target (d : Device) (x : View) (k : Nat) (w : Width) (coords : List (List Nat)) : Target :=
  let h := x.g.h.get k
  if h.getLsbD 57 then
    match d.region x.g.ctx (h.extractLsb' 0 10).toNat with
    | none => .bad
    | some r =>
      if widthBits w = r.cover && coords.all (fun c => (List.range r.rank).all (fun k => decide (c.getD k 0 < 2 ^ r.e))) then .comb r
      else .bad
  else
    match denseOf h with
    | none => .bad
    | some t => if widthBits w = max 8 t.fmt.bits && coords.all t.inside then .dense t else .bad

/-- A comb operation's error as a lane meets it (R330, R333). -/
def CombErr.lane (r : Region) : CombErr → LaneErr
  | .miss m => m.lane
  | .full ts => .fault 0x0A r.pool 0 ts
  | .malformed a ts => .fault 0x11 3 a ts

/-- An operation on a region as a lane performs it. -/
def asLane {α : Type} (r : Region) : Except CombErr α → Except LaneErr α
  | .ok a => .ok a
  | .error x => .error (x.lane r)

/-- TLD (R181): from a dense tensor as a load, from a region at its comb unit. -/
def execTld (f : FmtM) (s : State) :=
  s.access (.tld f) 8 f.ms (fun e r d x act =>
    let n := widthBytes f.w
    let lanes := lanesOf act
    match d.target x f.md.toNat f.w (lanes.map (x.coord f)) with
    | .bad => everyLane x act 0x11 0 d
    | .dense t =>
      let ag := Agent.core r.core
      (sumChecks (lanes.map (fun l => (l, (t.at_ (x.coord f l)).bind
        (fun a => d.laneRun e x.g.ctx ag .load true n n a))))).run d x (fun l =>
        (d.order r.core (if isAcq f.ord then .acq else .plain) f.scope).loadLanes r.core x l (fun d x l =>
          Res.view d r.key ((x.putLanes f.vd.toNat false l).next 8)))
    | .comb g =>
      let d0 := d.order r.core (if isAcq f.ord then .acq else .plain) f.scope
      match eachLane (fun d (k : Nat) => asLane g (d.combGet e x.g.ctx g k)) (lanes.map (fun l => (l, g.key (x.coord f l)))) d0 with
      | .error w => .delay w
      | .ok (d1, vs, fs) =>
        match worstTrap fs with
        | some t => .trap (d.retouch d1.touches) x.sp t
        | none =>
          let miss := if f.off = 1 then g.absent else 0
          Res.view d1 r.key ((x.putLanes f.vd.toNat false (vs.map (fun p => (p.1, natToBytes n (p.2.getD miss))))).next 8))

/-- TST (R181): to a dense tensor as a store, to a region at its comb unit; SEALOP on a region in a sealed task (R174). -/
def execTst (f : FmtM) (s : State) :=
  s.access (.tst f) 8 f.ms (fun e r d x act =>
    let n := widthBytes f.w
    let lanes := lanesOf act
    if x.g.sealBuf.isSome && (x.g.h.get f.md.toNat).getLsbD 57 then everyLane x act 0x07 0 d
    else match d.target x f.md.toNat f.w (lanes.map (x.coord f)) with
    | .bad => everyLane x act 0x11 0 d
    | .dense t =>
      match worstTrap (faultsOf (lanes.map (fun l => (l, (t.at_ (x.coord f l)).bind
          (fun a => d.laneRun e x.g.ctx (Agent.core r.core) .store true n n a))))) with
      | some t => .trap d x.sp t
      | none =>
        storeGlobal e r.core d x f.ord f.scope n n
          (lanes.map (fun l => (l, t.base + (t.linear (x.coord f l) * t.fmt.bits) / 8, x.regBytes f.vd.toNat l n)))
          (fun d x => Res.view d r.key (x.next 8))
    | .comb g =>
      d.writeGate x (fun _ =>
        let reqs := (lanes.map (fun l => (l, g.key (x.coord f l), bytesToNat (x.regBytes f.vd.toNat l n) % 2 ^ (8 * g.vw))))
        match eachLane (fun d (p : Nat × Nat) => asLane g ((d.combStore e x.g.ctx g p.1 p.2).map (fun d => (d, ()))))
            (anyOrder e.tick reqs) (d.order r.core (if isRel f.ord then .rel else .plain) f.scope) with
        | .error w => .delay w
        | .ok (d1, _, fs) =>
          match worstTrap fs with
          | some t => .trap (d1.commit r.key x.counted) x.sp t
          | none => Res.view d1 r.key (x.counted.next 8)))

/-! ### Traversal and counting (R182, R183) -/

/-- The region a comb handle names. -/
def Device.combOf (d : Device) (x : View) (k : Nat) : Option Region :=
  let h := x.g.h.get k
  if h.getLsbD 57 then d.region x.g.ctx (h.extractLsb' 0 10).toNat else none

/-- One lane's CITER: the registers after its step (R182). -/
def iterate (f : FmtMI) (g : Group) (lane : Nat) (r : Option (Nat × Nat)) : Group :=
  let vd := f.m.vd.toNat
  let vb := f.vb.toNat
  match r with
  | none => (g.setV (vd + 4) lane 0).setV (vb + 2) lane 1
  | some (k, v) =>
    let g1 := ((g.setVpair vd lane (BitVec.ofNat 64 k)).setVpair (vd + 2) lane (BitVec.ofNat 64 v)).setV (vd + 4) lane 1
    if k = 2 ^ 64 - 1 then g1.setV (vb + 2) lane 1 else g1.setVpair vb lane (BitVec.ofNat 64 (k + 1))

/-- CITER (R182, R331). -/
def execCiter (f : FmtMI) (s : State) :=
  s.access (.citer f) 12 f.m.ms (fun e r d x act =>
    match d.combOf x f.m.md.toNat with
    | none => everyLane x act 0x11 0 d
    | some g =>
      let lanes := lanesOf act
      let isOver (l : Nat) : Bool := (x.v (f.vb.toNat + 2) l).getLsbD 0
      let d0 := d.order r.core (if isAcq f.m.ord then .acq else .plain) f.m.scope
      match eachLane (fun d (k : Nat) => asLane g (d.combSeek e x.g.ctx g k))
          ((lanes.filter (fun l => !isOver l)).map (fun l => (l, (x.g.vpair f.vb.toNat l).toNat))) d0 with
      | .error w => .delay w
      | .ok (d1, vs, fs) =>
        match worstTrap fs with
        | some t => .trap (d.retouch d1.touches) x.sp t
        | none =>
          let g1 := (lanes.filter isOver).foldl (fun g l => g.setV (f.m.vd.toNat + 4) l 0) x.g
          let g2 := vs.foldl (fun g p => iterate f g p.1 p.2) g1
          Res.view d1 r.key ({ x with g := g2 }.next 12))

/-- CCOUNT (R183). -/
def execCcount (f : FmtM) (s : State) :=
  s.access (.ccount f) 8 f.ms (fun _ r d x act =>
    match d.combOf x f.md.toNat with
    | none => everyLane x act 0x11 0 d
    | some g => Res.view d r.key ((x.setPair f.vd.toNat (d.comb x.g.ctx g.id).nent).next 8))

/-! ### Fences, cache control, discard (R184 to R186) -/

/-- FENCE (R184, R249, R251). -/
def execFence (f : FmtM) (s : State) :=
  s.access (.fence f) 8 f.ms (fun _ r d x _ => Res.view (d.order r.core f.ord f.scope) r.key (x.next 8))

/-- A core's .iinv of a line covers an old word of it, which goes when every core's has (R60). -/
def OldWord.covered (core line : Nat) (o : OldWord) : Option OldWord :=
  if o.key / 32 ≠ line || o.gone.contains core then some o
  else if o.gone.length = 63 then none
  else some { o with gone := core :: o.gone }

/-- What CACHE does to the line at a translated address (R185). -/
def Device.cacheLine (d : Device) (core op : Nat) (x : Xlate) : Device :=
  let here : L1Sector → Bool := fun s => s.core = core && s.pa / 8 = x.pa / 128
  match op with
  | 0 => d
  | 1 => d.fillAt (Agent.core core) { x with pa := x.pa / 128 * 128 } 128
  | 2 => if x.space = .dev then d.l1Clean here (fun _ => false) else d
  | 3 => if x.space = .dev then d.l1Evict { core, line := x.pa / 128, urgent := none } else d
  | _ => { d with
      icache := d.icache.filter (fun c => !(c.core = core && c.line = lineKey x.space x.pa))
      old := d.old.filterMap (OldWord.covered core (lineKey x.space x.pa)) }

/-- CACHE (R185): a line whose address fails a check is skipped; one that lies, or whose walk needs a line, on a channel that is
not ready waits for it (R415); every operation asks its page for R (log entry 16). -/
def execCache (f : FmtM) (s : State) :=
  s.access (.cache f) 8 f.ms (fun e r d x act =>
    let ag := Agent.core r.core
    let lines := (x.globalReqs f 1 act).map (fun p => d.laneRun e x.g.ctx ag .load true 1 1 p.2)
    if lines.any (fun l => match l with
      | .error .channel => true
      | _ => false) then .stall .channel
    else
      let d1 := lines.foldl (fun d p =>
        match p with
        | .ok l => l.foldl (fun d t => d.cacheLine r.core f.md.toNat t.1) (d.touchAll ag x.g.ctx .load l)
        | .error _ => d) d
      Res.view d1 r.key (x.next 8))

/-- Discard a granule of device memory: no cache keeps it, it reads zero, its poison is gone, and watchers of its lines are
told (R186, R396). -/
def Device.discard (d : Device) (pa : Nat) : Device :=
  let d1 := { d with
    l1 := d.l1.filter (fun s => s.pa / 256 ≠ pa / 4096)
    l1Lines := d.l1Lines.filter (fun y => y.line / 32 ≠ pa / 4096)
    mem := d.mem.filter (fun c => c.1 / 4096 ≠ pa / 4096)
    poison := d.poison.filter (fun c => c.1 / 256 ≠ pa / 4096) }
  (List.range 32).foldl (fun d k =>
    d.tell (lineKey .dev (pa + 128 * k))) d1

/-- DISC (R186, R396): SEALOP in a sealed task (R174). -/
def execDisc (f : FmtM) (s : State) :=
  s.access (.disc f) 8 f.ms (fun e r d x act =>
    if x.g.sealBuf.isSome then everyLane x act 0x07 0 d
    else
      (sumChecks ((x.globalReqs f 1 act).map (fun p =>
        (p.1, d.laneRun e x.g.ctx (Agent.core r.core) .store false 4096 4096 p.2)))).run d x (fun l =>
        d.writeGate x (fun _ =>
          let d1 := l.foldl (fun d p => p.2.foldl (fun d t => d.discard t.1.pa) d) d
          Res.view d1 r.key ((x.counted.notePriv (l.any (fun p => runPriv p.2))).next 8))))

end Sys2Proof.Machine
end

