-- ==== Sys2Proof/Machine/Packets.lean ====
section
/-! DEFINITION. Command queues and the packets they hold (R368, R369): finding and changing one. -/

namespace Sys2Proof.Machine

/-- A queue of a context that is not FREE. -/
def Device.queue (d : Device) (ctx q : Nat) : Option CQueue := (d.ctxs.get ctx).bind (fun c => c.queues.get q)

/-- Change a queue. -/
def Device.updQueue (d : Device) (ctx q : Nat) (f : CQueue → CQueue) : Device :=
  d.updCtx ctx (fun c => { c with queues := c.queues.upd q f })

/-- A packet of a queue that is read and not finished, by its number. -/
def Device.packet (d : Device) (ctx q n : Nat) : Option Packet :=
  (d.queue ctx q).bind (fun c => c.pkts.find? (fun p => p.n = n))

/-- Change a packet. -/
def Device.updPacket (d : Device) (ctx q n : Nat) (f : Packet → Packet) : Device :=
  d.updQueue ctx q (fun c => { c with pkts := c.pkts.map (fun p => if p.n = n then f p else p) })

/-- The packet that started some work will be decremented with FAULTED, its own work or a node's (R370, R378); the node
notes it. -/
def Device.sourceFault (d : Device) (s : Source) : Device :=
  d.updPacket s.ctx s.q s.n (fun p => { p with
    faulted := true
    work := match p.work, s.node with
      | .graph g, some i => .graph { g with node := g.node.upd i (fun t => { t with faulted := true }) }
      | w, _ => w })

/-- Teams of a grid. -/
def Launch.total (l : Launch) : Nat := l.grid.1 * l.grid.2.1 * l.grid.2.2

/-- The head team of a launch: its index and how often it has been placed again. -/
def Launch.head (l : Launch) : Option (Nat × Nat) :=
  if l.abandoned then none
  else
    match l.again with
    | p :: _ => some p
    | [] => if l.next < l.total then some (l.next, 0) else none

end Sys2Proof.Machine
end

