-- ==== Sys2Proof/Decode.lean ====
section
/-! DEFINITION. The decoder of R58 to R78: from the words of an instruction to an instruction, total, with every pattern
that is no instruction rejected under a name; after it the encoder, from the same tables. -/

namespace Sys2Proof

/-- The ten formats (R64). -/
inductive Fmt | S | SI | V | VI | M | MI | X | B | W | T
  deriving DecidableEq, Repr

/-- The LEN code of a format (R58, R64): its length in words minus 1. -/
def Fmt.len : Fmt → Nat
  | .S => 0
  | .V | .M | .X | .B | .T => 1
  | .SI | .VI | .MI | .W => 2

/-- Why a pattern is no instruction (R61, steps 1 to 6). -/
inductive Reject
  /-- The words end before the instruction does. -/
  | short
  /-- LEN is 0b11 (step 1). -/
  | badLength
  /-- The opcode is not assigned (step 2). -/
  | unassigned
  /-- LEN is not the length of the opcode's format (step 3). -/
  | wrongLength
  /-- A reserved bit is set, or a code names nothing (steps 4 and 5). -/
  | reserved
  /-- A field holds a value the instruction does not accept (steps 4 to 6). -/
  | badField
  deriving DecidableEq, Repr

/-- The format of an opcode; none for an unassigned one (R78). -/
def opFormat : Nat → Option Fmt
  | 0x00 | 0x01 | 0x03 | 0x04 | 0x05 | 0x06 | 0x07 | 0x08 | 0x09 | 0x0A | 0x0B | 0x0C | 0x0D | 0x0E
  | 0x0F | 0x10 | 0x11 | 0x12 | 0x15 | 0x16 | 0x17 | 0x18 | 0x1B | 0x1C | 0x1D | 0x1E | 0x25 | 0x27
  | 0x28 | 0x29 | 0x2A | 0x2B | 0x2C | 0x2F | 0x31 => some .S
  | 0x02 | 0x13 | 0x19 | 0x1A | 0x2D | 0x2E => some .SI
  | 0x20 | 0x21 | 0x22 | 0x24 | 0x26 => some .B
  | 0x23 => some .W
  | 0x40 | 0x42 | 0x43 | 0x44 | 0x45 | 0x46 | 0x47 | 0x48 | 0x49 | 0x4A | 0x4B | 0x4C | 0x4D | 0x4E
  | 0x4F | 0x50 | 0x51 | 0x52 | 0x53 | 0x54 | 0x55 | 0x56 | 0x57 | 0x58 | 0x59 | 0x5A | 0x5B | 0x5D
  | 0x60 | 0x61 | 0x62 | 0x63 | 0x64 | 0x65 | 0x66 | 0x67 | 0x68 | 0x69 | 0x6A | 0x6B | 0x6C | 0x6D
  | 0x6E | 0x6F | 0x70 | 0x80 | 0x81 | 0x82 | 0x83 | 0x84 | 0x85 | 0x86 | 0x87 | 0x88 | 0x89 | 0x8A
  | 0x8B | 0x8D | 0x8E | 0xA5 | 0xA6 | 0xA7 | 0xA9 => some .V
  | 0x41 | 0x5C => some .VI
  | 0x8C | 0xC0 | 0xC1 | 0xC2 | 0xC3 | 0xC4 | 0xC5 | 0xC6 | 0xC7 | 0xC8 | 0xCC | 0xCD | 0xCE | 0xCF
  | 0xD1 | 0xD2 | 0xD3 | 0xD4 => some .M
  | 0xA0 | 0xA1 | 0xA2 | 0xA3 | 0xA4 => some .X
  | 0xC9 | 0xCA | 0xCB | 0xD0 => some .MI
  | 0xE0 | 0xE1 | 0xE2 | 0xE3 | 0xE4 | 0xE5 | 0xE6 | 0xE7 | 0xE8 | 0xE9 | 0xEA | 0xEB | 0xEC | 0xEF
  | 0xF0 | 0xF1 | 0xF2 | 0xF3 | 0xF4 | 0xF5 | 0xF6 | 0xF7 | 0xF8 | 0xF9 | 0xFA | 0xFB | 0xFC | 0xFD => some .T
  | _ => none

/-- The instructions of format SI by opcode (R78). -/
def ctorSI : Nat → Option (FmtSI → Instr)
  | 0x02 => some .sli
  | 0x13 => some .scmp
  | 0x19 => some .sbfx
  | 0x1A => some .sbfi
  | 0x2D => some .smovr
  | 0x2E => some .smovw
  | _ => none

/-- The instructions of format V by opcode (R78). -/
def ctorV : Nat → Option (FmtV → Instr)
  | 0x40 => some .vmov
  | 0x42 => some .vadd
  | 0x43 => some .vsub
  | 0x44 => some .vmul
  | 0x45 => some .vmulh
  | 0x46 => some .vmad
  | 0x47 => some .vand
  | 0x48 => some .vor
  | 0x49 => some .vxor
  | 0x4A => some .vandn
  | 0x4B => some .vshl
  | 0x4C => some .vshr
  | 0x4D => some .vsar
  | 0x4E => some .vmin
  | 0x4F => some .vmax
  | 0x50 => some .vabs
  | 0x51 => some .vcmp
  | 0x52 => some .vsel
  | 0x53 => some .vpopc
  | 0x54 => some .vclz
  | 0x55 => some .vshuf
  | 0x56 => some .vbcst
  | 0x57 => some .vlane
  | 0x58 => some .vscan
  | 0x59 => some .vrowmap
  | 0x5A => some .vpack
  | 0x5B => some .vunpk
  | 0x5D => some .vv2s
  | 0x60 => some .vfadd
  | 0x61 => some .vfsub
  | 0x62 => some .vfmul
  | 0x63 => some .vfma
  | 0x64 => some .vfms
  | 0x65 => some .vfmin
  | 0x66 => some .vfmax
  | 0x67 => some .vfabs
  | 0x68 => some .vfneg
  | 0x69 => some .vfcmp
  | 0x6A => some .vfdiv
  | 0x6B => some .vfsqrt
  | 0x6C => some .vfclass
  | 0x6D => some .vfadda
  | 0x6E => some .vfdot2
  | 0x6F => some .vfscale
  | 0x70 => some .vfrnd
  | 0x80 => some .vcvt
  | 0x81 => some .vcvts
  | 0x82 => some .vrcp
  | 0x83 => some .vrsq
  | 0x84 => some .vexp2
  | 0x85 => some .vlog2
  | 0x86 => some .vsin
  | 0x87 => some .vcos
  | 0x88 => some .vtanh
  | 0x89 => some .vsigm
  | 0x8A => some .vrand
  | 0x8B => some .vseed
  | 0x8D => some .vmkabs
  | 0x8E => some .visabs
  | 0xA5 => some .vdot8
  | 0xA6 => some .vdot4
  | 0xA7 => some .vred
  | 0xA9 => some .mtrans
  | _ => none

/-- The instructions of format VI by opcode (R78). -/
def ctorVI : Nat → Option (FmtVI → Instr)
  | 0x41 => some .vli
  | 0x5C => some .vbfx
  | _ => none

/-- The instructions of format M by opcode (R78). -/
def ctorM : Nat → Option (FmtM → Instr)
  | 0x8C => some .qld
  | 0xC0 => some .ldg
  | 0xC1 => some .stg
  | 0xC2 => some .lds
  | 0xC3 => some .sts
  | 0xC4 => some .ldsm
  | 0xC5 => some .stsm
  | 0xC6 => some .ldfrag
  | 0xC7 => some .ldu
  | 0xC8 => some .stsc
  | 0xCC => some .bestmax
  | 0xCD => some .tld
  | 0xCE => some .tst
  | 0xCF => some .hld
  | 0xD1 => some .ccount
  | 0xD2 => some .fence
  | 0xD3 => some .cache
  | 0xD4 => some .disc
  | _ => none

/-- The instructions of format MI by opcode (R78). -/
def ctorMI : Nat → Option (FmtMI → Instr)
  | 0xC9 => some .atomg
  | 0xCA => some .atoms
  | 0xCB => some .redg
  | 0xD0 => some .citer
  | _ => none

/-- The instructions of format X by opcode (R78). -/
def ctorX : Nat → Option (FmtX → Instr)
  | 0xA0 => some .mma
  | 0xA1 => some .mmas
  | 0xA2 => some .aclr
  | 0xA3 => some .adrain
  | 0xA4 => some .amerge
  | _ => none

/-- The instructions of format B by opcode (R78). -/
def ctorB : Nat → Option (FmtB → Instr)
  | 0x20 => some .br
  | 0x21 => some .brs
  | 0x22 => some .brv
  | 0x24 => some .brany
  | 0x26 => some .call
  | _ => none

/-- The instructions of format W by opcode (R78). -/
def ctorW : Nat → Option (FmtW → Instr)
  | 0x23 => some .bway
  | _ => none

/-- The instructions of format T by opcode (R78). -/
def ctorT : Nat → Option (FmtT → Instr)
  | 0xE0 => some .spawn
  | 0xE1 => some .jrec
  | 0xE2 => some .fnew
  | 0xE3 => some .fres
  | 0xE4 => some .fwait
  | 0xE5 => some .fpoll
  | 0xE6 => some .freg
  | 0xE7 => some .fcan
  | 0xE8 => some .swnew
  | 0xE9 => some .swdl
  | 0xEA => some .swcan
  | 0xEF => some .cpy
  | 0xF0 => some .cpydn
  | 0xF2 => some .dyns
  | 0xF3 => some .gqcfg
  | 0xF4 => some .gqpush
  | 0xF5 => some .gqpop
  | 0xF6 => some .gqflush
  | 0xF7 => some .pdef
  | 0xF8 => some .palloc
  | 0xF9 => some .pfree
  | 0xFA => some .preset
  | 0xFB => some .regdef
  | 0xFC => some .hstw
  | 0xFD => some .sigdec
  | _ => none

/-- The instructions that share an opcode of format T, told apart by MOD or SUB (R269, R302, R340). -/
def ctorSplitT (opc : Nat) (f : FmtT) : Option Instr :=
  match opc, f.md.toNat, f.sub.toNat with
  | 0xEB, 0, _ => some (.swendClose f)
  | 0xEB, 1, _ => some (.swendRun f)
  | 0xEC, _, 0 => some (.barInit f)
  | 0xEC, _, 1 => some (.barArrive f)
  | 0xEC, _, 2 => some (.barWait f)
  | 0xEC, _, 3 => some (.barExpect f)
  | 0xEC, _, 4 => some (.barTest f)
  | 0xF1, _, 0 => some (.colqQpoint f)
  | 0xF1, _, 1 => some (.colqQsphere f)
  | 0xF1, _, 2 => some (.colqQseg f)
  | _, _, _ => none

/-- The RM code of R68; 6 and 7 name no mode. -/
def Rm.ofCode : Nat → Option Rm
  | 0 => some .dflt | 1 => some .rne | 2 => some .rz | 3 => some .rd | 4 => some .ru | 5 => some .rs | _ => none

/-- The code of a rounding mode (R68). -/
def Rm.code : Rm → Nat
  | .dflt => 0 | .rne => 1 | .rz => 2 | .rd => 3 | .ru => 4 | .rs => 5

/-- The MS field of R21; 22 to 63 select nothing. -/
def Pred.ofCode (n : Nat) : Option Pred :=
  if n = 0 then some .none else if h : n - 1 < 21 then some (.t ⟨n - 1, h⟩) else Option.none

/-- The MS code of a predicate (R21). -/
def Pred.code : Pred → Nat
  | .none => 0 | .t k => k.val + 1

/-- The SCOPE field of R71; 5 to 7 name no scope. -/
def Scope.ofCode : Nat → Option Scope
  | 0 => some .grp | 1 => some .team | 2 => some .core | 3 => some .dev | 4 => some .sys | _ => none

/-- The ORD field of R71. -/
def MemOrd.ofCode : Nat → MemOrd
  | 0 => .plain | 1 => .acq | 2 => .rel | _ => .acqrel

/-- The ORD code (R71). -/
def MemOrd.code : MemOrd → Nat
  | .plain => 0 | .acq => 1 | .rel => 2 | .acqrel => 3

/-- The W field of R71; 5 to 7 name no width. -/
def Width.ofCode : Nat → Option Width
  | 0 => some .w8 | 1 => some .w16 | 2 => some .w32 | 3 => some .w64 | 4 => some .w128 | _ => none

/-- The W code (R71). -/
def Width.code : Width → Nat
  | .w8 => 0 | .w16 => 1 | .w32 => 2 | .w64 => 3 | .w128 => 4

/-- The SC field of R71 as a shift; 5 to 7 name no scale. -/
def scaleOfCode (n : Nat) : Option (Fin 5) := if h : n < 5 then some ⟨n, h⟩ else none

/-- A bit as a one-bit field. -/
def bit1 (b : Bool) : BitVec 1 := if b then 1 else 0

/-- Format S, word 0 (R65): the instructions of one word, by opcode, I and FN. -/
def rawS (opc : Nat) (w : W32) : Option Instr :=
  let i := w.getLsbD 31
  let fn := (w.extractLsb' 28 3).toNat
  let b := w.extractLsb' 22 6
  let a := w.extractLsb' 16 6
  let d := w.extractLsb' 10 6
  let imm := w.extractLsb' 22 9
  let two (r : SReg → SReg → SReg → Instr) (m : SReg → SReg → BitVec 9 → Instr) : Option Instr :=
    if i then some (m d a imm) else if fn = 0 then some (r d a b) else none
  let shf (r : SReg → SReg → SReg → Instr) (m : SReg → SReg → BitVec 5 → Instr) : Option Instr :=
    if i then (if imm.toNat < 32 then some (m d a (w.extractLsb' 22 5)) else none)
    else if fn = 0 then some (r d a b) else none
  let one (r l : SReg → SReg → Instr) : Option Instr :=
    if i || b ≠ 0 then none else if fn = 0 then some (r d a) else if fn = 1 then some (l d a) else none
  let plain (x : Instr) : Option Instr := if w.extractLsb' 10 22 = 0 then some x else none
  match opc with
  | 0x00 => if w = 0x0FFFFC00 then some .nop else none
  | 0x01 => if i then (if a = 0 then some (.smovImm d imm) else none) else one .smov .smovPair
  | 0x03 => two .sadd .saddImm
  | 0x04 => two .ssub .ssubImm
  | 0x05 => two .smul .smulImm
  | 0x06 => two .smulhs .smulhsImm
  | 0x07 => two .smulhn .smulhnImm
  | 0x08 => two .sand .sandImm
  | 0x09 => two .sor .sorImm
  | 0x0A => two .sxor .sxorImm
  | 0x0B => two .sandn .sandnImm
  | 0x0C => shf .sshl .sshlImm
  | 0x0D => shf .sshr .sshrImm
  | 0x0E => shf .ssar .ssarImm
  | 0x0F => two .smin .sminImm
  | 0x10 => two .smax .smaxImm
  | 0x11 => two .sminn .sminnImm
  | 0x12 => two .smaxn .smaxnImm
  | 0x15 => two .sadd64 .sadd64Imm
  | 0x16 => two .ssub64 .ssub64Imm
  | 0x17 => one .spopc .spopcL
  | 0x18 => one .sclz .sclzL
  | 0x1B => two .sdivn .sdivnImm
  | 0x1C => two .sremn .sremnImm
  | 0x1D => if i then some (.sleaImm d a imm) else some (.slea (w.extractLsb' 28 3) d a b)
  | 0x1E => if i then none else some (.smask (w.extractLsb' 28 3) d a b)
  | 0x25 => if i || fn ≠ 0 || b ≠ 0 || d ≠ 0 then none else some (.jmp a)
  | 0x27 => if i || fn ≠ 0 || b ≠ 0 then none else some (.calli d a)
  | 0x28 => if i || fn ≠ 0 || b ≠ 0 || d ≠ 0 then none else some (.ret a)
  | 0x29 => plain .syncs
  | 0x2A => if i || b ≠ 0 || a ≠ 0 || d ≠ 0 then none else if fn = 0 then some .exit else if fn = 1 then some .exitAll else none
  | 0x2B => if a ≠ 0 || d ≠ 0 then none else if i then some (.yieldImm imm) else plain .yield
  | 0x2C => if a ≠ 0 || d ≠ 0 || !i then none
            else if imm.extractLsb' 7 2 = 1 then some (.trap (w.extractLsb' 22 7)) else none
  | 0x2F => if i || fn ≠ 0 || b ≠ 0 then none else some (.watch d a)
  | 0x31 => plain .tret
  | _ => none

/-- Format SI (R66). -/
def FmtSI.ofWords (w0 w1 w2 : W32) : Option FmtSI :=
  if w1.extractLsb' 16 16 = 0 then
    some { i := w0.getLsbD 31, fn := w0.extractLsb' 28 3, sb := w0.extractLsb' 22 6, sa := w0.extractLsb' 16 6,
           sd := w0.extractLsb' 10 6, xf := w1.extractLsb' 0 16, lit := w2 }
  else none

/-- Format V (R67). -/
def FmtV.ofWords (w0 w1 : W32) : Option FmtV :=
  match Rm.ofCode (w1.extractLsb' 28 3).toNat, Ty.ofCode (w1.extractLsb' 24 4).toNat,
    Pred.ofCode (w1.extractLsb' 18 6).toNat with
  | some rm, some ty, some ms =>
    some { s := w1.getLsbD 31, rm, ty, ms, vc := w1.extractLsb' 9 9, vb := w1.extractLsb' 0 9,
           md := w0.extractLsb' 28 4, va := w0.extractLsb' 19 9, vd := w0.extractLsb' 10 9 }
  | _, _, _ => none

/-- Format M (R71). -/
def FmtM.ofWords (w0 w1 : W32) : Option FmtM :=
  match Pred.ofCode (w1.extractLsb' 18 6).toNat, Scope.ofCode (w1.extractLsb' 15 3).toNat,
    scaleOfCode (w1.extractLsb' 9 3).toNat, Width.ofCode (w1.extractLsb' 6 3).toNat with
  | some ms, some scope, some sc, some w =>
    some { off := w1.extractLsb' 24 8, ms, scope, ord := MemOrd.ofCode (w1.extractLsb' 13 2).toNat, xi := w1.getLsbD 12,
           sc, w, sa := w1.extractLsb' 0 6, md := w0.extractLsb' 28 4, vx := w0.extractLsb' 19 9,
           vd := w0.extractLsb' 10 9 }
  | _, _, _, _ => none

/-- Format MI (R72). -/
def FmtMI.ofWords (w0 w1 w2 : W32) : Option FmtMI :=
  match FmtM.ofWords w0 w1 with
  | some m => if w2.extractLsb' 18 14 = 0 then some { m, vc := w2.extractLsb' 9 9, vb := w2.extractLsb' 0 9 } else none
  | none => none

/-- Format X (R73). -/
def FmtX.ofWords (w0 w1 : W32) : Option FmtX :=
  match Rm.ofCode (w1.extractLsb' 26 3).toNat, Ty.ofCode (w1.extractLsb' 18 4).toNat,
    Ty.ofCode (w0.extractLsb' 28 4).toNat with
  | some rm, some tb, some ta =>
    some { xop := w1.extractLsb' 29 3, rm, sf := w1.extractLsb' 24 2, bs := w1.extractLsb' 22 2, tb,
           xs := w1.extractLsb' 9 9, xb := w1.extractLsb' 0 9, ta, xa := w0.extractLsb' 19 9, xd := w0.extractLsb' 10 9 }
  | _, _, _ => none

/-- Format B (R74). -/
def FmtB.ofWords (w0 w1 : W32) : Option FmtB :=
  if w1.extractLsb' 29 3 = 0 then
    some { tsel := w1.extractLsb' 24 5, off := w1.extractLsb' 0 24, all := w0.getLsbD 31, cnd := w0.extractLsb' 28 3,
           sb := w0.extractLsb' 22 6, sa := w0.extractLsb' 16 6, sd := w0.extractLsb' 10 6 }
  else none

/-- Format W (R75). -/
def FmtW.ofWords (w0 w1 w2 : W32) : Option FmtW :=
  if w0.extractLsb' 30 2 = 0 then
    some { off3 := w2.extractLsb' 16 16, off2 := w2.extractLsb' 0 16, off1 := w1.extractLsb' 16 16,
           off0 := w1.extractLsb' 0 16, sel3 := w0.extractLsb' 25 5, sel2 := w0.extractLsb' 20 5,
           sel1 := w0.extractLsb' 15 5, sel0 := w0.extractLsb' 10 5 }
  else none

/-- Format T (R76). -/
def FmtT.ofWords (w0 w1 : W32) : Option FmtT :=
  match Pred.ofCode (w1.extractLsb' 18 6).toNat with
  | some ms =>
    some { t := w1.getLsbD 31, opt := w1.extractLsb' 28 3, sub := w1.extractLsb' 24 4, ms, vb := w1.extractLsb' 9 9,
           va := w1.extractLsb' 0 9, md := w0.extractLsb' 28 4, sb := w0.extractLsb' 22 6, sa := w0.extractLsb' 16 6,
           sd := w0.extractLsb' 10 6 }
  | none => none

/-- Build an instruction from a constructor and its fields, when both are there. -/
def build {α : Type} (c : Option (α → Instr)) (f : Option α) : Option Instr :=
  match c, f with
  | some c, some f => some (c f)
  | _, _ => none

/-- The fields of an instruction of a given opcode and format, before the checks of its own field values. -/
def rawDecode (opc : Nat) (fmt : Fmt) (w0 w1 w2 : W32) : Option Instr :=
  match fmt with
  | .S => rawS opc w0
  | .SI => build (ctorSI opc) (FmtSI.ofWords w0 w1 w2)
  | .V => build (ctorV opc) (FmtV.ofWords w0 w1)
  | .VI => build (ctorVI opc) ((FmtV.ofWords w0 w1).map (fun v => { v, lit := w2 }))
  | .M => build (ctorM opc) (FmtM.ofWords w0 w1)
  | .MI => build (ctorMI opc) (FmtMI.ofWords w0 w1 w2)
  | .X => build (ctorX opc) (FmtX.ofWords w0 w1)
  | .B => build (ctorB opc) (FmtB.ofWords w0 w1)
  | .W => build (ctorW opc) (FmtW.ofWords w0 w1 w2)
  | .T =>
    match FmtT.ofWords w0 w1 with
    | some f => (ctorSplitT opc f).or (build (ctorT opc) (some f))
    | none => none

/-- The length of the instruction that begins with a word, in words; none when the word begins no instruction
(R59, R61 steps 1 to 3). -/
def insnWords (w0 : W32) : Option Nat :=
  match opFormat (w0.extractLsb' 2 8).toNat with
  | some fmt => if fmt.len = (w0.extractLsb' 0 2).toNat then some (fmt.len + 1) else none
  | none => none

/-- Decode the instruction at the head of a list of words (R61, steps 1 to 6). -/
def decode (ws : List W32) : Except Reject Instr :=
  match ws with
  | [] => .error .short
  | w0 :: rest =>
    if (w0.extractLsb' 0 2).toNat = 3 then .error .badLength
    else
      match opFormat (w0.extractLsb' 2 8).toNat with
      | none => .error .unassigned
      | some fmt =>
        if fmt.len ≠ (w0.extractLsb' 0 2).toNat then .error .wrongLength
        else if rest.length < fmt.len then .error .short
        else
          match rawDecode (w0.extractLsb' 2 8).toNat fmt w0 (rest.getD 0 0) (rest.getD 1 0) with
          | none => .error .reserved
          | some i => if i.wf then .ok i else .error .badField

/-- The k-th 32-bit word of a bit pattern numbered from the least significant bit of the first word (R58). -/
def wordOf (w k : Nat) : W32 := BitVec.ofNat 32 (w >>> (32 * k))

/-- The instruction the decoder reads from an instruction whose bits are `w`, higher bits zero. -/
def decodeTableWord (_nbits w : Nat) : Option Instr :=
  match decode [wordOf w 0, wordOf w 1, wordOf w 2] with
  | .ok i => some i
  | .error _ => none

/-! ### The encoder -/

/-- Word 0's low ten bits: OPC and LEN (R58). -/
def head (opc len : Nat) : BitVec 10 := BitVec.ofNat 8 opc ++ BitVec.ofNat 2 len

/-- Format S with a register operand B (R65). -/
def encS (opc fn : Nat) (b a d : SReg) : List W32 := [0#1 ++ BitVec.ofNat 3 fn ++ b ++ a ++ d ++ head opc 0]

/-- Format S with an immediate operand B (R65). -/
def encImm (opc : Nat) (imm : BitVec 9) (a d : SReg) : List W32 := [1#1 ++ imm ++ a ++ d ++ head opc 0]

/-- The words of format SI (R66). -/
def FmtSI.words (opc : Nat) (f : FmtSI) : List W32 :=
  [bit1 f.i ++ f.fn ++ f.sb ++ f.sa ++ f.sd ++ head opc 2, 0#16 ++ f.xf, f.lit]

/-- The words of format V (R67). -/
def FmtV.words (opc len : Nat) (f : FmtV) : List W32 :=
  [f.md ++ f.va ++ f.vd ++ head opc len,
   bit1 f.s ++ BitVec.ofNat 3 f.rm.code ++ BitVec.ofNat 4 f.ty.code ++ BitVec.ofNat 6 f.ms.code ++ f.vc ++ f.vb]

/-- The words of format VI (R69). -/
def FmtVI.words (opc : Nat) (f : FmtVI) : List W32 := f.v.words opc 2 ++ [f.lit]

/-- The words of format M (R71). -/
def FmtM.words (opc len : Nat) (f : FmtM) : List W32 :=
  [f.md ++ f.vx ++ f.vd ++ head opc len,
   f.off ++ BitVec.ofNat 6 f.ms.code ++ BitVec.ofNat 3 f.scope.rank ++ BitVec.ofNat 2 f.ord.code ++ bit1 f.xi ++
     BitVec.ofNat 3 f.sc.val ++ BitVec.ofNat 3 f.w.code ++ f.sa]

/-- The words of format MI (R72). -/
def FmtMI.words (opc : Nat) (f : FmtMI) : List W32 := f.m.words opc 2 ++ [0#14 ++ f.vc ++ f.vb]

/-- The words of format X (R73). -/
def FmtX.words (opc : Nat) (f : FmtX) : List W32 :=
  [BitVec.ofNat 4 f.ta.code ++ f.xa ++ f.xd ++ head opc 1,
   f.xop ++ BitVec.ofNat 3 f.rm.code ++ f.sf ++ f.bs ++ BitVec.ofNat 4 f.tb.code ++ f.xs ++ f.xb]

/-- The words of format B (R74). -/
def FmtB.words (opc : Nat) (f : FmtB) : List W32 :=
  [bit1 f.all ++ f.cnd ++ f.sb ++ f.sa ++ f.sd ++ head opc 1, 0#3 ++ f.tsel ++ f.off]

/-- The words of format W (R75). -/
def FmtW.words (opc : Nat) (f : FmtW) : List W32 :=
  [0#2 ++ f.sel3 ++ f.sel2 ++ f.sel1 ++ f.sel0 ++ head opc 2, f.off1 ++ f.off0, f.off3 ++ f.off2]

/-- The words of format T (R76). -/
def FmtT.words (opc : Nat) (f : FmtT) : List W32 :=
  [f.md ++ f.sb ++ f.sa ++ f.sd ++ head opc 1,
   bit1 f.t ++ f.opt ++ f.sub ++ BitVec.ofNat 6 f.ms.code ++ f.vb ++ f.va]

/-- The words of an instruction; an event of the device has none (R78). -/
def encode : Instr → List W32
  | .nop => [0x0FFFFC00]
  | .smov d a => encS 0x01 0 0 a d
  | .smovPair d a => encS 0x01 1 0 a d
  | .smovImm d imm => encImm 0x01 imm 0 d
  | .sadd d a b => encS 0x03 0 b a d
  | .saddImm d a imm => encImm 0x03 imm a d
  | .ssub d a b => encS 0x04 0 b a d
  | .ssubImm d a imm => encImm 0x04 imm a d
  | .smul d a b => encS 0x05 0 b a d
  | .smulImm d a imm => encImm 0x05 imm a d
  | .smulhs d a b => encS 0x06 0 b a d
  | .smulhsImm d a imm => encImm 0x06 imm a d
  | .smulhn d a b => encS 0x07 0 b a d
  | .smulhnImm d a imm => encImm 0x07 imm a d
  | .sand d a b => encS 0x08 0 b a d
  | .sandImm d a imm => encImm 0x08 imm a d
  | .sor d a b => encS 0x09 0 b a d
  | .sorImm d a imm => encImm 0x09 imm a d
  | .sxor d a b => encS 0x0A 0 b a d
  | .sxorImm d a imm => encImm 0x0A imm a d
  | .sandn d a b => encS 0x0B 0 b a d
  | .sandnImm d a imm => encImm 0x0B imm a d
  | .sshl d a b => encS 0x0C 0 b a d
  | .sshlImm d a imm => encImm 0x0C (0#4 ++ imm) a d
  | .sshr d a b => encS 0x0D 0 b a d
  | .sshrImm d a imm => encImm 0x0D (0#4 ++ imm) a d
  | .ssar d a b => encS 0x0E 0 b a d
  | .ssarImm d a imm => encImm 0x0E (0#4 ++ imm) a d
  | .smin d a b => encS 0x0F 0 b a d
  | .sminImm d a imm => encImm 0x0F imm a d
  | .smax d a b => encS 0x10 0 b a d
  | .smaxImm d a imm => encImm 0x10 imm a d
  | .sminn d a b => encS 0x11 0 b a d
  | .sminnImm d a imm => encImm 0x11 imm a d
  | .smaxn d a b => encS 0x12 0 b a d
  | .smaxnImm d a imm => encImm 0x12 imm a d
  | .sadd64 d a b => encS 0x15 0 b a d
  | .sadd64Imm d a imm => encImm 0x15 imm a d
  | .ssub64 d a b => encS 0x16 0 b a d
  | .ssub64Imm d a imm => encImm 0x16 imm a d
  | .spopc d a => encS 0x17 0 0 a d
  | .spopcL d a => encS 0x17 1 0 a d
  | .sclz d a => encS 0x18 0 0 a d
  | .sclzL d a => encS 0x18 1 0 a d
  | .sdivn d a b => encS 0x1B 0 b a d
  | .sdivnImm d a imm => encImm 0x1B imm a d
  | .sremn d a b => encS 0x1C 0 b a d
  | .sremnImm d a imm => encImm 0x1C imm a d
  | .slea fn d a b => encS 0x1D fn.toNat b a d
  | .sleaImm d a imm => encImm 0x1D imm a d
  | .smask fn d a b => encS 0x1E fn.toNat b a d
  | .jmp a => encS 0x25 0 0 a 0
  | .calli d a => encS 0x27 0 0 a d
  | .ret a => encS 0x28 0 0 a 0
  | .syncs => encS 0x29 0 0 0 0
  | .exit => encS 0x2A 0 0 0 0
  | .exitAll => encS 0x2A 1 0 0 0
  | .yield => encS 0x2B 0 0 0 0
  | .yieldImm imm => encImm 0x2B imm 0 0
  | .trap i => encImm 0x2C (1#2 ++ i) 0 0
  | .watch d a => encS 0x2F 0 0 a d
  | .tret => encS 0x31 0 0 0 0
  | .sli f => f.words 0x02
  | .scmp f => f.words 0x13
  | .sbfx f => f.words 0x19
  | .sbfi f => f.words 0x1A
  | .smovr f => f.words 0x2D
  | .smovw f => f.words 0x2E
  | .vmov f => f.words 0x40 1
  | .vadd f => f.words 0x42 1
  | .vsub f => f.words 0x43 1
  | .vmul f => f.words 0x44 1
  | .vmulh f => f.words 0x45 1
  | .vmad f => f.words 0x46 1
  | .vand f => f.words 0x47 1
  | .vor f => f.words 0x48 1
  | .vxor f => f.words 0x49 1
  | .vandn f => f.words 0x4A 1
  | .vshl f => f.words 0x4B 1
  | .vshr f => f.words 0x4C 1
  | .vsar f => f.words 0x4D 1
  | .vmin f => f.words 0x4E 1
  | .vmax f => f.words 0x4F 1
  | .vabs f => f.words 0x50 1
  | .vcmp f => f.words 0x51 1
  | .vsel f => f.words 0x52 1
  | .vpopc f => f.words 0x53 1
  | .vclz f => f.words 0x54 1
  | .vshuf f => f.words 0x55 1
  | .vbcst f => f.words 0x56 1
  | .vlane f => f.words 0x57 1
  | .vscan f => f.words 0x58 1
  | .vrowmap f => f.words 0x59 1
  | .vpack f => f.words 0x5A 1
  | .vunpk f => f.words 0x5B 1
  | .vv2s f => f.words 0x5D 1
  | .vfadd f => f.words 0x60 1
  | .vfsub f => f.words 0x61 1
  | .vfmul f => f.words 0x62 1
  | .vfma f => f.words 0x63 1
  | .vfms f => f.words 0x64 1
  | .vfmin f => f.words 0x65 1
  | .vfmax f => f.words 0x66 1
  | .vfabs f => f.words 0x67 1
  | .vfneg f => f.words 0x68 1
  | .vfcmp f => f.words 0x69 1
  | .vfdiv f => f.words 0x6A 1
  | .vfsqrt f => f.words 0x6B 1
  | .vfclass f => f.words 0x6C 1
  | .vfadda f => f.words 0x6D 1
  | .vfdot2 f => f.words 0x6E 1
  | .vfscale f => f.words 0x6F 1
  | .vfrnd f => f.words 0x70 1
  | .vcvt f => f.words 0x80 1
  | .vcvts f => f.words 0x81 1
  | .vrcp f => f.words 0x82 1
  | .vrsq f => f.words 0x83 1
  | .vexp2 f => f.words 0x84 1
  | .vlog2 f => f.words 0x85 1
  | .vsin f => f.words 0x86 1
  | .vcos f => f.words 0x87 1
  | .vtanh f => f.words 0x88 1
  | .vsigm f => f.words 0x89 1
  | .vrand f => f.words 0x8A 1
  | .vseed f => f.words 0x8B 1
  | .vmkabs f => f.words 0x8D 1
  | .visabs f => f.words 0x8E 1
  | .vdot8 f => f.words 0xA5 1
  | .vdot4 f => f.words 0xA6 1
  | .vred f => f.words 0xA7 1
  | .mtrans f => f.words 0xA9 1
  | .vli f => f.words 0x41
  | .vbfx f => f.words 0x5C
  | .qld f => f.words 0x8C 1
  | .ldg f => f.words 0xC0 1
  | .stg f => f.words 0xC1 1
  | .lds f => f.words 0xC2 1
  | .sts f => f.words 0xC3 1
  | .ldsm f => f.words 0xC4 1
  | .stsm f => f.words 0xC5 1
  | .ldfrag f => f.words 0xC6 1
  | .ldu f => f.words 0xC7 1
  | .stsc f => f.words 0xC8 1
  | .bestmax f => f.words 0xCC 1
  | .tld f => f.words 0xCD 1
  | .tst f => f.words 0xCE 1
  | .hld f => f.words 0xCF 1
  | .ccount f => f.words 0xD1 1
  | .fence f => f.words 0xD2 1
  | .cache f => f.words 0xD3 1
  | .disc f => f.words 0xD4 1
  | .atomg f => f.words 0xC9
  | .atoms f => f.words 0xCA
  | .redg f => f.words 0xCB
  | .citer f => f.words 0xD0
  | .mma f => f.words 0xA0
  | .mmas f => f.words 0xA1
  | .aclr f => f.words 0xA2
  | .adrain f => f.words 0xA3
  | .amerge f => f.words 0xA4
  | .br f => f.words 0x20
  | .brs f => f.words 0x21
  | .brv f => f.words 0x22
  | .brany f => f.words 0x24
  | .call f => f.words 0x26
  | .bway f => f.words 0x23
  | .spawn f => f.words 0xE0
  | .jrec f => f.words 0xE1
  | .fnew f => f.words 0xE2
  | .fres f => f.words 0xE3
  | .fwait f => f.words 0xE4
  | .fpoll f => f.words 0xE5
  | .freg f => f.words 0xE6
  | .fcan f => f.words 0xE7
  | .swnew f => f.words 0xE8
  | .swdl f => f.words 0xE9
  | .swcan f => f.words 0xEA
  | .swendClose f => f.words 0xEB
  | .swendRun f => f.words 0xEB
  | .barInit f => f.words 0xEC
  | .barArrive f => f.words 0xEC
  | .barWait f => f.words 0xEC
  | .barExpect f => f.words 0xEC
  | .barTest f => f.words 0xEC
  | .cpy f => f.words 0xEF
  | .cpydn f => f.words 0xF0
  | .colqQpoint f => f.words 0xF1
  | .colqQsphere f => f.words 0xF1
  | .colqQseg f => f.words 0xF1
  | .dyns f => f.words 0xF2
  | .gqcfg f => f.words 0xF3
  | .gqpush f => f.words 0xF4
  | .gqpop f => f.words 0xF5
  | .gqflush f => f.words 0xF6
  | .pdef f => f.words 0xF7
  | .palloc f => f.words 0xF8
  | .pfree f => f.words 0xF9
  | .preset f => f.words 0xFA
  | .regdef f => f.words 0xFB
  | .hstw f => f.words 0xFC
  | .sigdec f => f.words 0xFD
  | .reset | .resetRelease | .thermtrip _ _ | .linkTraining _ | .ppsEdge | .ppsEdgeMissed | .ppsctlWrite _
  | .ppscaploRead | .attctlGo | .attestationReport | .boot | .functionReady _ | .createContext
  | .destroyContext _ | .createQueue _ _ | .destroyQueue _ _ | .queueFree _ _ | .qwidxWrite _ _ _ _
  | .sridxWrite _ _ _ _ | .erridxWrite _ _ | .erdropRead | .pcapWrite _ _ | .registerWrite _ _ _ _
  | .packetRead _ _ | .nopPacket _ _ | .launch _ _ | .tasks _ _ | .copyPacket _ _ | .signalPacket _ _
  | .waitPacket _ _ | .waitSatisfied _ _ _ | .graph _ _ | .rangeInval _ _ | .rangeAcquire _ _
  | .rangeRelease _ _ | .rangeClass _ _ | .stream _ _ | .packetComplete _ _ _ | .graphNodeComplete _ _ _ _
  | .coalesceTimeout _ | .streamTimeout _ _ | .teamAdmit _ | .starvationBoost _ _
  | .splitEligibilityBoost _ _ _ | .splitFillDone _ _ _ | .spinDemote _ _ _ | .spinRestore _ _ _
  | .spinRestoreTimeout _ _ _ | .yieldEnd _ _ _ | .watchWake _ _ _ | .watchTimeout _ _ _
  | .cancelDelivery _ _ | .instructionComplete _ _ | .drainStampReached _ | .pageWalkDone _ _ _
  | .residencyWaitEnd _ _ | .sealStoreStallEnd _ _ | .sealCommitDone _ _ | .sealedRequeue _ | .teamFree _
  | .copyComplete _ _ | .copyFault _ _ | .barWaitTimeout _ _ _ | .gqTimeout _ _ | .gqTileDeliver _ _
  | .gqpushRetry _ _ _ | .joinDecrement _ | .devicePushRetry _ | .spawnRetry _ _ _ | .fwaitRecheck _ _ _
  | .fwaitPollTimeout _ _ _ | .deadlineExpiry _ _ | .swarmCancelComplete _ _ | .swarmFree _ _ | .preempt _
  | .teamResume _ _ | .engineEntryStart _ _ | .colqQueryDone _ _ _ | .dynsBodyStep _ _ | .hstwResume _ _ _
  | .energyCharge _ | .clockControl _ | .coreGateDecide _ | .coreGateCommit _ | .engineGate _ _ | .coreWake _
  | .correctedError _ | .uncorrectableError _ | .controlParityError _ | .illop | .fetchFault _ _ _
  | .bar2Access _ | .refclkEdge | .ppsSeenExpiry => []

end Sys2Proof
end

