-- ==== Sys2Proof/Machine/Sched.lean ====
section
/-! DEFINITION. Which split issues next (R211 to R217), what an issue counts (R82, R215, R216, R421), the passing of core
cycles, and the fetch and decode of the instruction that issues (R59 to R61). -/

namespace Sys2Proof.Machine

/-! ### Split entries in a group's block (R215, R397, R398) -/

/-- A field of some bytes. -/
def leField (l : List Byte) (off n : Nat) : Nat := bytesToNat ((l.drop off).take n)

/-- KIND of a split. -/
def Park.kind : Park → Nat
  | .running => 0
  | .syncs => 1
  | .watch _ _ => 2
  | .fwait _ _ _ _ => 3
  | .barWait _ _ _ _ => 4
  | .yieldAll _ _ | .yieldUntil _ => 5
  | .gqpop _ => 6
  | _ => 7

/-- KIND and WSTART of a split: those of the wait that a resumed split is still to issue again, else its own. -/
def Split.waitOf (sp : Split) : Nat × W64 := sp.rewait.getD (sp.park.kind, sp.wstart)

/-- A split entry. -/
def Split.entry (sp : Split) : List Byte :=
  natToBytes 8 ((sp.pc.extractLsb' 2 55).toNat * 4 + sp.waitOf.1 * 2 ^ 60) ++ natToBytes 12 sp.l.toNat ++ natToBytes 12 sp.e.toNat
    ++ natToBytes 8 sp.waitOf.2.toNat ++ natToBytes 8 0

/-- Where an address of a context lies in device memory, as its tables stand (R397: a save area stays mapped and resident);
a wait while one of its tables or the place is on a channel that is not ready (R415). -/
def Device.homeOf (d : Device) (e : Env) (ctx : Nat) (va : W64) : Except WalkStop Nat :=
  match d.ctxs.get ctx with
  | none => .error (.fault 1)
  | some c =>
    match d.walk e.plat.ready e.tick e.plat.part.capacity Agent.unit.tlb ctx va.toNat 4 c.ptroot.toNat with
    | .error w => .error w
    | .ok r =>
      let l := r.leaf
      let pa := pteAddr l.entry + va.toNat % l.size
      if pteTgt l.entry ≠ 0 then .error (.fault 2) else if channelReady e.plat.ready pa then .ok pa else .error .channel

/-- The address of a running split's entry in its group's block: that of the split's lowest lane (log entry 11). -/
def Device.entryAt (d : Device) (g : Group) (low : Nat) : W64 := d.blockAt g + BitVec.ofNat 64 (0x900 + 48 * low)

/-- The places of a split's entry, 16 bytes each. -/
def Device.entryPlaces (d : Device) (e : Env) (g : Group) (low : Nat) : Except WalkStop (List Nat) :=
  (List.range 3).mapM (fun k => d.homeOf e g.ctx (d.entryAt g low + BitVec.ofNat 64 (16 * k)))

/-- The fields of a split entry: first bit and width. -/
def entryFields : List (Nat × Nat) := [(2, 55), (60, 4), (64, 96), (160, 96), (256, 64)]

/-- A field of an entry: first bit and width. -/
def entryField (l : List Byte) (f : Nat × Nat) : Nat := bytesToNat l / 2 ^ f.1 % 2 ^ f.2

/-- An entry in memory with the fields in which a split's entry differs from what was written before: what a program has written
into the others stays (R397). Reserved bits are written as zero (R6). -/
def entryOver (was now mem : List Byte) : List Byte :=
  natToBytes 48 (entryFields.foldl (fun m f =>
    m + entryField (if entryField was f = entryField now f then mem else now) f * 2 ^ f.1) 0)

/-- An entry that lies off chip is written into its group's block where the block does not hold it: whole when it leaves the chip,
and the fields that change when its split goes on while it is there (R215, R397). It waits for a channel. -/
def Device.entryOut (d : Device) (e : Env) (g : Group) (sp : Split) : Device × Split :=
  if sp.spilled.isNone || sp.home = sp.entry then (d, sp)
  else
    match d.entryPlaces e g sp.low with
    | .error .channel => (d, sp)
    | .error (.fault _) => (d, { sp with home := sp.entry })
    | .ok l =>
      let bytes := if sp.home = [] then sp.entry else entryOver sp.home sp.entry (l.flatMap (fun pa => readBytes d.mem pa 16))
      ((l.zip (List.range 3)).foldl (fun d p => d.store .dev p.1 ((bytes.drop (16 * p.2)).take 16)) d, { sp with home := sp.entry })

/-- The entries of some splits are written. -/
def Device.entriesOut (e : Env) (g : Group) : List Split → Device → Device × List Split
  | [], d => (d, [])
  | sp :: l, d =>
    let p := d.entryOut e g sp
    let q := Device.entriesOut e g l p.1
    (q.1, p.2 :: q.2)

/-- A lane mask of an entry; a group holds no lane at or beyond GWIDTH (R11, R18). -/
def entryMask (width : Nat) (l : List Byte) (bit : Nat) : Mask := BitVec.ofNat 96 (entryField l (bit, 96)) &&& laneMask width

/-- An entry that lies off chip with what a program has written over it: PC, L and E (R397). One whose lowest lane is another now
lies elsewhere, and is written there whole. -/
def Split.rewritten (sp : Split) (width : Nat) (mem : List Byte) : Split :=
  let pcOf (l : List Byte) : W64 := BitVec.ofNat 64 (entryField l (2, 55) * 4)
  let pick {α : Type} [DecidableEq α] (f : List Byte → α) (own : α) : α := if f mem = f sp.home then own else f mem
  let pc := pick pcOf sp.pc
  let l := pick (fun b => entryMask width b 64) sp.l
  let e := pick (fun b => entryMask width b 160) sp.e
  if pc = sp.pc && l = sp.l && e = sp.e then sp
  else
    let t := { sp with pc, l, e }
    { t with home := if t.low = sp.low then entryOver sp.entry t.entry sp.home else [] }

/-- A split whose entry lies off chip, as its group's block holds it (R397). -/
def Device.entryBack (d : Device) (e : Env) (g : Group) (sp : Split) : Split :=
  if sp.spilled.isNone || sp.home = [] then sp
  else
    match d.entryPlaces e g sp.low with
    | .error _ => sp
    | .ok l => sp.rewritten g.width (l.flatMap (fun pa => readBytes d.mem pa 16))

/-- What programs have written over the split entries that lie off chip is the state of their splits (R397). -/
def Device.entriesBack (d : Device) (e : Env) : Device :=
  { d with groups := d.groups.mapV (fun _ g => { g with splits := g.splits.map (d.entryBack e g) }) }

/-- An entry read back from its group's block as it stands (R397): PC, L and E, of which a group holds no bit at or beyond GWIDTH
(R11, R18); none while it waits for a channel, or is still to be written. -/
def Device.entryIn (d : Device) (e : Env) (g : Group) (sp : Split) : Option Split :=
  if sp.home ≠ sp.entry then none
  else
    match d.entryPlaces e g sp.low with
    | .error .channel => none
    | .error (.fault _) => some { sp with home := [], spilled := none }
    | .ok l =>
      let b := l.flatMap (fun pa => readBytes d.mem pa 16)
      some { sp with
        pc := BitVec.ofNat 64 (entryField b (2, 55) * 4), l := entryMask g.width b 64, e := entryMask g.width b 160, home := []
        spilled := none }

/-! ### Readiness (R211, R216) -/

/-- Copies in flight on a core (R299). -/
def Device.copiesOn (d : Device) (core : Nat) : List Copy := (d.copies.get core).getD []

/-- Key of an engine: collision engines 0 to 7, dynamics engines 8 to 15. -/
def engineKey (cluster : Nat) (k : EngineKind) : Nat := match k with
  | .col => cluster
  | .dyn => 8 + cluster

/-- Entries of an engine (R337). -/
def Device.entriesOn (d : Device) (key : Nat) : List Entry := (d.entries.get key).getD []

/-- The condition a stalled split waits for holds; the end of a wait for a page, a channel or seal units is an event. -/
def Device.stallOver (d : Device) (core : Nat) : Stall → Bool
  | .page _ => false
  | .channel => false
  | .engine k _ => decide ((d.entriesOn (engineKey (core / 8) k)).length < 64)
  | .copySlot => decide ((d.copiesOn core).length < 512)
  | .full s => d.reached s
  | .seal _ => false

/-- Splits of a cluster that wait for an engine: effective priority, and the step from which each waits. -/
def Device.engineWaiters (d : Device) (cluster : Nat) (k : EngineKind) : List (Nat × Nat) :=
  d.groups.flatMap (fun p =>
    if p.1 / 48 / 8 = cluster then
      p.2.splits.filterMap (fun sp => match sp.park with
        | .stall (.engine k' since) => if k' = k then some (d.effPrio p.1 p.2, since) else none
        | _ => none)
    else [])

/-- No waiter of an engine comes before one of a priority that waits since a step (R337). One whose group's trap handler holds it
keeps its place (DESIGN CHOICE, log entry 55). -/
def Device.engineTurn (d : Device) (key : Nat) (g : Group) (k : EngineKind) (since : Nat) : Bool :=
  let p := d.effPrio key g
  !(d.engineWaiters (key / 48 / 8) k).any (fun w => decide (p < w.1) || (w.1 = p && decide (w.2 < since)))

/-- A split waits for nothing but, it may be, its entry: not parked, its stall over (R211). -/
def Device.unwaiting (d : Device) (key : Nat) (g : Group) (sp : Split) : Bool :=
  match sp.park with
  | .running => true
  | .stall (.engine k since) => d.stallOver (key / 48) (.engine k since) && d.engineTurn key g k since
  | .stall w => d.stallOver (key / 48) w
  | _ => false

/-- A split may issue: it waits for nothing, and its entry is on chip (R211, R215). -/
def Device.splitReady (d : Device) (key : Nat) (g : Group) (sp : Split) : Bool := sp.spilled.isNone && d.unwaiting key g sp

/-- A core is powered (R423). -/
def Device.coreOn (d : Device) (core : Nat) : Bool := match d.coreGate.get core with
  | some (.gated _) => false
  | _ => true

/-- Not parked, as R216 counts it. -/
def Split.unparked (sp : Split) : Bool := sp.park.idle

/-- Insert a split by PC, then by lowest lane. -/
def insertPc (a : Split) : List Split → List Split
  | [] => [a]
  | b :: l => if a.pc.toNat < b.pc.toNat || (a.pc = b.pc && a.low < b.low) then a :: b :: l else b :: insertPc a l

/-- Splits by rising PC. -/
def byPc (l : List Split) : List Split := l.foldr insertPc []

/-- Places that issue choice gives the splits of a group (R216). -/
def splitPlaces : Nat := 4

/-- The eligible splits of a group: four at most; a boosted one has a place until it issues, and those of the highest PCs among
the others give way (R216); while a handler runs, the handling split (R217). -/
def Group.eligible (g : Group) : List Split :=
  if g.inHandler then g.splits.filter (fun sp => sp.handling)
  else
    let a := byPc (g.splits.filter (fun sp => sp.unparked && !sp.isDemoted))
    let b := byPc (g.splits.filter (fun sp => sp.unparked && sp.isDemoted))
    let boost := (a.filter (fun sp => sp.boosted)).take splitPlaces
    boost ++ (a.filter (fun sp => !sp.boosted) ++ b).take (splitPlaces - boost.length)

/-- The places that no boosted split holds: one that is boosted keeps its place until it has issued (R216). -/
def Group.freePlaces (g : Group) : Nat := splitPlaces - (g.splits.filter (fun sp => sp.boosted)).length

/-- A split is inside an instruction that has taken effect in part: a CANCEL and a save wait for its end (R126, R402). -/
def Split.inside (sp : Split) : Bool := match sp.park with
  | .drain _ | .gqTaken _ _ _ _ _ | .sealCopy _ => true
  | .spawn _ _ m _ _ | .gqpush _ _ m _ _ _ | .hstw _ _ m _ _ => decide (m ≠ 0)
  | _ => false

/-- A CANCEL keeps an open group that runs no handler from issuing, once no instruction must issue again to end (R126). -/
def Group.cancelWaits (g : Group) : Bool :=
  g.cancelPend && g.sealBuf.isNone && !g.inHandler && g.phase = .live && !g.splits.any (fun sp => sp.inside && !sp.park.drains)

/-- A CANCEL is due at a group's instruction boundary: the instructions that it has issued have ended (R126). -/
def Group.cancelDue (g : Group) : Bool := g.cancelWaits && !g.splits.any Split.inside

/-- A group issues at all: live, its start stamps performed (R255), no CANCEL ahead (R126, R405), and no instruction of it waiting
for seal-store units (R234). While its core holds 16 waiting traps of it a handler runs, and the handling split alone is eligible (R398). -/
def Device.groupOpen (d : Device) (g : Group) : Bool :=
  g.phase = .live && (d.unreached g.startWait).isEmpty && !g.cancelWaits && !g.sealStalled

/-- The ready eligible splits of a group. -/
def Device.readySplits (d : Device) (key : Nat) (g : Group) : List Split :=
  if d.groupOpen g && d.coreOn (key / 48) then g.eligible.filter (fun sp => d.splitReady key g sp) else []

/-- The team-urgency bit (R212): set in the live group of the team with the fewest completed phases, ties to the lowest
GROUPID. -/
def Device.urgent (d : Device) (g : Group) : Bool :=
  !d.groups.any (fun p => p.2.team = g.team && (decide (p.2.phases < g.phases) || (p.2.phases = g.phases && decide (p.2.gid < g.gid))))

/-! ### The choice (R211, R214, R217) -/

/-- A group has issued in a cycle. -/
def Group.issuedAt (g : Group) (cycle : Nat) : Bool := g.lastCycle ≠ 0 && g.lastCycle = cycle + 1

/-- A group has issued nothing for 2,048 cycles since its last issue, or since it was placed (R214). -/
def Group.starved (g : Group) (now : Nat) : Bool := decide (g.lastCycle + 2048 ≤ now + 1)

/-- What a core has issued in a cycle (R82). -/
def Device.issuedIn (d : Device) (now core : Nat) : CoreCycle :=
  let none' : CoreCycle := { cycle := now + 1, n := 0, first := false }
  match d.cycleIssues.get core with
  | some c => if c.cycle = now + 1 then c else none'
  | none => none'

/-- The groups that may issue in a cycle: they hold a ready eligible split, have not issued in the cycle, and fewer than four
groups of their core have (R82, R211). -/
def Device.issuable (d : Device) (now : Nat) : List (Nat × Group) :=
  d.groups.filter (fun p => !p.2.issuedAt now && !(d.readySplits p.1 p.2).isEmpty && decide ((d.issuedIn now (p.1 / 48)).n < 4))

/-- The slot of the group placed first of some; ties to the lower slot. -/
def oldest : List (Nat × Group) → Option (Nat × Group)
  | [] => none
  | p :: l =>
    match oldest l with
    | none => some p
    | some q => if q.2.placedAt < p.2.placedAt || (p.2.placedAt = q.2.placedAt && q.1 < p.1) then some q else some p

/-- The group that comes before every other of its core in a cycle: the oldest of those that have issued nothing for 2,048
cycles, once in a cycle (R214). -/
def Device.favoured (d : Device) (now core : Nat) : Option Nat :=
  if (d.issuedIn now core).first then none
  else (oldest ((d.issuable now).filter (fun p => p.1 / 48 = core && (p.2.boosted || p.2.starved now)))).map Prod.fst

/-- A group's claim on issue, greater first: the precedence of R214, effective priority, urgency, a ready split that is not
demoted, age, and the lower slot. -/
def Device.claim (d : Device) (now key : Nat) (g : Group) : List Nat :=
  let rs := d.readySplits key g
  let age := 2 ^ 64 - g.placedAt
  [if d.favoured now (key / 48) = some key then 1 else 0, d.effPrio key g, if d.urgent g then 1 else 0,
   if rs.any (fun sp => !sp.isDemoted) then 1 else 0, age, 47 - key % 48]

/-- One claim comes before another. -/
def claimLt : List Nat → List Nat → Bool
  | a :: l, b :: m => decide (a < b) || (a = b && claimLt l m)
  | _, _ => false

/-- The key with the greatest claim. -/
def Device.best (d : Device) (now : Nat) : List (Nat × Group) → Option (Nat × Group)
  | [] => none
  | p :: l =>
    match d.best now l with
    | none => some p
    | some q => if claimLt (d.claim now p.1 p.2) (d.claim now q.1 q.2) then some q else some p

/-- The split of a group that issues: not demoted before demoted, round-robin after the one that issued last (R217). The round goes
by the lowest lane of L, an order that the spec does not give (DESIGN CHOICE, log entry 54). -/
def Group.pick (g : Group) (rs : List Split) : Option Split :=
  let fresh := rs.filter (fun sp => !sp.isDemoted)
  let pool := if fresh.isEmpty then rs else fresh
  let sorted := pool.foldr insertSplit []
  match sorted.find? (fun sp => decide (g.lastIssued < sp.low)) with
  | some sp => some sp
  | none => sorted.head?

/-- The split that issues when nothing else is due: on a core that has a ready group, the group by R211 and its split by
R217. Which core moves is free. -/
def State.choose (s : State) : Option SplitRef :=
  let now := s.plat.cycles.toNat
  let d := s.dev
  let ready := d.issuable now
  let cores := (ready.map (fun p => p.1 / 48)).dedup
  match cores with
  | [] => none
  | c0 :: _ =>
    let c := if cores.length = 1 then c0 else cores.getD (Config.freeNat s.tick 2 % cores.length) c0
    match d.best now (ready.filter (fun p => p.1 / 48 = c)) with
    | none => none
    | some (key, g) => (g.pick (d.readySplits key g)).map (fun sp => { core := c, slot := key % 48, lane := sp.low })

/-- A group or split that would come first is not ready in this cycle: its pipe or its operands are not (R82, R211). That is
timing, and a free choice. -/
def held (tick k : Nat) : Bool := Config.freeNat tick (2 ^ 16 + k) % 2 = 1

/-- A split may issue in its turn: it is ready and eligible in a group that may issue, and neither a group of its core nor a
split of its group that comes before it (R211, R214, R217) is ready. -/
def State.mayIssue (s : State) (x : View) : Bool :=
  let now := s.plat.cycles.toNat
  let d := s.dev
  let key := s.cur.key
  let rs := d.readySplits key x.g
  let all := d.issuable now
  rs.any (fun sp => sp.low = x.sp.low) && all.any (fun p => p.1 = key)
    && all.all (fun p => p.1 = key || p.1 / 48 ≠ s.cur.core || !claimLt (d.claim now key x.g) (d.claim now p.1 p.2) || held s.tick p.1)
    && rs.all (fun sp => sp.low = x.sp.low || after x.g sp x.sp || held s.tick (2 ^ 16 + sp.low))
where
  /-- Of two splits of a group the second issues first. -/
  after (g : Group) (a b : Split) : Bool := g.pick [a, b] = some b

/-! ### What a step counts -/

/-- Split entries on chip (R215). -/
def onChip : Nat := 8

/-- The on-chip entries of the highest PCs that are not eligible leave while more than eight lie on chip, and the fill of
eligible entries that are spilled begins (R215). A spilled entry holds 0, and one more than the cycle its fill began. -/
def Group.spill (g : Group) (now : Nat) : Group :=
  let el := g.eligible.map Split.low
  let extra := (g.splits.filter (fun sp => sp.spilled.isNone)).length - onChip
  let out := (((byPc (g.splits.filter (fun sp => sp.spilled.isNone && !el.contains sp.low))).reverse).take extra).map Split.low
  { g with splits := g.splits.map (fun sp =>
      if out.contains sp.low then { sp with spilled := some 0, home := [] }
      else if el.contains sp.low && sp.spilled = some 0 then { sp with spilled := some (now + 1) }
      else sp) }

/-- A split qualifies for a place (R216): it is ready and not demoted, and has not been eligible for 1,024 cycles. -/
def Device.qualifies (d : Device) (now key : Nat) (g : Group) (sp : Split) : Bool :=
  !sp.boosted && !sp.isDemoted && d.unwaiting key g sp && !g.eligible.any (fun q => q.low = sp.low)
    && sp.eligibleAt.any (fun c => decide (c + 1024 ≤ now))

/-- The splits that take places in a cycle: as many of those that qualify as there are places no boosted split holds, those of
the lowest PCs first (DESIGN CHOICE, log entry 54). -/
def Device.newlyBoosted (d : Device) (now key : Nat) (g : Group) : List Nat :=
  ((byPc (g.splits.filter (d.qualifies now key g))).take g.freePlaces).map Split.low

/-- What issue choice remembers of the splits (R216): when each was last eligible, and which have taken places. -/
def Device.seeSplits (d : Device) (now key : Nat) (g : Group) : Group :=
  let el := g.eligible.map Split.low
  let new := d.newlyBoosted now key g
  { g with splits := g.splits.map (fun sp =>
      if el.contains sp.low || sp.eligibleAt.isNone then { sp with eligibleAt := some now }
      else if new.contains sp.low then { sp with boosted := true } else sp) }

/-- A split whose instruction waits for drain stamps: it ends once they are performed, whatever handler of its group runs, and the
split's spin record notes what it writes (R121, R219, R255, R272). -/
def Device.drainEnd (d : Device) (key low : Nat) : Device :=
  match d.groups.get key with
  | none => d
  | some g =>
    match g.splitAt low with
    | none => d
    | some sp =>
      match sp.park with
      | .drain w =>
        if (d.unreached w.stamps).isEmpty then
          let y := w.written { g, sp }
          (if w.acquire then d.order (key / 48) .acq .dev else d).putGroup key (y.g.put low [y.sp.noteWrites false g y.g []])
        else d
      | _ => d

/-- Every instruction whose drain stamps are performed ends. -/
def Device.drainsEnd (d : Device) : Device :=
  d.groups.foldl (fun d p => (p.2.splits.filter (fun sp => sp.park.drains)).foldl (fun d sp => d.drainEnd p.1 sp.low) d) d

/-- The group in a slot, spilled and seen, with the entries that lie off chip in its block as they stand (R215, R397). -/
def Device.tendGroup (d : Device) (e : Env) (key : Nat) : Device :=
  match d.groups.get key with
  | none => d
  | some g =>
    let now := e.plat.cycles.toNat
    let g1 := g.spill now
    let p := Device.entriesOut e g1 g1.splits d
    p.1.putGroup key (p.1.seeSplits now key { g1 with splits := p.2 })

/-- What the device does before each step whatever comes: split entries off chip are what memory holds, its caches and TLBs keep
to their sizes, no core's seal store stays deadlocked, what errors have ended settles, instructions whose drain stamps are
performed end, and split entries are spilled and filled. -/
def Device.attend (d0 : Device) (e : Env) : Device :=
  let d := d0.entriesBack e
  let d1 := ((({ d with privUsed := false, touches := [] }.cachesSettle e.tick).sealSettle e).owedSettle e).drainsEnd
  (d1.groups.map Prod.fst).foldl (fun d k => d.tendGroup e k) d1

/-- The DTIME at which a split's wait first issued; 0 for a split that does not wait. -/
def Split.waitsFrom (sp : Split) (start : W64) : W64 := if sp.park.idle then 0 else start

/-- A split that yields to the others sees one of them issue (R118). -/
def Split.sawIssue (low : Nat) (sp : Split) : Split :=
  match sp.park with
  | .yieldAll since others => { sp with park := .yieldAll since (others.filter (fun k => k ≠ low)) }
  | .spawn f recs placed since others => { sp with park := .spawn f recs placed since (others.filter (fun k => k ≠ low)) }
  | .gqpush f rows entered act since others => { sp with park := .gqpush f rows entered act since (others.filter (fun k => k ≠ low)) }
  | _ => sp

/-- What an issued instruction leaves in the group it issued from: the issue counts (R211, R214, R421), and the spin records
of the issuing split's successors (R218). -/
def Group.issued (i : Instr) (x : View) (now : Nat) (time : W64) (g : Group) : Group :=
  let mine : Split → Bool := fun sp => (sp.l &&& x.sp.l) ≠ 0
  { g with
    lastIssued := x.sp.low, lastCycle := now + 1, boosted := false
    splits := g.splits.map (fun sp => if mine sp then { sp.spun i now x g with boosted := false, wstart := sp.waitsFrom ((x.sp.rewait.map Prod.snd).getD time), rewait := none, issued := none, queued := none }
      else sp.sawIssue x.sp.low) }

/-- The instruction found that it must wait: it has not issued (R211). -/
def Group.waited (g : Group) (x : View) : Bool := g.splits.any (fun sp => (sp.l &&& x.sp.l) ≠ 0 && (match sp.park with
  | .stall _ => true
  | _ => false))

/-- Bookkeeping of the issuing group after its instruction. -/
def State.noteIssued (i : Instr) (s0 s1 : State) : State :=
  match s0.issuer with
  | none => s1
  | some x =>
    let s := s1.withDev (s1.dev.stick x.g.team false)
    let k := s0.cur.core * 16 + x.g.ctx
    let now := s0.plat.cycles.toNat
    let c := s0.dev.issuedIn now s0.cur.core
    let mine (g : Group) : Bool := g.guid = x.g.guid
    let waited : Bool := match s.dev.groups.get s0.cur.key with
      | some g => mine g && g.waited x
      | none => false
    if waited then s
    else
      { s with dev := { (s.dev.l1Mark (s.dev.urgent x.g)) with
          issues := s.dev.issues.set k ((s.dev.issues.get k).getD 0 + 1)
          cycleIssues := s.dev.cycleIssues.set s0.cur.core
            { c with n := c.n + 1, first := c.first || s0.dev.favoured now s0.cur.core = some s0.cur.key }
          groups := s.dev.groups.upd s0.cur.key (fun g =>
            if mine g then g.issued i x s.plat.cycles.toNat s.plat.dtime else g) } }

/-! ### Fetch and decode (R59 to R61) -/

/-- What the fetch at the issuing split's program counter gives: the device with the pages touched and the instruction,
or ILLOP for what is none; a fetch fault; or a wait. -/
inductive Fetched
  | instr (d : Device) (i : Instr)
  | wait (why : Stall)
  deriving DecidableEq, Repr

/-- Fetch and decode at the issuing split's program counter. -/
def State.fetch (s : State) (x : View) : Fetched :=
  match s.dev.fetch s.plat s.tick x.g.ctx s.cur.core x.sp.pc with
  | .error (.fault code det va ts) => .instr (s.dev.retouch ts) (.fetchFault code det va)
  | .error m => .wait m.stall
  | .ok (d, ws) =>
    match decode ws with
    | .ok i => .instr d i
    | .error _ => .instr d .illop

/-! ### A group at its start (R15, R22, R28) -/

/-- The RNG states VSEED would give the lanes of a group whose lane 0 is number `base` of its team (R28, R164). -/
def seedLanes (seed : W64) (base width : Nat) : SMap 64 :=
  (List.range width).map (fun l => (l, nonzeroState (seedMix seed (base + l))))

/-- A group at its start: one split of some lanes at its code, arguments in s0 to s5, every other register zero. -/
def Group.fresh (ctx guid team gid width nreg : Nat) (pc : W64) (lanes : Nat) (args : List W32) (seed tvec : W64)
    (prio : Nat) : Group :=
  { ctx, guid, team, gid, width, nreg, v := []
    s := (args.zip (List.range 6)).foldl (fun m p => SMap.set m p.2 p.1) []
    h := [], wBase := [], wSize := [], q := [], rng := seedLanes seed (gid * width) width, fx := 0, rmode := 0
    seed, tvec, prio, swarm := 0, result := 0, task := none, block := 0, inHandler := false, waiting := []
    cancelPend := false, splits := [Split.start pc (laneMask lanes) (laneMask lanes)], lastIssued := 96, lastCycle := 0
    boosted := false, inflight := [], writes := 0, phases := 0, placedAt := 0, sealBuf := none
    phase := .live, startWait := [], usedGq := false, touchedPriv := false }

/-- A row of the table that has no encoding: an event of the device. -/
def isEvent (i : Instr) : Bool := (encode i).isEmpty && i ≠ .illop && (match i with
  | .fetchFault _ _ _ => false
  | _ => true)

end Sys2Proof.Machine
end

