-- ==== Sys2Proof/Machine/CopyEngine.lean ====
section
/-! DEFINITION. The copy engine: the descriptors of CPY and CPYDN (R295, R334), the places of their elements, and the
movement of elements in element order (R297, R335). -/

namespace Sys2Proof.Machine

/-! ### Descriptors -/

/-- The fields of a CPY descriptor (R295). -/
def CpyDesc.ofWords (l : List W64) : CpyDesc :=
  let w (k : Nat) : W64 := l.getD k 0
  { src := w 0, dst := w 1, x0 := ((w 2).extractLsb' 0 32).toNat, x1 := ((w 2).extractLsb' 32 32).toNat
    x2 := ((w 3).extractLsb' 0 32).toNat, esz := ((w 3).extractLsb' 32 3).toNat, ssp := (w 3).getLsbD 35
    dsp := (w 3).getLsbD 36, ss1 := ((w 4).extractLsb' 0 32).toInt, ss2 := ((w 4).extractLsb' 32 32).toInt
    ds1 := ((w 5).extractLsb' 0 32).toInt, ds2 := ((w 5).extractLsb' 32 32).toInt, ben := (w 3).getLsbD 39
    bar := ((w 3).extractLsb' 40 7).toNat, fut := w 6 }

/-- A reserved bit of a CPY descriptor is set, the upper words of scratchpad offsets included (R295). -/
def cpyReserved (l : List W64) : Bool :=
  let w (k : Nat) : W64 := l.getD k 0
  (w 7 ≠ 0) || (w 3).extractLsb' 47 17 ≠ 0 || (w 3).extractLsb' 37 2 ≠ 0
    || ((w 3).getLsbD 35 && (w 0).extractLsb' 32 32 ≠ 0) || ((w 3).getLsbD 36 && (w 1).extractLsb' 32 32 ≠ 0)

/-- The fields of a CPYDN descriptor (R334), over a region with its configuration. -/
def DnDesc.ofWords (region : Nat) (config : W64) (l : List W64) : DnDesc :=
  let w (k : Nat) : W64 := l.getD k 0
  { region, config, dst := w 0, ds1 := ((w 1).extractLsb' 0 32).toInt, ds2 := ((w 1).extractLsb' 32 32).toInt
    ds3 := ((w 2).extractLsb' 0 32).toInt, dsp := (w 2).getLsbD 32, absent := (w 2).getLsbD 33, ben := (w 2).getLsbD 34
    bar := ((w 2).extractLsb' 35 7).toNat, fut := w 3
    c := (List.range 4).map (fun k => ((w (4 + k / 2)).extractLsb' (32 * (k % 2)) 32).toNat)
    n := (List.range 4).map (fun k => ((w (6 + k / 2)).extractLsb' (32 * (k % 2)) 32).toNat) }

/-- A reserved bit of a CPYDN descriptor is set (R334). -/
def dnReserved (l : List W64) : Bool :=
  (l.getD 2 0).extractLsb' 42 22 ≠ 0 || ((l.getD 2 0).getLsbD 32 && (l.getD 0 0).extractLsb' 32 32 ≠ 0)

/-! ### Elements -/

/-- The offsets from a base of the corners of a box: extents with their strides. -/
def corners : List (Nat × Int) → List Int
  | [] => [0]
  | (n, st) :: l => (corners l).flatMap (fun o => [o, o + (n - 1 : Int) * st])

/-- The offset of element k, dimension 0 fastest. -/
def boxOffset : List (Nat × Int) → Nat → Int
  | [], _ => 0
  | (n, st) :: l, k => (k % n : Nat) * st + boxOffset l (k / n)

/-- Elements of a box. -/
def boxCount (l : List (Nat × Int)) : Nat := l.foldl (fun a p => a * p.1) 1

/-- Bytes of an element of a CPY. -/
def CpyDesc.size (c : CpyDesc) : Nat := 2 ^ c.esz

/-- The source box of a CPY. -/
def CpyDesc.srcBox (c : CpyDesc) : List (Nat × Int) := [(c.x0, (c.size : Int)), (c.x1, c.ss1), (c.x2, c.ss2)]

/-- The destination box of a CPY. -/
def CpyDesc.dstBox (c : CpyDesc) : List (Nat × Int) := [(c.x0, (c.size : Int)), (c.x1, c.ds1), (c.x2, c.ds2)]

/-- The destination box of a CPYDN over values of some bytes. -/
def DnDesc.dstBox (c : DnDesc) (vw : Nat) : List (Nat × Int) :=
  [(c.n.getD 0 0, (vw : Int)), (c.n.getD 1 0, c.ds1), (c.n.getD 2 0, c.ds2), (c.n.getD 3 0, c.ds3)]

/-- The coordinate of element k of a CPYDN. -/
def DnDesc.coord (c : DnDesc) (k : Nat) : List Nat :=
  let n (j : Nat) : Nat := c.n.getD j 1
  [c.c.getD 0 0 + k % n 0, c.c.getD 1 0 + k / n 0 % n 1, c.c.getD 2 0 + k / (n 0 * n 1) % n 2,
   c.c.getD 3 0 + k / (n 0 * n 1 * n 2)]

/-- The region of a CPYDN as its issue found it. -/
def DnDesc.shape (c : DnDesc) : Region := Region.ofConfig c.region c.config

/-- Elements of a copy, and the bytes of each. -/
def Copy.shape (c : Copy) : Nat × Nat :=
  match c.kind with
  | .cpy k => (boxCount k.srcBox, k.size)
  | .dn k => (boxCount (k.dstBox 1), k.shape.vw)

/-! ### Moving elements (R297, R335) -/

/-- The scratchpad place of an offset of a copy's team. -/
def Device.copySpad (d : Device) (core : Nat) (c : Copy) (off : Int) : Nat :=
  match c.team.bind d.teams.get with
  | some t => t.spadAt core off.toNat
  | none => off.toNat

/-- Read n bytes of a copy's side. Poison is met as a fault (R426). -/
def Device.copyRead (d : Device) (e : Env) (core : Nat) (c : Copy) (sp : Bool) (a : Int) (n : Nat) :
    Except Miss (Device × List Byte) :=
  if sp then .ok (d, d.spadRead (d.copySpad core c a) n)
  else
    match d.load e.plat e.tick c.ctx (Agent.copier core) true (BitVec.ofInt 64 a) n with
    | .error m => .error m
    | .ok (d1, l, bad) => if bad then .error (.fault 0x0D 4 (BitVec.ofInt 64 a) d1.touches) else .ok (d1, l)

/-- Write the bytes of one element to a copy's destination. -/
def Device.copyWrite (d : Device) (e : Env) (core : Nat) (c : Copy) (sp : Bool) (a : Int) (l : List Byte) : Except Miss Device :=
  if sp then .ok (d.spadWrite c.ctx (d.copySpad core c a) l)
  else d.write e.plat e.tick c.ctx (Agent.copier core) true (BitVec.ofInt 64 a) l

/-- The bytes of element k of a CPY: as they stood before the copy, or as the copy has left them, which is unspecified
where the sides overlap (R297). -/
def Device.cpyElem (d0 d : Device) (e : Env) (core : Nat) (c : Copy) (k : CpyDesc) (j : Nat) : Except Miss (Device × List Byte) :=
  let a : Int := k.src.toNat + boxOffset k.srcBox j
  match d.copyRead e core c k.ssp a k.size with
  | .error m => .error m
  | .ok (d1, now) =>
    match d0.copyRead e core c k.ssp a k.size with
    | .error _ => .ok (d1, now)
    | .ok (_, old) => .ok (d1, if old = now then now else if Config.freeNat e.tick (j + 16) % 2 = 0 then old else now)

/-- The bytes of element j of a CPYDN: the value at its coordinate, or what stands for a missing one (R335). A region that
was released or defined anew has no entries for the copy; a malformed cell is BOUNDS with detail 3 (R333). -/
def Device.dnElem (d : Device) (e : Env) (c : Copy) (k : DnDesc) (j : Nat) : Except Miss (Device × List Byte) :=
  let r := k.shape
  let missing := if k.absent then r.absent else 0
  if (d.comb c.ctx k.region).config ≠ k.config then .ok (d, natToBytes r.vw missing)
  else
    match d.combGet e c.ctx r (r.key (k.coord j)) with
    | .ok (d1, v) => .ok (d1, natToBytes r.vw (v.getD missing))
    | .error (.miss m) => .error m
    | .error (.full _) => .ok (d, natToBytes r.vw missing)
    | .error (.malformed a ts) => .error (.fault 0x11 3 a ts)

/-- Element j as the engine has read it, or reads it now: each element is read once. -/
def Device.copyGet (d0 d : Device) (e : Env) (core : Nat) (c : Copy) (j : Nat) : Except Miss (Device × List Byte) :=
  match c.seen.get j with
  | some l => .ok (d, l)
  | none =>
    match c.kind with
    | .cpy k => Device.cpyElem d0 d e core c k j
    | .dn k => d.dnElem e c k j

/-- Where element j of a copy goes: in scratchpad or not, and its address. -/
def Copy.place (c : Copy) (j : Nat) : Bool × Int :=
  match c.kind with
  | .cpy k => (k.dsp, k.dst.toNat + boxOffset k.dstBox j)
  | .dn k => (k.dsp, k.dst.toNat + boxOffset (k.dstBox c.shape.2) j)

/-- The team of a copy that has used a PRIV page keeps to its core (R402). -/
def Device.copySticks (d : Device) (c : Copy) : Device :=
  match c.team with
  | some t => d.stick t false
  | none => d

/-- Move element j. -/
def Device.copyElem (d0 d : Device) (e : Env) (core : Nat) (c : Copy) (j : Nat) : Except Miss Device :=
  match Device.copyGet d0 d e core c j with
  | .error m => .error m
  | .ok (d1, l) => (d1.copyWrite e core c (c.place j).1 (c.place j).2 l).map (fun d => d.copySticks c)

/-- Move some elements in element order, but for those already moved: the device, the first element not moved, and what
stopped the copy. -/
def Device.copyMove (d0 : Device) (e : Env) (core : Nat) (c : Copy) : Nat → Nat → Device → Device × Nat × Option Miss
  | 0, j, d => (d, j, none)
  | fuel + 1, j, d =>
    if c.moved.contains j then Device.copyMove d0 e core c fuel (j + 1) d
    else
      match Device.copyElem d0 d e core c j with
      | .error m => (d, j, some m)
      | .ok d1 => Device.copyMove d0 e core c fuel (j + 1) d1

/-- The copy's reads may begin: its stamp is performed at .dev, or at .team for a source in scratchpad (R257). -/
def Device.copyReady (d : Device) (c : Copy) : Bool := match c.stamp with
  | some s => (match c.kind with
    | .cpy k => if k.ssp then d.reachedCore s else d.reached s
    | .dn _ => d.reached s)
  | none => true

/-- A copy that stops before its end has written some of its elements (R290, R298). -/
def Device.copyPart (d : Device) (e : Env) (core : Nat) (c : Copy) : Device :=
  if d.copyReady c then
    (Device.copyMove d e core c (Config.freeNat e.tick 3 % (c.shape.1 + 1)) 0 d).1
  else d

/-! ### What the engine does between events (R297, R335) -/

/-- Replace a copy in flight. -/
def Device.setCopy (d : Device) (core : Nat) (c : Copy) : Device :=
  { d with copies := d.copies.upd core (fun l => l.map (fun b => if b.id = c.id then c else b)) }

/-- The engine reads element j, or writes it; one whose access fails is left to the copy's end. -/
def Device.copyNudge (d : Device) (e : Env) (core : Nat) (c : Copy) (wr : Bool) (j : Nat) : Device × Copy :=
  if c.moved.contains j then (d, c)
  else if wr then
    match Device.copyElem d d e core c j with
    | .ok d1 => (d1, { c with moved := j :: c.moved })
    | .error _ => (d, c)
  else
    match Device.copyGet d d e core c j with
    | .ok (d1, l) => (d1.copySticks c, { c with seen := c.seen.set j l })
    | .error _ => (d, c)

/-- The engine reads and writes some elements of a copy, which ones a free choice: reads and writes of elements are
unordered among themselves and against other accesses. -/
def Device.copyDrift (d : Device) (e : Env) (core : Nat) (c : Copy) : Nat → Device × Copy
  | 0 => (d, c)
  | n + 1 =>
    let k := 2 ^ 24 + 2 * n
    let p := d.copyDrift e core c n
    p.1.copyNudge e core p.2 (Config.freeNat e.tick k % 2 = 1) (Config.freeNat e.tick (k + 1) % c.shape.1)

/-- The elements that the engine has read are written (R395, step 2). -/
def Device.copyLand (d : Device) (e : Env) (core : Nat) (c : Copy) : Device × Copy :=
  (c.seen.map Prod.fst).foldl (fun p j => p.1.copyNudge e core p.2 true j) (d, c)

/-- Whom an error record of a copy names (R431). -/
def Copy.who (c : Copy) (core : Nat) : Who := { core, swarm := c.swarm }

/-- The copy engines go on. -/
def Device.copiesDrift (d : Device) (e : Env) : Device :=
  d.copies.foldl (fun d p => p.2.foldl (fun d c =>
    if c.shape.1 ≠ 0 && d.copyReady c then
      let q := d.copyDrift e p.1 c (Config.freeNat e.tick (2 ^ 23 + c.id) % (2 * c.shape.1 + 1))
      q.1.setCopy p.1 q.2
    else d) d) d

end Sys2Proof.Machine
end

