-- ==== Sys2Proof/Machine/Cancel.lean ====
section
/-! DEFINITION. Swarms as trees, their members, and cancellation (R287 to R291). -/

namespace Sys2Proof.Machine

/-! ### Trees and members (R288) -/

/-- Swarms of a context that are a given one or descend from it. -/
def Device.treeOf (d : Device) (ctx w : Nat) : List Nat :=
  match d.ctxs.get ctx with
  | some c => (c.swarms.map Prod.fst).filter (fun k => d.descends ctx w 4096 k)
  | none => []

/-- A record belongs to a swarm of a set. -/
def QRec.of (q : QRec) (ctx : Nat) (ws : List Nat) : Bool := q.ctx = ctx && ws.contains q.r.swarm.toNat

/-- Running groups of some swarms (R288). -/
def Device.swarmGroups (d : Device) (ctx : Nat) (ws : List Nat) : List (Nat × Group) :=
  d.groups.filter (fun p => p.2.ctx = ctx && p.2.swarm ≠ 0 && ws.contains p.2.swarm)

/-- A group runs a task of some swarms. -/
def Group.ofSwarms (g : Group) (ctx : Nat) (ws : List Nat) : Bool := g.ctx = ctx && g.swarm ≠ 0 && ws.contains g.swarm

/-- Saved groups of some swarms (R399). -/
def Device.swarmImages (d : Device) (ctx : Nat) (ws : List Nat) : List (Nat × Image) :=
  match d.ctxs.get ctx with
  | some c => c.images.filter (fun p => p.2.groups.any (fun g => g.ofSwarms ctx ws))
  | none => []

/-- Copies in flight of some swarms. -/
def Device.swarmCopies (d : Device) (ctx : Nat) (ws : List Nat) : List (Nat × Copy) :=
  d.copies.flatMap (fun p => (p.2.filter (fun c => c.ctx = ctx && c.swarm ≠ 0 && ws.contains c.swarm)).map (fun c => (p.1, c)))

/-- Engine entries of some swarms. -/
def Device.swarmEntries (d : Device) (ctx : Nat) (ws : List Nat) : List (Nat × Entry) :=
  d.entries.flatMap (fun p => (p.2.filter (fun t => t.ctx = ctx && t.swarm ≠ 0 && ws.contains t.swarm)).map (fun t => (p.1, t)))

/-- Records of a swarm in queues and held by the device. -/
def Device.swarmRecords (d : Device) (ctx : Nat) (ws : List Nat) : Nat :=
  ((d.local_.flatMap Prod.snd).filter (fun q => q.of ctx ws)).length
    + (match d.ctxs.get ctx with
      | some c => (c.backing.filter (fun q => q.of ctx ws)).length
      | none => 0)
    + ((d.heldPush.filter (fun h => h.cell.isNone && h.q.of ctx ws)).length)
    + ((d.heldSealed.filter (fun h => h.q.of ctx ws)).length)

/-- The member count of a swarm (R288). -/
def Device.members (d : Device) (ctx w : Nat) : Nat :=
  d.swarmRecords ctx [w] + (d.swarmGroups ctx [w]).length + (d.swarmImages ctx [w]).length + (d.swarmCopies ctx [w]).length
    + (d.swarmEntries ctx [w]).length + (match d.swarm ctx w with
      | some s => s.parked
      | none => 0)

/-- A swarm has a child in use. -/
def Device.hasChild (d : Device) (ctx w : Nat) : Bool :=
  match d.ctxs.get ctx with
  | some c => c.swarms.any (fun p => p.2.parent = w)
  | none => false

/-! ### Ends of records and operations -/

/-- A record is discarded: its result future becomes CANCELLED (R264, R290). -/
def Device.discardRec (d : Device) (e : Env) (ag : Agent) (q : QRec) : Except Miss Device :=
  d.futEnd e q.ctx ag q.r.result 3 0 none false { swarm := q.r.swarm.toNat }

/-- A parked record leaves its cell: what it has been lent is no longer kept for it (R286). -/
def Device.unparked (d : Device) (ctx cell : Nat) : Device :=
  { d with parkedLends := d.parkedLends.filter (fun y => !(y.ctx = ctx && y.cell = cell)) }

/-- A parked record's cell returns to pool 0, and its swarm has one parked record fewer (R271, R288). -/
def Device.freeParked (d0 : Device) (e : Env) (ctx cell swarm : Nat) : Except Miss Device :=
  let d := d0.unparked ctx cell
  match d.cellFree e ctx 0 cell with
  | .error (.fault code det a ts) => .ok (((d.retouch ts).reportFault e ctx code det a).updSwarm ctx swarm (fun s => { s with parked := s.parked - 1 }))
  | .error m => .error m
  | .ok r => .ok (r.1.updSwarm ctx swarm (fun s => { s with parked := s.parked - 1 }))

/-- Do something for each element, until one of them must wait. -/
def eachDo {α : Type} (f : Device → α → Except Miss Device) : List α → Device → Except Miss Device
  | [], d => .ok d
  | a :: l, d =>
    match f d a with
    | .error m => .error m
    | .ok d1 => eachDo f l d1

/-- The futures of an engine entry that are not yet settled by it. -/
def Entry.futs (t : Entry) : List W64 :=
  match t.work with
  | .colq _ left => left.map LaneQuery.fut
  | .dyns w => (futOf w.fut).toList

/-- The future of a copy; 0 for none. -/
def Copy.fut (c : Copy) : W64 := match c.kind with
  | .cpy k => k.fut
  | .dn k => k.fut

/-- Whom an error record of an entry names (R431). -/
def Entry.who (t : Entry) : Who := { core := t.core, swarm := t.swarm }

/-- A copy leaves its engine. -/
def Device.dropCopy (d : Device) (core id : Nat) : Device :=
  { d with copies := d.copies.upd core (fun l => l.filter (fun c => c.id ≠ id)) }

/-- An entry leaves its engine. -/
def Device.dropEntry (d : Device) (key id : Nat) : Device :=
  { d with entries := d.entries.upd key (fun l => l.filter (fun t => t.id ≠ id)) }

/-- A copy is cancelled: its partial writes stay, it decrements nothing, and its future becomes CANCELLED (R298). -/
def Device.cancelCopy (d : Device) (e : Env) (p : Nat × Copy) : Except Miss Device :=
  ((d.copyPart e p.1 p.2).dropCopy p.1 p.2.id).futEnd e p.2.ctx (Agent.copier p.1) p.2.fut 3 0 none false (p.2.who p.1)

/-- A dynamics engine writes a word of a stepped body: its number from BODIES on, and its bytes. The body's first word to be
written finds the place of all of them (R353). -/
def Device.dynsWrite (d : Device) (e : Env) (cluster ctx : Nat) (w : DynsWork) (x : Nat × List Byte) : Except Miss (Device × DynsWork) :=
  let body := x.1 / 8
  let left : DynsWork := { w with due := w.due.filter (fun y => y.1 ≠ x.1) }
  let put (d : Device) (key : Nat) : Device := let p := unKey key; d.store p.1 (p.2 + 16 * (x.1 % 8)) x.2
  match w.opened.get body with
  | some key => .ok (put d key, left)
  | none =>
    match d.probeN e.plat e.tick ctx (Agent.engine cluster) .store false (w.bodies + BitVec.ofNat 64 (128 * body)) 64 with
    | .error m => .error m
    | .ok l =>
      let key := (l.map (fun t => spaceKey t.1.space t.1.pa)).headD 0
      .ok (put (d.touchAll (Agent.engine cluster) ctx .store l) key, { left with opened := w.opened.set body key })

/-- The words of stepped bodies that an entry has still to write. -/
def Entry.due (t : Entry) : AMap (List Byte) := match t.work with
  | .dyns w => w.due
  | .colq _ _ => []

/-- The bodies of which a step has written some words are written whole (R353). -/
def Device.dynsSettle (d : Device) (e : Env) (cluster ctx : Nat) (w : DynsWork) : Device × DynsWork :=
  (w.due.filter (fun x => (w.opened.get (x.1 / 8)).isSome)).foldl (fun p x =>
    match p.1.dynsWrite e cluster ctx p.2 x with
    | .ok q => q
    | .error _ => p) (d, w)

/-- An engine entry's work as it stops: bodies are either wholly stepped or untouched. -/
def Device.entryStops (d : Device) (e : Env) (cluster : Nat) (t : Entry) : Device :=
  match t.work with
  | .colq _ _ => d
  | .dyns w => (d.dynsSettle e cluster t.ctx w).1

/-- An engine entry is stopped, after the body it is writing (R353): its futures become CANCELLED (R290, step 5). -/
def Device.cancelEntry (d : Device) (e : Env) (p : Nat × Entry) : Except Miss Device :=
  eachDo (fun d f => d.futSettle e p.2.ctx (Agent.engine (p.1 % 8)) f 3 0 none false p.2.who) p.2.futs
    ((d.entryStops e (p.1 % 8) p.2).dropEntry p.1 p.2.id)

/-! ### Cancellation (R290) -/

/-- Step 2: the queued records of some swarms are discarded. -/
def Device.sweepQueues (d : Device) (e : Env) (ctx : Nat) (ws : List Nat) : Except Miss Device :=
  let mine : QRec → Bool := fun q => q.of ctx ws
  let gone := d.local_.flatMap (fun p => (p.2.filter mine).map (fun q => (Agent.core p.1, q)))
    ++ (match d.ctxs.get ctx with
      | some c => (c.backing.filter mine).map (fun q => (Agent.unit, q))
      | none => [])
    ++ ((d.heldPush.filter (fun h => mine h.q)).map (fun h => (Agent.unit, h.q)))
    ++ ((d.heldSealed.filter (fun h => mine h.q)).map (fun h => (Agent.core h.core, h.q)))
  let cells := d.heldPush.filterMap (fun h => if mine h.q then h.cell.map (fun c => (c, h.q.r.swarm.toNat)) else none)
  let d1 := { d with
    local_ := d.local_.mapV (fun _ l => l.filter (fun q => !mine q))
    heldPush := d.heldPush.filter (fun h => !mine h.q)
    heldSealed := d.heldSealed.filter (fun h => !mine h.q) }
  let d2 := d1.updCtx ctx (fun c => { c with backing := c.backing.filter (fun q => !mine q) })
  match eachDo (fun d (p : Agent × QRec) => d.discardRec e p.1 p.2) gone d2 with
  | .error m => .error m
  | .ok d3 => eachDo (fun d (p : Nat × Nat) => d.freeParked e ctx p.1 p.2) cells d3

/-- Steps 3 and 4: sealed groups that run abort; each open group has one CANCEL to take. -/
def Device.cancelGroups (d : Device) (e : Env) (ctx : Nat) (ws : List Nat) : Except Miss Device :=
  eachDo (fun d (p : Nat × Group) =>
    if p.2.phase = .committing then .ok d
    else if p.2.sealBuf.isSome then d.abort e p.1 p.2 .cancelled
    else .ok (d.putGroup p.1 { p.2 with cancelPend := true })) (d.swarmGroups ctx ws) d

/-- One watch reference: a future that is not settled and still names the swarm becomes CANCELLED (step 6), unless its task
commits (R222). A fault met
drops it with a record (R277). -/
def Device.sweepFuture (d : Device) (e : Env) (ctx w : Nat) (ref : W64) : Except Miss Device :=
  let f : W64 := ref.extractLsb' 0 53 ++ (0 : BitVec 4) |>.setWidth 64
  if refKind ref ≠ 3 then .ok d
  else
    match d.futLoad e ctx Agent.unit f with
    | .error (.fault code det a ts) => .ok ((d.retouch ts).reportFault e ctx code det a)
    | .error m => .error m
    | .ok (d1, x) => if x.unsettled && x.swarm = w && !d1.committing e ctx Agent.unit f x then d1.settle e ctx Agent.unit f x 3 0 none else .ok d1

/-- Walk a swarm's watch list, cancel its futures, and return its cells (step 6). -/
def Device.sweepWatch (d : Device) (e : Env) (ctx w : Nat) : Nat → Nat → Except Miss Device
  | 0, _ => .ok d
  | fuel + 1, c =>
    if c = 0 then .ok d
    else
      match d.atomicLoad e ctx Agent.unit ((d.pool ctx 0).cellAt c) 64 with
      | .error (.fault code det a ts) => .ok ((d.retouch ts).reportFault e ctx code det a)
      | .error m => .error m
      | .ok (d1, n) =>
        let ws := bytesToWords (natToBytes 64 n)
        match eachDo (fun d r => d.sweepFuture e ctx w r) (ws.take 7) d1 with
        | .error m => .error m
        | .ok d2 =>
          match d2.cellFree e ctx 0 c with
          | .error (.fault code det a ts) => .ok ((d2.retouch ts).reportFault e ctx code det a)
          | .error m => .error m
          | .ok r => r.1.sweepWatch e ctx w fuel ((ws.getD 7 0).extractLsb' 0 24).toNat

/-- Step 6 for one swarm. -/
def Device.sweepSwarm (d : Device) (e : Env) (ctx w : Nat) : Except Miss Device :=
  match d.swarm ctx w with
  | none => .ok d
  | some s => (d.updSwarm ctx w (fun s => { s with watch := 0 })).sweepWatch e ctx w chainFuel s.watch

/-- Cancel a swarm with its tree: steps 1 to 6. Only its own continuation is kept, and only when it goes from LIVE
(R289, R290). -/
def Device.cancelSwarm (d : Device) (e : Env) (ctx w cause : Nat) : Except Miss Device :=
  let ws := (d.treeOf ctx w).filter (fun k => match d.swarm ctx k with
    | some s => s.st = .live || s.st = .closed
    | none => false)
  let d1 := ws.foldl (fun d k => d.updSwarm ctx k (fun s =>
    { s with st := .cancelling, cause, root := w, expiry := if k = w && s.st = .live then s.expiry else none })) d
  match d1.sweepQueues e ctx ws with
  | .error m => .error m
  | .ok d2 =>
    match d2.cancelGroups e ctx ws with
    | .error m => .error m
    | .ok d3 =>
      match eachDo (fun d p => d.cancelEntry e p) (d3.swarmEntries ctx ws) d3 with
      | .error m => .error m
      | .ok d4 =>
        match eachDo (fun d p => d.cancelCopy e p) (d4.swarmCopies ctx ws) d4 with
        | .error m => .error m
        | .ok d5 =>
          let d6 := d5.updCtx ctx (fun c => { c with images := c.images.mapV (fun _ i =>
            if i.groups.any (fun g => g.ofSwarms ctx ws) then { i with cancel := true } else i) })
          eachDo (fun d k => d.sweepSwarm e ctx k) ws d6

/-- Queue a swarm's expiry continuation as a TASKS packet pushes a record (R290, step 8). A result that cannot be reached
leaves a record, and the continuation is queued all the same. -/
def Device.queueContinuation (d : Device) (e : Env) (ctx w : Nat) (s : Swarm) (cause : Nat) : Except Miss Device :=
  match s.expiry with
  | none => .ok d
  | some r =>
    let r := { r with
      swarm := BitVec.ofNat 16 s.parent, prio := BitVec.ofNat 8 s.prio, stamp := 0, stampOf := 0
      args := r.args.set 5 (BitVec.ofNat 32 (w + cause * 2 ^ 16)) }
    match (if r.result = 0 then .ok d else d.futClaim e ctx Agent.cp r.result 0x7FFF s.parent) with
    | .error (.fault code det a ts) => .ok (((d.retouch ts).reportFault e ctx code det a).pushDevice e none (QRec.mk' ctx r e.now))
    | .error m => .error m
    | .ok d1 => .ok (d1.pushDevice e none (QRec.mk' ctx r e.now))

end Sys2Proof.Machine
end

