-- ==== Sys2Proof/Machine/Control.lean ====
section
/-! DEFINITION. Class 1: branches and the routing of lanes, calls, SYNCS, EXIT, YIELD, WATCH, special-register moves,
TRAP and TRET (R107 to R126), and the two outcomes of a fetch that is no instruction (R59, R61). -/

namespace Sys2Proof.Machine

/-! ### Targets (R74, R75, R114) -/

/-- The target of a format B branch (R74). -/
def relTarget (pc : W64) (off : BitVec 24) : W64 := pc + (off.signExtend 64 <<< 2)

/-- The target of a way of BWAY (R75). -/
def wayTarget (pc : W64) (off : BitVec 16) : W64 := pc + (off.signExtend 64 <<< 2)

/-- Move the whole split. -/
def View.goto (x : View) (pc : W64) : View := { x with sp := { x.sp with pc } }

/-- MISALIGN of an indirect transfer: met by no lane, ADDR the target (R59, R122). -/
def misalignAt (x : View) (target : W64) : TrapReq := { code := 0x03, addr := target, lanes := x.sp.e }

/-- An indirect transfer: MISALIGN, or the view moved to the target (R114). -/
def indirect (x y : View) (target : W64) : Out :=
  if target.toNat % 4 ≠ 0 then .trap (misalignAt x target) else Out.view (y.goto target)

/-! ### Routing (R108) -/

/-- The lanes each way takes, lowest way first, and those left for the fall-through. -/
def routeLanes (x : View) : List (W64 × Nat) → Mask → List (W64 × Mask) × Mask
  | [], rest => ([], rest)
  | (a, t) :: l, rest =>
    let g := rest &&& x.triple t
    let r := routeLanes x l (rest &&& ~~~g)
    ((a, g) :: r.1, r.2)

/-- The lanes that go to a target: the OR of every set whose target it is. -/
def lanesTo (l : List (W64 × Mask)) (a : W64) : Mask := l.foldl (fun m p => if p.1 = a then m ||| p.2 else m) 0

/-- Routing (R108): the splits the issuing one becomes. `ways` are the present ways as (target, triple), and `ft` is the
fall-through. In a handler the issuing split runs on as the handling one, and each new split is held as every other is
(R121). A new split takes the spin record of the issuing one and is not demoted (log entry 45). -/
def View.route (x : View) (ways : List (W64 × Nat)) (ft : W64) : List Split :=
  let r := routeLanes x ways x.sp.e
  let sets := r.1 ++ [(ft, r.2)]
  let targets := ((sets.filter (fun p => p.2 ≠ 0)).map Prod.fst).dedup
  match targets with
  | [] => [{ x.sp with pc := ft }]
  | [a] => [{ x.sp with pc := a }]
  | _ =>
    let keep := if lanesTo sets ft ≠ 0 then ft else ((r.1.find? (fun p => p.2 ≠ 0)).map Prod.fst).getD ft
    let idle := x.sp.l &&& ~~~x.sp.e
    targets.map (fun a =>
      let e := lanesTo sets a
      if a = keep then { x.sp with pc := a, e, l := e ||| idle }
      else { Split.start a e e with
        clkHi := x.sp.clkHi, timHi := x.sp.timHi, spin := x.sp.spin })

/-! ### Branches (R110, R111) -/

/-- A branch whose condition is decided by the view. -/
def State.branch (s : State) (f : FmtB) (p : View → Bool) : Host.Outcome State Fault Refusal :=
  s.onView [] (fun x => Out.view (if p x then x.goto (relTarget x.sp.pc f.off) else x.next 8))

/-- BR (R110). -/
def execBr (f : FmtB) (s : State) := s.branch f (fun _ => true)

/-- The conditions of BRS (R110). -/
def brsCond (c : Nat) (a b : W32) : Bool :=
  match c with
  | 0 => a = b | 1 => a ≠ b | 2 => a.slt b | 3 => !a.slt b | 4 => a.ult b | 5 => !a.ult b | 6 => a = 0 | _ => a ≠ 0

/-- BRS (R110). -/
def execBrs (f : FmtB) (s : State) := s.branch f (fun x => brsCond f.cnd.toNat (x.s f.sa.toNat) (x.s f.sb.toNat))

/-- BRANY: taken when some active lane, or every one, lies in the triple; never with E = 0 (R110). -/
def execBrany (f : FmtB) (s : State) :=
  s.branch f (fun x =>
    if f.all then decide (x.sp.e ≠ 0) && decide (x.sp.e &&& ~~~x.triple f.tsel.toNat = 0)
    else decide (x.sp.e &&& x.triple f.tsel.toNat ≠ 0))

/-- BRV: routing with one way (R108, R110). -/
def execBrv (f : FmtB) (s : State) :=
  s.onView [] (fun x => .ok x.g (x.route [(relTarget x.sp.pc f.off, f.tsel.toNat)] (x.sp.pc + 8)))

/-- The present ways of BWAY, way 0 first (R75, R111). -/
def FmtW.ways (f : FmtW) (pc : W64) : List (W64 × Nat) :=
  ([(f.off0, f.sel0), (f.off1, f.sel1), (f.off2, f.sel2), (f.off3, f.sel3)].filter (fun p => p.1 ≠ 0)).map
    (fun p => (wayTarget pc p.1, p.2.toNat))

/-- BWAY (R108, R111). -/
def execBway (f : FmtW) (s : State) := s.onView [] (fun x => .ok x.g (x.route (FmtW.ways f x.sp.pc) (x.sp.pc + 12)))

/-- CALL (R110). -/
def execCall (f : FmtB) (s : State) :=
  s.onView [] (fun x => Out.view ((x.setPair f.sd.toNat (x.sp.pc + 8)).goto (relTarget x.sp.pc f.off)))

/-- JMP (R114). -/
def execJmp (a : SReg) (s : State) := s.onView [] (fun x => indirect x x (x.pair a.toNat))
/-- CALLI: the target is read before the link is written (R114). -/
def execCalli (d a : SReg) (s : State) :=
  s.onView [] (fun x => indirect x (x.setPair d.toNat (x.sp.pc + 4)) (x.pair a.toNat))
/-- RET (R114). -/
def execRet (a : SReg) (s : State) := s.onView [] (fun x => indirect x x (x.pair a.toNat))

/-! ### Group-level control (R116 to R119) -/

/-- SYNCS: the split parks; the group's last arrival releases all (R116). -/
def execSyncs (s : State) := s.onView [] (fun x => .ok x.g [{ x.sp with park := .syncs }])

/-- Remove lanes from the split (R117). -/
def exitLanes (x : View) (m : Mask) : Out :=
  let l := x.sp.l &&& ~~~m
  .ok x.g (if l = 0 then [] else [{ x.sp with l, e := x.sp.e &&& ~~~m, pc := x.sp.pc + 4 }])

/-- EXIT: the active lanes leave (R117). -/
def execExit (s : State) := s.onView [] (fun x => exitLanes x x.sp.e)
/-- EXIT.ALL: every lane of L leaves (R117). -/
def execExitAll (s : State) := s.onView [] (fun x => exitLanes x x.sp.l)

/-- The splits that a yielding split waits for: the others that are not demoted (R118). -/
def View.others (x : View) : List Nat := (x.g.splits.filter (fun sp => sp.low ≠ x.sp.low && !sp.isDemoted)).map Split.low

/-- YIELD until the others have issued, or 64 cycles (R118). -/
def View.yielded (x : View) (now : Nat) : View := { x with sp := { x.sp with park := .yieldAll now x.others } }

/-- What such a yield waits for has come: each of the others has issued or gone, or 64 cycles have passed (R118). -/
def View.yieldOver (x : View) (now since : Nat) (others : List Nat) : Bool :=
  decide (since + 64 ≤ now) || others.all (fun k => !x.g.splits.any (fun sp => sp.low = k && k ≠ x.sp.low))

/-- YIELD, I = 0 (R118). -/
def execYield (s : State) := s.onView [] (fun x => Out.view ((x.next 4).yielded s.plat.cycles.toNat))
/-- YIELD with a count; 0 acts as the other form (R118). -/
def execYieldImm (imm : BitVec 9) (s : State) :=
  s.onView [] (fun x =>
    if imm = 0 then Out.view ((x.next 4).yielded s.plat.cycles.toNat)
    else
      let y := x.next 4
      Out.view { y with sp := { y.sp with park := .yieldUntil (s.plat.cycles.toNat + imm.toNat) } })

/-- Monitors armed on a core (R119). -/
def Device.armed (d : Device) (core : Nat) : Nat := (d.monitors.filter (fun m => m.core = core)).length

/-- WATCH: the line's checks as a 1-byte load, then a monitor and a parked split, or status 2 (R119). -/
def execWatch (d a : SReg) (s : State) :=
  s.onDevice [] (fun e r dev x =>
    let va := x.pair a.toNat
    match dev.probeN e.plat e.tick x.g.ctx (Agent.core r.core) .load true va 1 with
    | .error (.fault code det addr ts) => .trap (dev.retouch ts) x.sp { code, detail := det, addr, lanes := x.sp.e }
    | .error m => .stall m.stall
    | .ok l =>
      let d1 := dev.touchAll (Agent.core r.core) x.g.ctx .load l
      if 32 ≤ d1.armed r.core then Res.view d1 r.key ((x.setS d.toNat 2).next 4)
      else
        let line := (l.map (fun t => lineKey t.1.space t.1.pa)).headD 0
        .done { d1 with monitors := d1.monitors ++ [{ core := r.core, slot := r.slot, lane := x.sp.low, line, hit := false }] }
          { x.sp with park := .watch d e.plat.cycles.toNat })

/-! ### Special registers (R29 to R35, R120) -/

/-- The swarm deadline as DEADLINE reads it: all ones when there is none (R29, R288). -/
def Device.deadlineReg (d : Device) (g : Group) : W64 :=
  let t := d.deadlineOf g.ctx 4097 g.swarm
  if t = 0 then 0xFFFFFFFFFFFFFFFF else BitVec.ofNat 64 t

/-- Read a special register; a read of a low clock or time word keeps the high word for the split (R29, R30). -/
def readSpecial (p : Platform) (r : SplitRef) (d : Device) (x : View) (k : Nat) : View × W32 :=
  let t := d.teamOf x.g
  let n (v : Nat) : View × W32 := (x, BitVec.ofNat 32 v)
  let lo (w : W64) : W32 := w.extractLsb' 0 32
  let hi (w : W64) : W32 := w.extractLsb' 32 32
  if k ≤ 0x00E then
    match k with
    | 0x000 => n x.g.width
    | 0x001 => n (x.g.gid * x.g.width)
    | 0x002 => n x.g.gid
    | 0x003 => n t.coord.1
    | 0x004 => n t.coord.2.1
    | 0x005 => n t.coord.2.2
    | 0x006 => n t.tdim
    | 0x007 => n t.grid.1
    | 0x008 => n t.grid.2.1
    | 0x009 => n t.grid.2.2
    | 0x00A => n r.core
    | 0x00B => n (r.core / 8)
    | _ => (x, maskWord x.sp.l (k - 0x00C))
  else if k ≤ 0x023 then
    match k with
    | 0x010 => ({ x with sp := { x.sp with clkHi := some (hi p.cycles) } }, lo p.cycles)
    | 0x011 => (x, x.sp.clkHi.getD (hi p.cycles))
    | 0x012 => ({ x with sp := { x.sp with timHi := some (hi p.dtime) } }, lo p.dtime)
    | 0x013 => (x, x.sp.timHi.getD (hi p.dtime))
    | 0x014 => n x.g.swarm
    | 0x016 => (x, lo (d.deadlineReg x.g))
    | 0x017 => (x, hi (d.deadlineReg x.g))
    | 0x018 => n (x.g.prio % 64 + d.effPrio r.key x.g % 64 * 256)
    | 0x019 => n x.g.ctx
    | 0x020 => let g := x.g.mergeFlags; ({ x with g }, g.fx.setWidth 32)
    | 0x021 => (x, x.g.rmode.setWidth 32)
    | 0x022 => (x, lo x.g.seed)
    | 0x023 => (x, hi x.g.seed)
    | _ => n 0
  else if k < 0x060 then (x, if k % 2 = 0 then x.g.wBase.get ((k - 0x040) / 2) else x.g.wSize.get ((k - 0x040) / 2))
  else if k < 0x0A0 then (x, (x.g.book ((k - 0x060) / 8)).extractLsb' (32 * (k % 8)) 32)
  else (x, (x.g.h.get ((k - 0x100) / 8)).extractLsb' (32 * (k % 8)) 32)

/-- A 256-bit register with one word replaced. -/
def setWord256 (v : BitVec 256) (j : Nat) (w : W32) : BitVec 256 :=
  (v &&& ~~~(0xFFFFFFFF#256 <<< (32 * j))) ||| (w.setWidth 256 <<< (32 * j))

/-- Write a special register (R29, R31 to R34). -/
def writeSpecial (g : Group) (k : Nat) (w : W32) : Group :=
  if k = 0x020 then { g.mergeFlags with fx := w.extractLsb' 0 7 }
  else if k = 0x021 then { g with rmode := w.extractLsb' 0 3 }
  else if k = 0x022 then { g with seed := g.seed.extractLsb' 32 32 ++ w }
  else if k = 0x023 then { g with seed := w ++ g.seed.extractLsb' 0 32 }
  else if k < 0x060 then
    (if k % 2 = 0 then { g with wBase := g.wBase.set ((k - 0x040) / 2) w } else { g with wSize := g.wSize.set ((k - 0x040) / 2) w })
  else
    let q := (k - 0x060) / 8
    { g with q := g.q.set q (setWord256 (g.q.get q) (k % 8) w) }

/-- SMOVR (R120). -/
def execSmovr (f : FmtSI) (s : State) :=
  s.onView [] (fun x =>
    let r := readSpecial s.plat s.cur s.dev x f.index
    Out.view ((r.1.setS f.sd.toNat r.2).next 12))

/-- SMOVW (R120). -/
def execSmovw (f : FmtSI) (s : State) :=
  s.onView [] (fun x =>
    Out.view (({ x with g := writeSpecial x.g f.index (if f.i then f.lit else x.s f.sa.toNat) } : View).next 12))

/-! ### Traps (R80, R123) -/

/-- TRAP raises its code, met by no lane (R80, R122). -/
def execTrap (i : BitVec 7) (s : State) := s.onView [] (fun x => .trap { code := 0x80 + i.toNat, lanes := x.sp.e })

/-- A word that is no instruction raises ILLOP at issue (R61). -/
def execIllop (s : State) := s.onView [] (fun x => .trap { code := 0x01, lanes := x.sp.e })

/-- A fetch that failed raises PAGEFLT, PROT, HOSTOWN or PRIVMISS, with ADDR the first word that met the code (R59). -/
def execFetchFault (code detail : Nat) (addr : W64) (s : State) :=
  s.onView [] (fun x => .trap { code, detail, addr, lanes := x.sp.e })

/-- TRET's effect: the frame read back, the held splits released, the next waiting trap taken (R123). A frame that cannot be
read is a trap inside the handler. -/
def Device.tret (d : Device) (e : Env) (key : Nat) (x : View) : Except Miss Device :=
  match d.frameRead e key x.g 0 96 with
  | .error (.fault code det a ts) => (d.retouch ts).raise e key x.g x.sp { code, detail := det, addr := a, lanes := x.sp.e }
  | .error m => .error m
  | .ok (d1, bytes) =>
    let at_ (o n : Nat) : Nat := bytesToNat ((bytes.drop o).take n)
    let resume : W64 := BitVec.ofNat 64 (at_ 8 8)
    if resume.toNat % 4 ≠ 0 then d.raise e key x.g x.sp (misalignAt x resume)
    else
      let g := x.g.restore (savedWords (bytes.drop 64))
      let sp := { x.sp with e := BitVec.ofNat 96 (at_ 48 12) &&& x.sp.l, pc := resume, handling := false }
      d1.released e key { g with splits := g.splits.map (fun y => if y.low = x.sp.low then sp else y) }

/-- TRET: ILLOP outside a handler (R123). -/
def execTret (s : State) : Host.Outcome State Fault Refusal :=
  match s.issuer with
  | none => .fault .noIssuer
  | some x =>
    if x.g.inHandler then s.close x (s.dev.tret s.env s.cur.key x)
    else s.close x (s.dev.raise s.env s.cur.key x.g x.sp { code := 0x01, lanes := x.sp.e })

end Sys2Proof.Machine
end

