-- ==== Sys2Proof/Machine/Tasks.lean ====
section
/-! DEFINITION. Tasks, futures and swarms: SPAWN and JREC, the instructions on futures, the instructions on swarms
(R263 to R292). -/

namespace Sys2Proof.Machine

/-! ### Reading records (R263, R270) -/

/-- The checks of one load of a descriptor, and its bytes as the group reads them once its pages are touched (R386); poison is
SPADUE (R426). -/
def Device.descRun (d : Device) (e : Env) (core : Nat) (g : Group) (align n : Nat) (a : W64) : Except Miss (Run × List Byte) :=
  match d.laneRun e g.ctx (Agent.core core) .load true align n a.toNat with
  | .error m => .error m
  | .ok l =>
    let ag := Agent.core core
    let d1 := d.touchAll ag g.ctx .load l
    if d1.poisonRun ag l then .error (.fault 0x0D 4 (d1.poisonFirst ag l) d1.touches) else .ok (l, d1.groupRead ag g l)

/-- The pages of a descriptor are touched and its sectors filled. -/
def Device.descTouch (d : Device) (core ctx : Nat) (l : Run) : Device :=
  l.foldl (fun d t => d.fillAt (Agent.core core) t.1 t.2.1) (d.touchAll (Agent.core core) ctx .load l)

/-- A record as read: its pages, its words with the issuer's swarm under .inh. -/
structure RecRead where
  run : Run
  words : List W64
  deriving DecidableEq, Repr

/-- The record. -/
def RecRead.task (r : RecRead) : TaskRec := TaskRec.ofWords r.words

/-- The checks of a future's address as an atomic (R277). -/
def Device.futRun (d : Device) (e : Env) (core ctx : Nat) (f : W64) : Except Miss Run :=
  d.laneRun e ctx (Agent.core core) .atomic false 16 16 f.toNat

/-- The checks of a RESULT or FUT field: none when it is zero. -/
def Device.resultOk (d : Device) (e : Env) (core ctx : Nat) (f : W64) : Except Miss Unit :=
  if f = 0 then .ok () else (d.futRun e core ctx f).map (fun _ => ())

/-- Read a record as SPAWN does (R270). -/
def Device.readRecord (d : Device) (e : Env) (core : Nat) (g : Group) (inh : Bool) (a : W64) : Except Miss RecRead :=
  match d.descRun e core g 64 64 a with
  | .error m => .error m
  | .ok (l, bytes) =>
    let ws := bytesToWords bytes
    let w3 := ws.getD 3 0
    let r : RecRead := { run := l, words := if inh then ws.set 3 (w3 &&& ~~~0xFFFF#64 ||| BitVec.ofNat 64 (g.swarm % 65536)) else ws }
    match d.resultOk e core g.ctx r.task.result with
    | .error m => .error m
    | .ok () => .ok r

/-- The device once the records at some addresses are read, where the checks of one or of a RESULT field fail, or poison is met:
each one whose own load passes its checks is read, and its pages are touched (R270, R386). -/
def Device.recordsRead (d : Device) (e : Env) (core : Nat) (g : Group) (l : List W64) : Device :=
  (l.filterMap (fun a => (d.laneRun e g.ctx (Agent.core core) .load true 64 64 a.toNat).toOption)).foldl
    (fun d r => d.descTouch core g.ctx r) d

/-- A record's RESULT becomes PENDING, produced by a queued record (R270). -/
def Device.claimResult (d : Device) (e : Env) (core ctx : Nat) (r : TaskRec) : Except Miss Device :=
  if r.result = 0 then .ok d else d.futClaim e ctx (Agent.core core) r.result 0x7FFF r.swarm.toNat

/-- Push a record whose RESULT is taken first: whether it was placed (R270). -/
def Device.place (d : Device) (e : Env) (core ctx : Nat) (r : TaskRec) : Except Miss (Device × Bool) :=
  match d.claimResult e core ctx r with
  | .error m => .error m
  | .ok d1 =>
    (d1.pushLocal e core (QRec.mk' ctx r e.now)).map (fun o => match o with
      | some d2 => (d2, true)
      | none => (d1, false))

/-- An operation of the device as a lane performs it. -/
def laneOf {α : Type} : Except Miss α → Except LaneErr α
  | .ok a => .ok a
  | .error m => .error m.lane

/-! ### SPAWN (R270) -/

/-- SPAWN in a sealed group: each lane's record kept in 3 units, in an unspecified order (R270, R292). -/
def spawnSealed (e : Env) (r : SplitRef) (d : Device) (x : View) (b : SealBuf) (l : List (Nat × RecRead)) : Res :=
  d.sealTake r.core x b ((anyOrder e.tick l).foldl (fun b p => b.push (.spawn p.2.task) 3) b) (fun y => Res.view d r.key (y.next 8))

/-- SPAWN in an open group: the lanes' records pushed, in an unspecified order. -/
def spawnOpen (e : Env) (r : SplitRef) (d : Device) (x : View) (f : FmtT) (act : Mask) (l : List (Nat × RecRead)) : Res :=
  let recs := l.map (fun p => (p.1, { p.2.task with stamp := x.g.writes, stampOf := x.g.guid }))
  match eachLane (fun d (t : TaskRec) => laneOf (d.place e r.core x.g.ctx t)) (anyOrder e.tick recs)
      (d.order r.core .rel .dev) with
  | .error w => .stall w
  | .ok (d1, done, fs) =>
    match worstTrap fs with
    | some t => .trap d1 x.sp t
    | none =>
      let placed := maskOfLanes ((done.filter (fun p => p.2)).map Prod.fst)
      if f.t then Res.view d1 r.key ((x.writeT act f.sd.toNat placed).next 8)
      else
        let left := recs.filter (fun p => !placed.getLsbD p.1)
        if left = [] then Res.view d1 r.key (x.next 8)
        else .done d1 { x.sp with park := .spawn f left placed e.plat.cycles.toNat x.others }

/-- SPAWN (R270, R292). -/
def execSpawn (f : FmtT) (s : State) :=
  s.access (.spawn f) 8 f.ms (fun e r d x act =>
    if x.g.sealBuf.isSome && f.t then everyLane x act 0x07 0 d
    else
      let at_ := x.g.vpair f.va.toNat
      (sumChecks ((lanesOf act).map (fun l => (l, d.readRecord e r.core x.g (f.opt = 1) (at_ l))))).run
        (d.recordsRead e r.core x.g ((lanesOf act).map at_)) x (fun l =>
        let d1 := l.foldl (fun d p => d.descTouch r.core x.g.ctx p.2.run) d
        match x.g.sealBuf with
        | some b => spawnSealed e r d1 x b l
        | none => spawnOpen e r d1 x f act l))

/-! ### JREC (R271) -/

/-- An instruction ends, or holds what it is to write until drain stamps are performed (R255, R272). -/
def drainThen (r : SplitRef) (d : Device) (x : View) (w : DrainWait) : Res :=
  match d.unreached w.stamps with
  | [] => Res.view (if w.acquire then d.order r.core .acq .dev else d) r.key (w.written x)
  | ls => .done d { x.sp with park := .drain { w with stamps := ls } }

/-- The 64 bytes of a parked record: reserved fields zero (R6), JOIN as it stands, no registration yet, and the core that
parked it. -/
def parkedBytes (words : List W64) (core : Nat) : List Byte :=
  let w3 := words.getD 3 0 &&& 0x00FFFFFF0FFFFFFF#64
  let w4 := (words.getD 4 0).toNat % 2 ^ 32 + core % 64 * 2 ^ 48
  wordsToBytes (words.take 3 ++ [w3]) ++ natToBytes 8 w4 ++ wordsToBytes (words.drop 5)

/-- Key of a parked cell's count of firings. -/
def firedKey (ctx cell : Nat) : Nat := ctx * 2 ^ 24 + cell

/-- What a record's result future has been lent as the record is parked with it (R286); 0 for nothing. -/
def Device.lentThrough (d : Device) (e : Env) (core ctx : Nat) (f : W64) : Nat :=
  match d.futLoad e ctx (Agent.core core) f with
  | .ok (_, y) => if y.unsettled && y.prio ≠ 63 then y.prio else 0
  | .error _ => 0

/-- A record is parked in a cell: what is lent through its result is kept for it (R286). -/
def Device.parkedAt (d : Device) (e : Env) (core ctx cell : Nat) (f : W64) : Device :=
  let d1 := d.unparked ctx cell
  if f = 0 then d1
  else { d1 with parkedLends :=
    { ctx, cell, home := d.futHome e ctx (Agent.core core) f, prio := d.lentThrough e core ctx f } :: d1.parkedLends }

/-- Park a record in a cell of pool 0 and take its RESULT: the cell, or none when the pool is exhausted (R271, R276). -/
def Device.parkRecord (d : Device) (e : Env) (core ctx : Nat) (r : RecRead) : Except Miss (Device × Option Nat) :=
  let t := r.task
  if !(d.pool ctx 0).defd then .ok (d, none)
  else
    match d.cellAlloc e ctx 0 with
    | .error m => .error m
    | .ok (_, none) => .ok (d, none)
    | .ok (d1, some c) =>
      match d1.atomicStore e ctx Agent.unit ((d1.pool ctx 0).cellAt c) 64 (bytesToNat (parkedBytes r.words core)) with
      | .error m => .error m
      | .ok d2 =>
        match d2.claimResult e core ctx t with
        | .error m => .error m
        | .ok d3 =>
          .ok ({ ((d3.parkedAt e core ctx c t.result).updSwarm ctx t.swarm.toNat (fun s => { s with parked := s.parked + 1 })) with
            joinFired := d3.joinFired.erase (firedKey ctx c) }, some c)

/-- JREC past its checks; a record with JOIN 0 that finds both queues full is held as a device push (log entry 19). It ends, and
writes SD, once every write that its group has made is performed at .dev (R272). -/
def jrecOpen (e : Env) (r : SplitRef) (d : Device) (x : View) (f : FmtT) (q : RecRead) : Res :=
  let finish (d : Device) (v : W32) : Res :=
    drainThen r d x { stamps := [{ guid := x.g.guid, count := x.g.writes }], acquire := false, s := [(f.sd.toNat, v)], v := [] }
  let t := q.task
  if t.join = 0 then
    let t := { t with stamp := x.g.writes, stampOf := x.g.guid }
    match d.place e r.core x.g.ctx t with
    | .error (.fault c det a ts) => .trap (d.retouch ts) x.sp { code := c, detail := det, addr := a, lanes := x.sp.e }
    | .error m => .stall m.stall
    | .ok (d1, true) => finish d1 0
    | .ok (d1, false) => finish (d1.pushDevice e (some r.core) (QRec.mk' x.g.ctx t e.now)) 0
  else
    match d.parkRecord e r.core x.g.ctx q with
    | .error (.fault c det a ts) => .trap (d.retouch ts) x.sp { code := c, detail := det, addr := a, lanes := x.sp.e }
    | .error m => .stall m.stall
    | .ok (d1, some c) => finish d1 (BitVec.ofNat 32 c)
    | .ok (_, none) => finish d 0xFFFFFFFF

/-- JREC (R271, R272). -/
def execJrec (f : FmtT) (s : State) :=
  s.access (.jrec f) 8 f.ms (fun e r d x act =>
    if x.g.sealBuf.isSome then everyLane x act 0x07 0 d
    else
      match d.readRecord e r.core x.g (f.opt = 1) (x.pair f.sa.toNat) with
      | .error (.fault c det a _) =>
        .trap (d.recordsRead e r.core x.g [x.pair f.sa.toNat]) x.sp { code := c, detail := det, addr := a, lanes := x.sp.e }
      | .error m => .stall m.stall
      | .ok q =>
        jrecOpen e r ((d.descTouch r.core x.g.ctx q.run).order r.core .rel .dev) x f q)

/-! ### Futures by lane (R277) -/

/-- The lanes' operations on their futures: the checks, then each lane's operation, in an unspecified order (R173, R277). -/
def futLanes {β : Type} (e : Env) (r : SplitRef) (d : Device) (x : View) (f : FmtT) (act : Mask)
    (op : Device → Nat × W64 → Except LaneErr (Device × β)) (fin : Device → List (Nat × β) → Res) : Res :=
  let reqs := (lanesOf act).map (fun l => (l, l, x.g.vpair f.va.toNat l))
  (sumChecks (reqs.map (fun p => (p.1, d.futRun e r.core x.g.ctx p.2.2)))).run d x (fun l =>
    let d1 := l.foldl (fun d p => d.touchAll (Agent.core r.core) x.g.ctx .atomic p.2) d
    match eachLane op (anyOrder e.tick reqs) d1 with
    | .error w => .delay w
    | .ok (d2, bs, fs) =>
      match worstTrap fs with
      | some t => .trap d2 x.sp t
      | none => fin d2 bs)

/-- Producer tag of a group slot (R274). -/
def groupTag (key : Nat) : Nat := key + 1

/-- The lanes whose operation answered true. -/
def trueLanes (l : List (Nat × Bool)) : Mask := maskOfLanes ((l.filter (fun p => p.2)).map Prod.fst)

/-- Write the status triple of a .t form. -/
def View.status (x : View) (f : FmtT) (act m : Mask) : View := if f.t then x.writeT act f.sd.toNat m else x

/-- One lane's FNEW: whether it initialised the future; a PENDING one with a wait chain stays as it is (R278, R280). -/
def Device.futNew (d : Device) (e : Env) (r : SplitRef) (g : Group) (f : FmtT) (a : W64) : Except Miss (Device × Bool) :=
  let ag := Agent.core r.core
  match d.futTouch e g.ctx ag a with
  | .error m => .error m
  | .ok (d1, y) =>
    if y.st = 1 && y.wait ≠ 0 then .ok (d1, false)
    else
      (d1.futStore e g.ctx ag a
        { value := 0, st := 1, prio := 63, wait := 0, prod := if f.opt.getLsbD 0 then 0 else groupTag r.key
          swarm := if f.opt.getLsbD 1 then 0 else g.swarm }).map (fun d => (d, true))

/-- FNEW (R280): SEALOP in a sealed task (R292). -/
def execFnew (f : FmtT) (s : State) :=
  s.access (.fnew f) 8 f.ms (fun e r d x act =>
    if x.g.sealBuf.isSome then everyLane x act 0x07 0 d
    else
      futLanes e r d x f act (fun d p => laneOf (d.futNew e r x.g f p.2))
        (fun d l => Res.view d r.key ((x.status f act (trueLanes l)).next 8)))

/-- One lane's FRES: status 0 resolved, 2 cancelled before, and the state that makes a duplicate (R281). -/
def Device.resolve (d : Device) (e : Env) (ag : Agent) (g : Group) (a v : W64) : Except Miss (Device × Nat × Nat) :=
  match d.futTouch e g.ctx ag a with
  | .error m => .error m
  | .ok (d1, y) =>
    if y.unsettled then
      (d1.settle e g.ctx ag a y 2 v (some { guid := g.guid, count := g.writes })).map (fun d => (d, 0, 0))
    else if y.st = 2 || y.st = 4 then .ok (d1, 1, y.st)
    else .ok (d1, 2, 0)

/-- FRES in an open group: every lane completes, then FUTDUP for the lanes that found a future resolved or faulted. -/
def fresOpen (e : Env) (r : SplitRef) (d : Device) (x : View) (f : FmtT) (act : Mask) : Res :=
  futLanes e r (d.order r.core .rel .dev) x f act
    (fun d p => laneOf (d.resolve e (Agent.core r.core) x.g p.2 (x.g.vpair f.vb.toNat p.1)))
    (fun d l =>
      let y := x.status f act (trueLanes (l.map (fun p => (p.1, p.2.1 = 0))))
      let dup := (l.filter (fun p => p.2.1 = 1)).map (fun p => (p.1, 0x09, p.2.2, x.g.vpair f.va.toNat p.1))
      match worstTrap dup with
      | some t => .trap (d.commit r.key y) y.sp t
      | none => Res.view d r.key (y.next 8))

/-- FRES (R281): a sealed task keeps each lane's value in 1 unit, in an unspecified order (R277, R292). -/
def execFres (f : FmtT) (s : State) :=
  s.access (.fres f) 8 f.ms (fun e r d x act =>
    match x.g.sealBuf with
    | none => fresOpen e r d x f act
    | some b =>
      if f.t then everyLane x act 0x07 0 d
      else
        (sumChecks ((lanesOf act).map (fun l => (l, d.futRun e r.core x.g.ctx (x.g.vpair f.va.toNat l))))).run d x (fun l =>
          let b' := (anyOrder e.tick l).foldl (fun b p => b.push (.fres (x.g.vpair f.va.toNat p.1) (x.g.vpair f.vb.toNat p.1)) 1) b
          d.sealTake r.core x b b' (fun y => Res.view d r.key (y.next 8))))

/-- One lane's FCAN: whether the future was unsettled, and so is CANCELLED now (R282); of a swarm under cancellation too, by
FCAN itself (log entry 18). The result of a sealed task past its commit point stays as it is (R222, R259). -/
def Device.futCancel (d : Device) (e : Env) (ag : Agent) (ctx : Nat) (a : W64) : Except Miss (Device × Bool) :=
  match d.futLoad e ctx ag a with
  | .error m => .error m
  | .ok (d1, y) =>
    if y.unsettled && !d1.committing e ctx ag a y then (d1.settle e ctx ag a y 3 0 none).map (fun d => (d, true))
    else .ok (d1, false)

/-- FCAN (R282). -/
def execFcan (f : FmtT) (s : State) :=
  s.access (.fcan f) 8 f.ms (fun e r d x act =>
    if x.g.sealBuf.isSome then everyLane x act 0x07 0 d
    else
      futLanes e r d x f act (fun d p => laneOf (d.futCancel e (Agent.core r.core) x.g.ctx p.2))
        (fun d l => Res.view d r.key ((x.status f act (trueLanes l)).next 8)))

/-! ### FREG (R283) -/

/-- The word of a parked cell that counts its registrations, and whether there is room for one more: fewer futures are
registered than its record was to wait for. -/
def Device.regCell (d : Device) (e : Env) (ctx c : Nat) : Except Miss (Device × Nat × Bool) :=
  (d.atomicLoad e ctx Agent.unit ((d.pool ctx 0).cellAt c + 32) 8).map (fun p =>
    (p.1, p.2, decide (p.2 / 2 ^ 32 % 2 ^ 16 < p.2 / 2 ^ 16 % 2 ^ 16 + (d.joinFired.get (firedKey ctx c)).getD 0)))

/-- Append a join reference to an unsettled future's chain: whether a cell was there for it. -/
def Device.joinAppend (d : Device) (e : Env) (ctx : Nat) (ag : Agent) (a : W64) (y : Fut) (c : Nat) : Except Miss (Device × Bool) :=
  match d.chainAppend e ctx y.wait (joinRef c) with
  | .error m => .error m
  | .ok (d1, none) => .ok (d1, false)
  | .ok (d1, some h) =>
    match d1.futStore e ctx ag a { y with st := 1, wait := h } with
    | .error m => .error m
    | .ok d2 => if y.wait = 0 && y.swarm ≠ 0 then (d2.watchJoin e ctx y.swarm a).map (fun d => (d, true)) else .ok (d2, true)

/-- One lane's FREG: whether the registration succeeded, which the parked cell then counts. -/
def Device.register (d : Device) (e : Env) (ctx : Nat) (ag : Agent) (a : W64) (c : Nat) : Except Miss (Device × Bool) :=
  match d.regCell e ctx c with
  | .error m => .error m
  | .ok (d1, _, false) => .ok (d1, false)
  | .ok (d1, n, true) =>
    match d1.futTouch e ctx ag a with
    | .error m => .error m
    | .ok (d2, y) =>
      match (if y.unsettled then d2.joinAppend e ctx ag a y c
             else .ok (d2.fireRef ctx (if y.st = 2 then d2.futStamp (d2.futHome e ctx ag a) else none) (joinRef c), true)) with
      | .ok (d3, true) =>
        (d3.atomicStore e ctx Agent.unit ((d.pool ctx 0).cellAt c + 32) 8 (n + 2 ^ 32)).map (fun d => (d, true))
      | r => r

/-- FREG (R283): an index outside pool 0 is BOUNDS. -/
def execFreg (f : FmtT) (s : State) :=
  s.access (.freg f) 8 f.ms (fun e r d x act =>
    if x.g.sealBuf.isSome then everyLane x act 0x07 0 d
    else
      let p0 := d.pool x.g.ctx 0
      let idx (l : Nat) : Nat := (x.v f.vb.toNat l).toNat
      let bad : List (Nat × Except Miss Run) := (lanesOf act).map (fun l => (l,
        match d.futRun e r.core x.g.ctx (x.g.vpair f.va.toNat l) with
        | .ok q => if 1 ≤ idx l && p0.defd && decide (idx l < p0.count) then .ok q else .error (.fault 0x11 0 0 [])
        | .error m => .error m))
      match worstTrap (faultsOf bad) with
      | some t => .trap d x.sp t
      | none =>
        futLanes e r d x f act (fun d p => laneOf (d.register e x.g.ctx (Agent.core r.core) p.2 (idx p.1)))
          (fun d l => Res.view d r.key ((x.writeT act f.sd.toNat (trueLanes l)).next 8)))

/-! ### FWAIT and FPOLL (R284, R285) -/

/-- STATE and VALUE as FWAIT and FPOLL report them: a reserved state as FAULTED with value 0 (R277). -/
def Fut.report (y : Fut) : Nat × W64 := if 5 ≤ y.st then (4, 0) else (y.st, y.value)

/-- The stamps not yet performed of the futures that some lanes read RESOLVED (R255). -/
def Device.lateStamps (d : Device) (e : Env) (core ctx : Nat) (l : List (W64 × Fut)) : List Stamp :=
  d.unreached (l.filterMap (fun p => if p.2.st = 2 then d.futStamp (d.futHome e ctx (Agent.core core) p.1) else none))

/-- What FWAIT and FPOLL write for a lane's future: VB to VB+2, or VB+2 alone where it has not settled (R284, R285). -/
def futWrites (vb : Nat) (p : Nat × W64 × Fut) : List (Nat × Nat × W32) :=
  let y := p.2.2.report
  (if p.2.2.unsettled then [] else [(vb, p.1, y.2.extractLsb' 0 32), (vb + 1, p.1, y.2.extractLsb' 32 32)])
    ++ [(vb + 2, p.1, BitVec.ofNat 32 y.1)]

/-- The end of an FPOLL, and of an FWAIT whose futures have all settled: the wait for their stamps, then the acquire and the
results. -/
def futEndWait (e : Env) (r : SplitRef) (d : Device) (x : View) (f : FmtT) (l : List (Nat × W64 × Fut)) : Res :=
  drainThen r d x { stamps := d.lateStamps e r.core x.g.ctx (l.map Prod.snd), acquire := l.any (fun p => p.2.2.st = 2), s := []
                    v := l.flatMap (futWrites f.vb.toNat) }

/-- Lend the split's effective priority to each pending future (R286). -/
def lendAll (e : Env) (key : Nat) (d : Device) (x : View) (fs : List W64) : Except Miss Device :=
  eachDo (fun d f => Device.lend e (d.effPrio key x.g) 8 d x.g.ctx (Agent.core (key / 48)) f) fs d

/-- Append a wake reference to a pending future: whether pool 0 had no cell for it (R284). -/
def Device.wakeOn (d : Device) (e : Env) (r : SplitRef) (ctx token : Nat) (a : W64) : Except Miss (Device × Bool) :=
  let ag := Agent.core r.core
  match d.futLoad e ctx ag a with
  | .error m => .error m
  | .ok (d1, y) =>
    match d1.chainAppend e ctx y.wait (wakeRef r.core r.slot token) with
    | .error m => .error m
    | .ok (d2, none) => .ok (d2, true)
    | .ok (d2, some h) =>
      match d2.futStore e ctx ag a { y with wait := h } with
      | .error m => .error m
      | .ok d3 => if y.wait = 0 && y.swarm ≠ 0 then (d3.watchJoin e ctx y.swarm a).map (fun d => (d, false)) else .ok (d3, false)

/-- Park a split in FWAIT on some futures. -/
def fwaitPark (e : Env) (r : SplitRef) (d : Device) (x : View) (f : FmtT) (l : List (Nat × W64 × Fut)) : Res :=
  let pend := ((l.filter (fun p => p.2.2.unsettled)).map (fun p => p.2.1)).dedup
  let token := e.tick % 65536
  match lendAll e r.key d x pend with
  | .error m => .delay m.stall
  | .ok d1 =>
    let lanes := (anyOrder e.tick pend).map (fun a => (((l.find? (fun p => p.2.1 = a)).map Prod.fst).getD 0, a))
    match eachLane (fun d a => laneOf (d.wakeOn e r x.g.ctx token a)) lanes d1 with
    | .error w => .delay w
    | .ok (d2, bs, fs) =>
      match worstTrap fs with
      | some t => .trap d2 x.sp t
      | none => .done d2 { x.sp with
          park := .fwait f (bs.any (fun p => p.2)) false e.plat.cycles.toNat, token := BitVec.ofNat 16 token }

/-- The .y form: lend, yield, and go to the SB target with nothing written (R284). -/
def fwaitYield (e : Env) (r : SplitRef) (d : Device) (x : View) (f : FmtT) (l : List (Nat × W64 × Fut)) : Res :=
  let target := x.pair f.sb.toNat
  if target.toNat % 4 ≠ 0 then .trap d x.sp (misalignAt x target)
  else
    match lendAll e r.key d x ((l.filter (fun p => p.2.2.unsettled)).map (fun p => p.2.1)).dedup with
    | .error m => .delay m.stall
    | .ok d1 => Res.view d1 r.key ((x.goto target).yielded e.plat.cycles.toNat)

/-- The lanes' futures, each touched (R290, step 6). -/
def futReport (e : Env) (core : Nat) (x : View) (d : Device) (p : Nat × W64) : Except LaneErr (Device × W64 × Fut) :=
  laneOf ((d.futTouch e x.g.ctx (Agent.core core) p.2).map (fun r => (r.1, p.2, r.2)))

/-- FWAIT (R284). -/
def execFwait (f : FmtT) (s : State) :=
  s.access (.fwait f) 8 f.ms (fun e r d x act =>
    if x.g.sealBuf.isSome && f.opt = 1 then everyLane x act 0x07 0 d
    else
      futLanes e r d x f act (futReport e r.core x) (fun d l =>
        if l.all (fun p => !p.2.2.unsettled) then futEndWait e r d x f l
        else if f.opt = 1 then fwaitYield e r d x f l
        else fwaitPark e r d x f l))

/-- FPOLL (R285). Its reads of futures are no loads of R219: it notes no line (DESIGN CHOICE, log entry 54). -/
def execFpoll (f : FmtT) (s : State) :=
  s.access (.fpoll f) 8 f.ms (fun e r d x act =>
    futLanes e r d x f act (futReport e r.core x) (fun d l => futEndWait e r d x f l))

/-! ### Swarms (R287, R289) -/

/-- Identifiers 1 to 65,535 beginning after one, cyclically. -/
def Ctx.nextSwarm (c : Ctx) : Option Nat :=
  go c.swarms 65535 (c.lastSwarm % 65535 + 1)
where
  /-- The first identifier of a run that is not in use. -/
  go (m : AMap Swarm) : Nat → Nat → Option Nat
    | 0, _ => none
    | fuel + 1, k => if (m.get k).isNone then some k else go m fuel (k % 65535 + 1)

/-- A swarm descriptor's swarm (R287), without its continuation. -/
def Swarm.ofDesc (w1 w2 : W64) : Swarm :=
  { st := .live, parent := (w1.extractLsb' 0 16).toNat, deadline := w2, aval := w1.getLsbD 31, arst := w1.getLsbD 30
    arena := (w1.extractLsb' 24 6).toNat, prio := (w1.extractLsb' 16 8).toNat, expiry := none, cause := 0, watch := 0
    parked := 0 }

/-- SWNEW's conditions (R287). -/
def Device.swarmOk (d : Device) (ctx : Nat) (s : Swarm) : Bool :=
  match d.ctxs.get ctx with
  | none => false
  | some c => decide (c.swarms.length < 4096) && d.swarmOpen ctx s.parent && decide (s.prio ≤ 47)
      && (!s.aval || (s.arena ≠ 0 && (c.pool s.arena).defd))

/-- Enter a new swarm and write its identifier. -/
def swarmEnter (r : SplitRef) (d : Device) (x : View) (f : FmtT) (s : Swarm) : Res :=
  match (d.ctxs.get x.g.ctx).bind Ctx.nextSwarm with
  | none => Res.view d r.key ((x.setS f.sd.toNat 0).next 8)
  | some k =>
    let d1 := d.updCtx x.g.ctx (fun c => { c with swarms := c.swarms.set k s, lastSwarm := k })
    Res.view d1 r.key ((x.setS f.sd.toNat (BitVec.ofNat 32 k)).next 8)

/-- SWNEW (R287): the continuation's record is read as SPAWN reads one, its RESULT taken with it (R270, R361). -/
def execSwnew (f : FmtT) (s : State) :=
  s.access (.swnew f) 8 f.ms (fun e r d x act =>
    if x.g.sealBuf.isSome then everyLane x act 0x07 0 d
    else
      match d.descRun e r.core x.g 32 32 (x.pair f.sa.toNat) with
      | .error (.fault c det a ts) => .trap (d.retouch ts) x.sp { code := c, detail := det, addr := a, lanes := x.sp.e }
      | .error m => .stall m.stall
      | .ok (l, bytes) =>
        let ws := bytesToWords bytes
        let d1 := d.descTouch r.core x.g.ctx l
        let sw := Swarm.ofDesc (ws.getD 1 0) (ws.getD 2 0)
        if !d.swarmOk x.g.ctx sw then Res.view d1 r.key ((x.setS f.sd.toNat 0).next 8)
        else if ws.getD 0 0 = 0 then swarmEnter r d1 x f sw
        else
          match d1.readRecord e r.core x.g false (ws.getD 0 0) with
          | .error (.fault c det a _) =>
            .trap (d1.recordsRead e r.core x.g [ws.getD 0 0]) x.sp { code := c, detail := det, addr := a, lanes := x.sp.e }
          | .error m => .stall m.stall
          | .ok q =>
            let d2 := d1.descTouch r.core x.g.ctx q.run
            match d2.claimResult e r.core x.g.ctx q.task with
            | .error (.fault c det a ts) => .trap (d2.retouch ts) x.sp { code := c, detail := det, addr := a, lanes := x.sp.e }
            | .error m => .stall m.stall
            | .ok d3 => swarmEnter r d3 x f { sw with expiry := some q.task })

/-- The swarm that a register names: none when bits [31:16] are not zero or it is not in use (R289). -/
def Device.namedSwarm (d : Device) (ctx : Nat) (v : W32) : Option (Nat × Swarm) :=
  if v.toNat ≥ 65536 then none else (d.swarm ctx v.toNat).map (fun s => (v.toNat, s))

/-- A swarm instruction on a state where it acts: SD 0 and its effect; else SD 1 (R289). The registers are in place before
the effect, which may reach the issuing group. -/
def State.swarmOp (s : State) (i : Instr) (f : FmtT) (acts : Swarm → Bool)
    (effect : Env → Device → View → Nat → Swarm → Except Miss Device) : Host.Outcome State Fault Refusal :=
  s.access i 8 f.ms (fun e r d x act =>
    if x.g.sealBuf.isSome then everyLane x act 0x07 0 d
    else
      match d.namedSwarm x.g.ctx (x.s f.sa.toNat) with
      | none => Res.view d r.key ((x.setS f.sd.toNat 1).next 8)
      | some (k, sw) =>
        if acts sw then
          let y := (x.setS f.sd.toNat 0).next 8
          match effect e (d.commit r.key y) x k sw with
          | .error m => .stall m.stall
          | .ok d1 => .done d1 y.sp
        else Res.view d r.key ((x.setS f.sd.toNat 1).next 8))

/-- SWDL: a LIVE swarm's deadline (R289). -/
def execSwdl (f : FmtT) (s : State) :=
  s.swarmOp (.swdl f) f (fun w => w.st = .live)
    (fun _ d x k _ => .ok (d.updSwarm x.g.ctx k (fun w => { w with deadline := x.pair f.sb.toNat })))

/-- SWCAN: a LIVE or CLOSED swarm is cancelled (R289, R290). -/
def execSwcan (f : FmtT) (s : State) :=
  s.swarmOp (.swcan f) f (fun w => w.st = .live || w.st = .closed) (fun e d x k _ => d.cancelSwarm e x.g.ctx k 0)

/-- SWEND .close: a LIVE swarm is closed (R289). -/
def execSwendClose (f : FmtT) (s : State) :=
  s.swarmOp (.swendClose f) f (fun w => w.st = .live)
    (fun _ d x k _ => .ok (d.updSwarm x.g.ctx k (fun w => { w with st := .closed, deadline := 0 })))

/-- SWEND .run: a LIVE swarm is closed and its continuation is queued with cause 2 (R289, R290). -/
def execSwendRun (f : FmtT) (s : State) :=
  s.swarmOp (.swendRun f) f (fun w => w.st = .live)
    (fun e d x k w => (d.updSwarm x.g.ctx k (fun w => { w with st := .closed, deadline := 0, expiry := none })).queueContinuation e x.g.ctx k w 2)

end Sys2Proof.Machine
end

