-- ==== Sys2Proof/Machine/Copies.lean ====
section
/-! DEFINITION. Copies: the checks and the issue of CPY and CPYDN, and the two ends of a copy (R295 to R300, R334, R335). -/

namespace Sys2Proof.Machine

/-! ### Checks (R296, R335) -/

/-- A fault of a check: code and address. -/
abbrev CopyCheck := Option (Nat × W64)

/-- The first of some checks that fails. -/
def firstCheck : List CopyCheck → CopyCheck
  | [] => none
  | some p :: _ => some p
  | none :: l => firstCheck l

/-- A check that fails with a code and an address. -/
def failsWith (b : Bool) (code : Nat) (a : W64) : CopyCheck := if b then some (code, a) else none

/-- A barrier that a descriptor may not name: beyond the block, or in a task (R296, R300). -/
def barBad (t : Team) (task ben : Bool) (bar : Nat) : Bool := ben && (task || decide (t.bars.length ≤ bar))

/-- Every element of a scratchpad side lies within the allocation (R296, step 4). -/
def spadBox (t : Team) (base : W64) (box : List (Nat × Int)) (es : Nat) : Bool :=
  boxCount box = 0 || (corners box).all (fun o => decide (0 ≤ base.toNat + o) && decide (base.toNat + o + es ≤ t.spSize))

/-- The addresses of the first and the last element of a side. -/
def boxEnds (base : W64) (box : List (Nat × Int)) : List Int :=
  if boxCount box = 0 then [] else [(base.toNat : Int), base.toNat + boxOffset box (boxCount box - 1)]

/-- Bits [63:57] of a side's first and last element are zero (R296, step 5). -/
def endsBad (base : W64) (box : List (Nat × Int)) : CopyCheck :=
  match (boxEnds base box).find? (fun a => a < 0 || decide (2 ^ 57 ≤ a)) with
  | some a => some (0x05, BitVec.ofInt 64 a)
  | none => none

/-- Steps 2 to 5 of R296 but for FUT, on the words of a descriptor. -/
def cpyCheck (t : Team) (task : Bool) (ws : List W64) (c : CpyDesc) : CopyCheck :=
  let es : Int := c.size
  firstCheck [
    failsWith (decide (4 < c.esz) || cpyReserved ws || decide (2 ^ 40 - 1 < c.size * boxCount c.srcBox)
      || barBad t task c.ben c.bar) 0x11 0,
    failsWith (decide (c.src.toNat % es ≠ 0)) 0x03 c.src,
    failsWith (decide (c.dst.toNat % es ≠ 0)) 0x03 c.dst,
    failsWith ([c.ss1, c.ss2, c.ds1, c.ds2].any (fun st => decide (st % es ≠ 0))) 0x03 0,
    failsWith ((c.ssp && !spadBox t c.src c.srcBox c.size) || (c.dsp && !spadBox t c.dst c.dstBox c.size)) 0x11 0,
    if c.ssp then none else endsBad c.src c.srcBox,
    if c.dsp then none else endsBad c.dst c.dstBox]

/-- A CPYDN's box leaves the extents of its region (R24, R335). -/
def DnDesc.leaves (c : DnDesc) (r : Region) : Bool := (List.range 4).any (fun k => decide (2 ^ r.e < c.c.getD k 0 + c.n.getD k 0))

/-- The checks of a CPYDN descriptor over a region, but for its box (R335): alignment is that of the width that covers a value (R181). -/
def dnCheck (t : Team) (task : Bool) (ws : List W64) (r : Region) (c : DnDesc) : CopyCheck :=
  let al : Int := (r.cover / 8 : Nat)
  let box := c.dstBox r.vw
  firstCheck [
    failsWith (dnReserved ws || decide (2 ^ 40 - 1 < r.vw * boxCount box)
      || (List.range 4).any (fun k =>
          decide (r.rank ≤ k) && decide ((c.c.getD k 0, c.n.getD k 0) ≠ (0, 1)))
      || barBad t task c.ben c.bar) 0x11 0,
    failsWith (decide (c.dst.toNat % al ≠ 0)) 0x03 c.dst,
    failsWith ([c.ds1, c.ds2, c.ds3].any (fun st => decide (st % al ≠ 0))) 0x03 0,
    failsWith (c.dsp && !spadBox t c.dst box r.vw) 0x11 0,
    if c.dsp then none else endsBad c.dst box]

/-- A copy into global memory or with a future is not for a sealed task (R300). -/
def CopyKind.sealBad : CopyKind → Bool
  | .cpy c => !c.dsp || decide (c.fut ≠ 0)
  | .dn c => !c.dsp || decide (c.fut ≠ 0)

/-! ### The ends of a copy (R297, R298) -/

/-- The barrier a copy decrements. -/
def Copy.barrier (c : Copy) : Option (Nat × Nat) :=
  match c.kind, c.team with
  | .cpy k, some t => if k.ben then some (t, k.bar) else none
  | .dn k, some t => if k.ben then some (t, k.bar) else none
  | _, none => none

/-- A split parked until a copy ends goes on (R300). -/
def Device.endSealCopy (d : Device) (core id : Nat) : Device :=
  { d with groups := d.groups.mapV (fun key g =>
      if key / 48 = core then
        (g.splits.filter (fun sp => sp.park = .sealCopy id)).foldl (fun g sp =>
          g.put sp.low [{ sp with park := .running, pc := sp.pc + 8 }]) g
      else g) }

/-- A copy completes with N bytes: its barrier is decremented, then its future is resolved (R298).
What a copy does with a future that is no longer PENDING is DESIGN CHOICE (log entry 55): the result is dropped, with no record. -/
def Device.copyDone (d : Device) (e : Env) (core : Nat) (c : Copy) (n : Nat) : Except Miss Device :=
  let d1 := (d.dropCopy core c.id).endSealCopy core c.id
  let d2 : Except Miss Device := match c.barrier with
    | some (t, k) => (d1.wakeCore core).copyBar e t k n
    | none => .ok d1
  match d2 with
  | .error m => .error m
  | .ok d3 => d3.futEnd e c.ctx (Agent.copier core) c.fut 2 (BitVec.ofNat 64 n) none false (c.who core)

/-- A copy ends by a fault after some bytes, at once: its future is FAULTED and a record is written (R297, R426). -/
def Device.copyFaulted (d : Device) (e : Env) (core : Nat) (c : Copy) (code detail : Nat) (a : W64) (bytes : Nat) : Device :=
  let d1 := (d.dropCopy core c.id).endSealCopy core c.id
  let d2 := d1.report e { ErrRec.blank 1 e.now with code, detail, ctx := c.ctx, core, swarm := c.swarm, addr := a }
  let d3 := match c.src with
    | some src => d2.sourceFault src
    | none => d2
  let v := BitVec.ofNat 64 (code + (if code = 0x0D then detail * 256 else 0) + bytes * 2 ^ 16)
  d3.pay e { ctx := c.ctx, core, swarm := c.swarm, ag := Agent.copier core, undo := [], fut := futOf c.fut, st := 4, value := v, engine := false }

/-! ### Issue (R296, R299, R300) -/

/-- Enter a copy into a core's engine. -/
def Device.addCopy (d : Device) (core : Nat) (c : Copy) : Device :=
  { d with copies := d.copies.set core (d.copiesOn core ++ [c]), nextId := d.nextId + 1 }

/-- A copy's future as its issue leaves it: PENDING, produced by the core's engine (R296). -/
def Device.claimCopy (d : Device) (e : Env) (core : Nat) (c : Copy) : Except Miss Device :=
  if c.fut = 0 then .ok d else d.futClaim e c.ctx (Agent.copier core) c.fut (0x4000 + core) c.swarm

/-- Go on past what may miss, for an instruction that acts once for its split. -/
def onceRun {α : Type} (d : Device) (x : View) (m : Except Miss α) (f : α → Res) : Res :=
  match m with
  | .ok a => f a
  | .error (.fault code detail a ts) => .trap (d.retouch ts) x.sp { code, detail, addr := a, lanes := x.sp.e }
  | .error m => .stall m.stall

/-- Issue a copy that has passed its checks. That the checks of R296 come before the wait for a slot is DESIGN CHOICE (log entry 55). -/
def copyIssue (e : Env) (r : SplitRef) (d : Device) (x : View) (f : FmtT) (kind : CopyKind) (raw : List W64) : Res :=
  let c : Copy := { id := d.nextId, ctx := x.g.ctx, team := some x.g.team, launch := (d.teamOf x.g).launch, swarm := x.g.swarm
                    kind, raw, stamp := some { guid := x.g.guid, count := x.g.writes }, src := none }
  let shape := c.shape
  let status (v : W32) : View := if f.t then x.setS f.sd.toNat v else x
  if 512 ≤ (d.copiesOn r.core).length then
    (if f.t then Res.view d r.key ((status 1).next 8) else .stall .copySlot)
  else
    onceRun d x ((d.order r.core .rel .dev).claimCopy e r.core c) (fun d1 =>
      if shape.1 = 0 then Res.thenDo d1 e r.key x ((status 0).next 8) (fun d => d.copyDone e r.core c 0)
      else
        let d2 := d1.addCopy r.core c
        if x.g.sealBuf.isSome then .done (d2.commit r.key (status 0)) { (status 0).sp with park := .sealCopy c.id }
        else Res.view d2 r.key ((status 0).next 8))

/-- Fail a check of an instruction that acts once for its split. -/
def checkTrap (d : Device) (x : View) (p : Nat × W64) : Res := .trap d x.sp { code := p.1, addr := p.2, lanes := x.sp.e }

/-- Read the descriptor of a CPY, CPYDN or DYNS (R296, step 1); one that is not for a sealed task raises SEALOP first
(R354). -/
def State.copyOp (s : State) (i : Instr) (f : FmtT) (go : Env → SplitRef → Device → View → List W64 → Res)
    (sealable : Bool := true) : Host.Outcome State Fault Refusal :=
  s.access i 8 f.ms (fun e r d x _ =>
    if x.g.sealBuf.isSome && !sealable then checkTrap d x (0x07, 0)
    else onceRun d x (d.descRun e r.core x.g 64 64 (x.pair f.sa.toNat)) (fun p =>
      go e r (d.descTouch r.core x.g.ctx p.1) x (bytesToWords p.2)))

/-- A checked descriptor's future, and the issue. -/
def copyGo (e : Env) (r : SplitRef) (d : Device) (x : View) (f : FmtT) (kind : CopyKind) (fut : W64) (ws : List W64)
    (check : CopyCheck) : Res :=
  match check with
  | some p => checkTrap d x p
  | none => onceRun d x (d.resultOk e r.core x.g.ctx fut) (fun _ => copyIssue e r d x f kind ws)

/-- CPY (R295, R296). -/
def execCpy (f : FmtT) (s : State) :=
  s.copyOp (.cpy f) f (fun e r d x ws =>
    let c := CpyDesc.ofWords ws
    if x.g.sealBuf.isSome && (CopyKind.cpy c).sealBad then checkTrap d x (0x07, 0)
    else copyGo e r d x f (.cpy c) c.fut ws (cpyCheck (d.teamOf x.g) x.g.task.isSome ws c))

/-- CPYDN (R334, R335). A handle that names no region, and a box that leaves its extents, are met by every active lane (R24). -/
def execCpydn (f : FmtT) (s : State) :=
  s.copyOp (.cpydn f) f (fun e r d x ws =>
    let c0 := DnDesc.ofWords 0 0 ws
    if x.g.sealBuf.isSome && (CopyKind.dn c0).sealBad then checkTrap d x (0x07, 0)
    else
      match d.combOf x f.md.toNat with
      | none => everyLane x (x.active f.ms) 0x11 0 d
      | some g =>
        let c := DnDesc.ofWords g.id (d.comb x.g.ctx g.id).config ws
        if c.leaves g then everyLane x (x.active f.ms) 0x11 0 d
        else copyGo e r d x f (.dn c) c.fut ws (dnCheck (d.teamOf x.g) x.g.task.isSome ws g c))

/-! ### Events (R297, R298) -/

/-- A copy in flight on a core. -/
def Device.copyOn (d : Device) (core id : Nat) : Option Copy := (d.copiesOn core).find? (fun c => c.id = id)

/-- COPY_COMPLETE: every element is written (R298). A page not resident delays it (R297). -/
def execCopyComplete (core id : Nat) (s : State) :=
  s.onDev ((s.dev.copyOn core id).elim 0 Copy.ctx) core (swarm := (s.dev.copyOn core id).elim 0 Copy.swarm) (fun e d =>
    match d.copyOn core id with
    | none => none
    | some c =>
      if d.copyReady c then
        let sh := c.shape
        match Device.copyMove d e core c sh.1 0 d with
        | (d1, _, none) => some (d1.copyDone e core c (sh.1 * sh.2))
        | (_, _, some (.fault _ _ _ _)) => none
        | (_, _, some m) => some (.error m)
      else none)

/-- COPY_FAULT: an element's access faults (R297). -/
def execCopyFault (core id : Nat) (s : State) :=
  s.onDev ((s.dev.copyOn core id).elim 0 Copy.ctx) core (swarm := (s.dev.copyOn core id).elim 0 Copy.swarm) (fun e d =>
    match d.copyOn core id with
    | none => none
    | some c =>
      if d.copyReady c then
        let sh := c.shape
        match Device.copyMove d e core c sh.1 0 d with
        | (d1, j, some (.fault code det a ts)) => some (.ok ((d1.retouch ts).copyFaulted e core c code det a (j * sh.2)))
        | _ => none
      else none)

end Sys2Proof.Machine
end

