-- ==== Sys2Proof/Machine/Streams.lean ====
section
/-! DEFINITION. Signals and host streams: SIGDEC, HSTW, the entries of a stream and their publication, the resumption of a
stalled HSTW, and the interrupt of a stream's timeout (R373, R374, R379, R380). -/

namespace Sys2Proof.Machine

/-! ### Signals (R373, R374) -/

/-- COUNT less n modulo 2^62, with flags ORed in: [63] ABORTED, [62] FAULTED. -/
def signalNext (w n : Nat) (aborted faulted : Bool) : Nat :=
  let count := (w % 2 ^ 62 + 2 ^ 62 - n % 2 ^ 62) % 2 ^ 62
  count + (if faulted || w.testBit 62 then 2 ^ 62 else 0) + (if aborted || w.testBit 63 then 2 ^ 63 else 0)

/-- Decrement a signal at its home (R373). -/
def Device.signalDec (d : Device) (e : Env) (ctx : Nat) (ag : Agent) (a : W64) (n : Nat) (aborted faulted : Bool) : Except Miss Device :=
  match d.atomicLoad e ctx ag a 8 with
  | .error m => .error m
  | .ok (d1, w) => d1.atomicStore e ctx ag a 8 (signalNext w n aborted faulted)

/-- The amount and the vector of SIGDEC's SB (R374); none when a bit that must be zero is set. -/
def sigdecArgs (v : W32) (irq : Bool) : Option (Nat × Nat) :=
  if v.extractLsb' 27 5 ≠ 0 || (!irq && v.extractLsb' 16 11 ≠ 0) then none
  else some ((v.extractLsb' 0 16).toNat, (v.extractLsb' 16 11).toNat)

/-- SIGDEC (R374). That the BOUNDS of SB comes before every check of the address, and that it acts on a PRIV page of its own core,
is DESIGN CHOICE (log entry 55). -/
def execSigdec (f : FmtT) (s : State) :=
  s.access (.sigdec f) 8 f.ms (fun e r d x _ =>
    let irq := f.opt.getLsbD 0
    let a := x.pair f.sa.toNat
    if x.g.sealBuf.isSome then checkTrap d x (0x07, 0)
    else
      match sigdecArgs (x.s f.sb.toNat) irq with
      | none => checkTrap d x (0x11, 0)
      | some (n, v) =>
        onceRun d x (d.laneRun e x.g.ctx (Agent.core r.core) .atomic false 8 8 a.toNat) (fun _ =>
          onceRun d x ((d.order r.core .rel .sys).signalDec e x.g.ctx (Agent.core r.core) a n false false) (fun d1 =>
            Res.view (if irq then d1.interrupt e v else d1) r.key (x.next 8))))

/-! ### Entries of a stream (R379, R380) -/

/-- A configured stream. -/
def Device.stream (d : Device) (ctx k : Nat) : Option HStream := (d.ctxs.get ctx).bind (fun c => c.streams.get k)

/-- Change a stream. -/
def Device.updStream (d : Device) (ctx k : Nat) (f : HStream → HStream) : Device :=
  d.updCtx ctx (fun c => { c with streams := c.streams.upd k f })

/-- Key of a stream's host read index. -/
def sridxKey (ctx k : Nat) : Nat := ctx * 16 + k

/-- A stream is full. -/
def Device.streamFull (d : Device) (ctx k : Nat) (s : HStream) : Bool :=
  s.widx - d.sridx.get (sridxKey ctx k) = BitVec.ofNat 64 (2 ^ s.log2n)

/-- Bytes of an entry. -/
def HStream.size (s : HStream) : Nat := 8 * 2 ^ s.esz

/-- Write bytes for a stream: by bus address, or by a virtual address of the context (R379). -/
def Device.streamStore (d : Device) (e : Env) (ctx : Nat) (host : Bool) (a : W64) (l : List Byte) : Except Miss Device :=
  if host then .ok (d.storeLong .host a.toNat l 4) else d.write e.plat e.tick ctx Agent.unit true a l

/-- Write one entry into a stream that has room. -/
def Device.streamPut (d : Device) (e : Env) (ctx k : Nat) (s : HStream) (l : List Byte) : Except Miss Device :=
  let a := s.ring + BitVec.ofNat 64 (s.widx.toNat % 2 ^ s.log2n * s.size)
  (d.streamStore e ctx s.rhost a l).map (fun d => d.updStream ctx k (fun s =>
    { s with widx := s.widx + 1, fresh := s.fresh + 1, first := if s.fresh = 0 then e.now else s.first }))

/-- Request a stream's interrupt some times. -/
def Device.interrupts (d : Device) (e : Env) (v : Nat) : Nat → Device
  | 0 => d
  | n + 1 => (d.interrupt e v).interrupts e v n

/-- Publish WIDX and DROPS, and request the interrupts that NCOUNT asks for (R380). -/
def Device.streamPublish (d : Device) (e : Env) (ctx k : Nat) : Except Miss Device :=
  match d.stream ctx k with
  | none => .ok d
  | some s =>
    match d.streamStore e ctx s.whost s.waddr (natToBytes 8 s.widx.toNat ++ natToBytes 8 s.drops.toNat) with
    | .error m => .error m
    | .ok d1 =>
      if s.ncount = 0 || decide (s.fresh < s.ncount) then .ok d1
      else .ok ((d1.updStream ctx k (fun s => { s with fresh := s.fresh % s.ncount, first := e.now })).interrupts e s.vec (s.fresh / s.ncount))

/-- Lanes write their entries in order until the stream is full and keeps entries: the lanes left and those written. -/
def Device.streamLanes (d : Device) (e : Env) (ctx k : Nat) : List (Nat × List Byte) → Mask → Except Miss (Device × List Nat × Mask)
  | [], m => .ok (d, [], m)
  | (lane, bytes) :: l, m =>
    match d.stream ctx k with
    | none => .ok (d, [], m)
    | some s =>
      if d.streamFull ctx k s then
        (if s.drop then (d.updStream ctx k (fun s => { s with drops := s.drops + 1 })).streamLanes e ctx k l m
         else .ok (d, lane :: l.map Prod.fst, m))
      else
        match d.streamPut e ctx k s bytes with
        | .error x => .error x
        | .ok d1 => d1.streamLanes e ctx k l (m ||| (1#96 <<< lane))

/-! ### HSTW (R380) -/

/-- The splits and the graph nodes that wait on a full stream, each with its place in line. -/
def Device.streamWaiters (d : Device) (ctx k : Nat) : List Nat :=
  let splits := d.groups.flatMap (fun p =>
    if p.2.ctx = ctx then p.2.splits.filterMap (fun sp => match sp.park with
      | .hstw f _ _ _ since => if f.md.toNat = k then some since else none
      | _ => none)
    else [])
  let pkts := ((d.ctxs.get ctx).elim [] Ctx.queues).flatMap (fun p => p.2.pkts)
  let nodes := pkts.flatMap (fun p => match p.work with
    | .graph g => g.node.filterMap (fun t => match t.2.work with
      | .stream _ since => if ((t.2.words.getD 2 0).extractLsb' 0 4).toNat = k then some since else none
      | _ => none)
    | _ => [])
  splits ++ nodes

/-- The last place in the line of a stream: behind everything that waits on it, so that the entries of one instruction or node
stay together (R380). -/
def Device.streamLine (d : Device) (ctx k : Nat) : Nat := (d.streamWaiters ctx k).foldl max 0 + 1

/-- Lanes of an HSTW write, and the instruction ends or waits. A write of an entry or of WADDR that faults traps the split with
nothing of this turn written (DESIGN CHOICE, log entry 55). -/
def hstwGo (e : Env) (r : SplitRef) (d : Device) (x : View) (f : FmtT) (lanes : List Nat) (done act : Mask) (since n : Nat) : Res :=
  let k := f.md.toNat
  let rows := lanes.map (fun l => (l, x.regBytes f.va.toNat l n))
  onceRun d x (d.streamLanes e x.g.ctx k rows done) (fun p =>
    onceRun d x ((p.1.order r.core .rel .sys).streamPublish e x.g.ctx k) (fun d1 =>
      if p.2.1.isEmpty then Res.view d1 r.key ((x.writeT act f.sd.toNat p.2.2).next 8)
      else .done d1 { x.sp with park := .hstw f p.2.1 p.2.2 act since }))

/-- HSTW (R380): it waits behind an HSTW that is stalled on the stream. -/
def execHstw (f : FmtT) (s : State) :=
  s.access (.hstw f) 8 f.ms (fun e r d x act =>
    if x.g.sealBuf.isSome then everyLane x act 0x07 0 d
    else
      match d.stream x.g.ctx f.md.toNat with
      | none => everyLane x act 0x11 0 d
      | some st =>
        if st.esz ≠ f.sub.toNat then everyLane x act 0x11 0 d
        else if !(d.streamWaiters x.g.ctx f.md.toNat).isEmpty then
          .done d { x.sp with park := .hstw f (lanesOf act) 0 act (d.streamLine x.g.ctx f.md.toNat) }
        else hstwGo e r d x f (lanesOf act) 0 act (d.streamLine x.g.ctx f.md.toNat) st.size)

/-- HSTW_RESUME: the first HSTW that waits on a stream goes on once the host has made room, or the stream drops (R380). A stream released or
given another entry size meanwhile is BOUNDS. -/
def execHstwResume (core slot lane : Nat) (s : State) :=
  s.onParked core slot lane (fun e r d x =>
    match x.sp.park with
    | .hstw f left done act since =>
      let k := f.md.toNat
      let x0 : View := { x with sp := { x.sp with park := .running } }
      match d.stream x.g.ctx k with
      | none => some (.trap d x0.sp { code := 0x11, lanes := maskOfLanes left })
      | some st =>
        if st.esz ≠ f.sub.toNat then some (.trap d x0.sp { code := 0x11, lanes := maskOfLanes left })
        else if (d.streamFull x.g.ctx k st && !st.drop) || (d.streamWaiters x.g.ctx k).any (fun t => decide (t < since)) then none
        else some (hstwGo e r d x0 f left done act since st.size)
    | _ => none)

/-- STREAM_TIMEOUT: TUS µs after the first entry not yet announced (R379). -/
def execStreamTimeout (ctx k : Nat) (s : State) :=
  let due : Bool := match s.dev.stream ctx k with
    | some st => st.tus ≠ 0 && st.fresh ≠ 0 && decide (st.first.toNat + 1000 * st.tus ≤ s.plat.dtime.toNat)
    | none => false
  s.whenDue due (fun e d =>
    match d.stream ctx k with
    | none => d
    | some st => (d.updStream ctx k (fun s => { s with fresh := 0 })).interrupt e st.vec)

end Sys2Proof.Machine
end

