-- ==== Sys2Proof/Machine/Command.lean ====
section
/-! DEFINITION. Command queues: reading packets, the order in which they start, how they complete, fault and put a queue
into ERROR, and the packets that need no file of their own (R367 to R373). -/

namespace Sys2Proof.Machine

/-! ### What the command processors reach (R368, R373) -/

/-- Read bytes by bus address, which the host's IOMMU may reject, or by a virtual address of the context; poison is a fault
(R426). -/
def Device.cpRead (d : Device) (e : Env) (ctx : Nat) (host : Bool) (a : W64) (n : Nat) : Except Miss (Device × List Byte) :=
  if host then (if linkRejects e.tick a.toNat then .error (.fault 0x05 0 a d.touches) else .ok (d, readBytes d.host a.toNat n))
  else
    match d.load e.plat e.tick ctx Agent.cp true a n with
    | .error m => .error m
    | .ok (d1, l, bad) => if bad then .error (.fault 0x0D 4 a d1.touches) else .ok (d1, l)

/-- Write bytes by bus address, which the host's IOMMU may reject, or by a virtual address of the context. -/
def Device.cpWrite (d : Device) (e : Env) (ctx : Nat) (host : Bool) (a : W64) (l : List Byte) : Except Miss Device :=
  if host then (if linkRejects e.tick a.toNat then .error (.fault 0x05 0 a d.touches) else .ok (d.storeLong .host a.toNat l 4))
  else d.write e.plat e.tick ctx Agent.cp true a l

/-- A signal's address lies in device memory (R373): aligned, and reached by an atomic of an owner of no page. -/
def Device.signalCheck (d : Device) (e : Env) (ctx : Nat) (a : W64) : Except Miss Unit :=
  if a.toNat % 8 ≠ 0 then .error (.fault 0x03 0 a d.touches)
  else (d.probeN e.plat e.tick ctx Agent.cp .atomic false a 8).map (fun _ => ())

/-! ### Packets as read (R369, R370) -/

/-- TYPE of a packet. -/
def pktType (ws : List W64) : Nat := ((ws.getD 0 0).extractLsb' 0 8).toNat

/-- Address of a packet's slot. -/
def CQueue.slot (c : CQueue) (n : Nat) : W64 := c.base + BitVec.ofNat 64 (64 * (n % 2 ^ c.log2n))

/-- Some reserved bit of the header or the body is set. -/
def pktReserved (ws : List W64) : Bool :=
  let w (k : Nat) : Nat := (ws.getD k 0).toNat
  let zero (k : Nat) : Bool := (ws.drop k).any (fun v => decide (v ≠ 0))
  decide (w 0 / 2 ^ 27 ≠ 0) || decide (w 0 / 2 ^ 10 % 2 ^ 6 ≠ 0) || (match pktType ws with
    | 0 => zero 2
    | 1 => decide (w 3 / 2 ^ 60 ≠ 0) || decide (w 3 / 2 ^ 54 % 4 ≠ 0)
    | 2 => decide (w 3 / 2 ^ 16 ≠ 0) || zero 4
    | 3 => zero 3
    | 4 => decide (w 3 / 2 ^ 16 ≠ 0) || zero 4
    | 5 => decide (w 4 / 4 ≠ 0) || zero 5
    | 6 => decide (w 3 / 2 ^ 16 % 2 ^ 16 ≠ 0) || zero 4
    | 7 => decide (w 4 / 2 ^ 14 ≠ 0) || (ws.getD 4 0).getLsbD 7 || zero 5
    | _ => decide (w 3 / 16 ≠ 0) || zero 4)

/-- Some field of the body is out of its range or misaligned, the signals apart. -/
def pktBad (ws : List W64) : Bool :=
  let w (k : Nat) : Nat := (ws.getD k 0).toNat
  match pktType ws with
  | 0 => false
  | 1 => decide (w 2 % 32 ≠ 0)
  | 2 => decide (w 2 % 64 ≠ 0) || decide (w 3 = 0)
  | 3 => decide (w 2 % 64 ≠ 0)
  | 4 => false
  | 5 => decide (w 4 = 3)
  | 6 => decide (w 2 % 64 ≠ 0) || decide (w 3 % 2 ^ 16 = 0) || decide (w 3 % 2 ^ 16 = 65535)
  | 7 =>
    let cls := w 4 / 16 % 4
    decide (4 ≤ w 4 % 16) || decide (w 2 % 4096 ≠ 0) || decide (w 3 = 0) || decide (w 3 % 4096 ≠ 0)
      || decide (2 ^ 57 < w 2 + w 3) || decide (cls = 3) || (decide (w 4 % 16 = 3) && (ws.getD 4 0).getLsbD 6 && decide (cls ≠ 0))
  | 8 => decide (w 2 % 64 ≠ 0)
  | _ => true

/-- Signals that a packet names: its own, and the target of SIGNAL or WAIT. -/
def pktSignals (ws : List W64) : List W64 :=
  let own := ws.getD 1 0
  (if own = 0 then [] else [own]) ++ (if pktType ws = 4 || pktType ws = 5 then [ws.getD 2 0] else [])

/-- The walk of an address needs no line of a channel that is not ready (R415). -/
def Device.walkable (d : Device) (e : Env) (ctx : Nat) (ag : Agent) (va : W64) : Bool :=
  match d.ctxs.get ctx with
  | none => true
  | some c => d.leafFor e.plat.ready e.tick e.plat.part.capacity ag ctx c.ptroot.toNat va.toNat ≠ .error .channel

/-- A signal lies in device memory; whether its page is resident or its channel ready is no part of that (R373), but the walk
that tells waits for its channels (R415). -/
def Device.signalOk (d : Device) (e : Env) (ctx : Nat) (a : W64) : Except Miss Bool :=
  match d.signalCheck e ctx a with
  | .error (.fault _ _ _ _) => .ok false
  | .error .channel => if d.walkable e ctx Agent.cp a then .ok true else .error .channel
  | _ => .ok true

/-- Every one of some signals lies in device memory. -/
def Device.signalsOk (d : Device) (e : Env) (ctx : Nat) : List W64 → Except Miss Bool
  | [] => .ok true
  | a :: l =>
    match d.signalOk e ctx a, d.signalsOk e ctx l with
    | .ok false, _ => .ok false
    | .ok true, r => r
    | .error _, .ok false => .ok false
    | .error m, _ => .error m

/-! ### ERROR and completion (R370, R373) -/

/-- A queue enters ERROR: ERRVEC and a record. -/
def Device.queueError (d : Device) (e : Env) (ctx q : Nat) (code detail : Nat) (a : W64) : Device :=
  match d.queue ctx q with
  | none => d
  | some c =>
    ((d.updQueue ctx q (fun c => { c with st := .error })).report e
      { ErrRec.blank 1 e.now with code, detail, ctx, addr := a }).interrupt e c.errVec

/-- Decrement a packet's signal by 1 with flags; none when it names no signal. A fault met drops it with a record. -/
def Device.pktSignal (d : Device) (e : Env) (ctx : Nat) (a : W64) (aborted faulted : Bool) : Except Miss Device :=
  if a = 0 then .ok d
  else
    match d.signalDec e ctx Agent.cp a 1 aborted faulted with
    | .error (.fault code det at_ ts) => .ok ((d.retouch ts).reportFault e ctx code det at_)
    | .error m => .error m
    | .ok d1 => .ok d1

/-- [lo, hi) meets one of some spans. -/
def meetsSpan (l : List (Nat × Nat)) (lo hi : Nat) : Bool := l.any (fun r => decide (lo < r.2) && decide (r.1 < hi))

/-- A RANGE packet over some spans has completed: the sealed tasks held for a page there are runnable (R292). -/
def Device.rangeFrees (d : Device) (ctx : Nat) (spans : List (Nat × Nat)) : Device :=
  { d with heldSealed := d.heldSealed.map (fun h =>
      if h.q.ctx = ctx && meetsSpan spans h.va.toNat (h.va.toNat + 1) then { h with freed := true } else h) }

/-- A packet completes: its signal, its interrupt, and it leaves its queue (R373); a RANGE frees what is held for it (R292). That a
packet which OP 4 aborts requests its interrupt too is DESIGN CHOICE (log entry 55). -/
def Device.endPacket (d : Device) (e : Env) (ctx q n : Nat) : Except Miss Device :=
  match d.packet ctx q n with
  | none => .ok d
  | some p =>
    match d.pktSignal e ctx (p.words.getD 1 0) p.aborted p.faulted with
    | .error m => .error m
    | .ok d1 =>
      let h := p.words.getD 0 0
      let d2 := if h.getLsbD 9 then d1.interrupt e (h.extractLsb' 16 11).toNat else d1
      .ok ((d2.rangeFrees ctx p.spans).updQueue ctx q (fun c => { c with pkts := c.pkts.filter (fun p => p.n ≠ n) }))

/-- Complete a packet now, or leave it to PACKET_COMPLETE while its signal's page is not resident. -/
def Device.tryEnd (d : Device) (e : Env) (ctx q n : Nat) : Device :=
  match d.endPacket e ctx q n with
  | .ok d1 => d1
  | .error (.page vas) => d.pageRequests e ctx 0 0 0 vas
  | .error _ => d

/-- A packet's work is set. -/
def Device.setWork (d : Device) (ctx q n : Nat) (w : PktWork) : Device := d.updPacket ctx q n (fun p => { p with work := w })

/-- A packet faults (R370): a record with its slot, and its signal with FAULTED. -/
def Device.packetFault (d : Device) (e : Env) (ctx q n detail : Nat) : Device :=
  let a := (d.queue ctx q).elim 0 (fun c => c.slot n)
  ((d.report e { ErrRec.blank 1 e.now with detail, ctx, addr := a }).updPacket ctx q n (fun p =>
    { p with faulted := true, work := .none })).tryEnd e ctx q n

/-- Go on past what may miss; a fault is the packet's. -/
def Device.orFault {α : Type} (d : Device) (e : Env) (ctx q n detail : Nat) (m : Except Miss α) (f : α → Except Miss Device) :
    Except Miss Device :=
  match m with
  | .ok a => f a
  | .error (.fault _ _ _ ts) => .ok ((d.retouch ts).packetFault e ctx q n detail)
  | .error m => .error m

/-! ### QWIDX and PACKET_READ (R368) -/

/-- The host writes a queue's write index. -/
def Device.writeQwidx (d : Device) (e : Env) (ctx q width : Nat) (v : W64) : Device :=
  match d.queue ctx q with
  | none => d
  | some c =>
    if width ≠ 8 || !e.plat.ready.getLsbD 63 then d
    else
      let d1 := d.updQueue ctx q (fun c => { c with widx := v.toNat })
      if c.st = .active && (decide (v.toNat < c.widx) || decide (c.ridx + 2 ^ c.log2n < v.toNat)) then
        d1.queueError e ctx q 0 1 (c.slot c.ridx)
      else d1

/-- QWIDX_WRITE. -/
def execQwidxWrite (ctx q width : Nat) (v : W64) (s : State) := s.whenDue true (fun e d => d.writeQwidx e ctx q width v)

/-- A packet that has been read joins its queue. -/
def CQueue.enter (c : CQueue) (ws : List W64) : CQueue :=
  { c with
    lastWait := decide (pktType ws = 5)
    pkts := c.pkts ++ [{ n := c.ridx, words := ws, st := .read, work := .begin, faulted := false, aborted := false
                         barrier := (ws.getD 0 0).getLsbD 8 || c.lastWait }] }

/-- What is left of a malformed packet: its signal, when its address is valid, to be decremented with FAULTED (R370). -/
def CQueue.enterBad (c : CQueue) (own : W64) : CQueue :=
  { c with pkts := c.pkts ++ [{ n := c.ridx, words := [0, own], st := .started, work := .none, faulted := true, aborted := false
                                barrier := false }] }

/-- The processor has read a slot's words and knows which signals are valid: it moves RIDX on, and the packet is taken, or puts
its queue into ERROR. -/
def Device.takeRead (d : Device) (e : Env) (ctx q : Nat) (c : CQueue) (ws : List W64) (bad ownOk : Bool) : Except Miss Device :=
  let moved (d : Device) (f : CQueue → CQueue) : Device := d.updQueue ctx q (fun c => { f c with ridx := c.ridx + 1 })
  match d.cpWrite e ctx c.rhost c.ridxAddr (natToBytes 8 (c.ridx + 1)) with
  | .error (.fault code det a ts) => .ok ((moved (d.retouch ts) (fun c => c.enter ws)).queueError e ctx q code det a)
  | .error m => .error m
  | .ok d1 =>
    if !bad then .ok (moved d1 (fun c => c.enter ws))
    else
      let d2 := (moved d1 (fun c => c.enterBad (if ownOk then ws.getD 1 0 else 0))).queueError e ctx q 0 1 (c.slot c.ridx)
      .ok (d2.tryEnd e ctx q c.ridx)

/-- The processor has read a slot's words: a packet with a reserved bit, a field out of range or a signal that does not lie in
device memory is malformed; whether a signal does may have to wait (R370, R415). -/
def Device.takePacket (d : Device) (e : Env) (ctx q : Nat) (c : CQueue) (ws : List W64) (rangeBad : Bool) : Except Miss Device :=
  let own := ws.getD 1 0
  let shape := pktReserved ws || pktBad ws || rangeBad
  match (if own = 0 then .ok false else d.signalOk e ctx own), (if shape then .ok false else d.signalsOk e ctx (pktSignals ws)) with
  | .error m, _ => .error m
  | _, .error m => .error m
  | .ok ownOk, .ok ok => d.takeRead e ctx q c ws (!ok) ownOk

/-! ### The order of starts (R368) -/

/-- The packet of a queue that may start next. -/
def CQueue.startable (c : CQueue) : Option Packet :=
  if c.st ≠ .active || c.dying then none
  else
    match c.pkts.find? (fun p => p.st = .read) with
    | none => none
    | some p => if p.barrier && c.pkts.any (fun r => decide (r.n < p.n)) then none else some p

/-- Queues that have a packet to start: key and priority. -/
def Device.startQueues (d : Device) : List (Nat × Nat) :=
  d.ctxs.flatMap (fun p => p.2.queues.filterMap (fun t => if t.2.startable.isSome then some (p.1 * 64 + t.1, t.2.prio) else none))

/-- The queue whose packet starts next: the greatest PRIO, round-robin among equals. -/
def Device.nextQueue (d : Device) : Option Nat :=
  let l := d.startQueues
  let top := (l.filter (fun p => l.all (fun r => decide (r.2 ≤ p.2)))).map Prod.fst
  match top.find? (fun k => decide (d.rrQueue < k)) with
  | some k => some k
  | none => top.head?

/-- A packet whose work is still to begin, or that pushes records. -/
def Packet.waits (p : Packet) : Bool := p.st = .started && (match p.work with
  | .begin | .tasks _ => true
  | _ => false)

/-- Start a packet; the device keeps the order of starts. -/
def Device.startPacket (d : Device) (ctx q : Nat) (p : Packet) : Device × Packet :=
  let at_ := d.nextId
  ({ d.updPacket ctx q p.n (fun p => { p with st := .started, startedAt := at_ }) with rrQueue := ctx * 64 + q, nextId := at_ + 1 },
   { p with st := .started, startedAt := at_ })

/-- The packets of a kind that a command processor may act on in a queue: the one to start, and those started that wait. -/
def Device.duePackets (d : Device) (ctx q : Nat) (is : List W64 → Bool) : List Packet :=
  match d.queue ctx q with
  | none => []
  | some c =>
    let next := if d.nextQueue = some (ctx * 64 + q) then c.startable.toList else []
    (next ++ c.pkts.filter Packet.waits).filter (fun p => is p.words)

/-- The packet of a kind that a command processor acts on: which of those it may act on is free. -/
def Device.duePacket (d : Device) (tick ctx q : Nat) (is : List W64 → Bool) : Option (Device × Packet) :=
  let l := d.duePackets ctx q is
  let p? := if l.length ≤ 1 then l.head? else l[Config.freeNat tick 4 % l.length]?
  p?.map (fun p => if p.st = .read then d.startPacket ctx q p else (d, p))

/-- A command processor acts on the packet that is due; a page not resident delays it once it has started. -/
def State.onPacket (s : State) (ctx q : Nat) (is : List W64 → Bool) (go : Env → Device → Packet → Except Miss Device) :
    Host.Outcome State Fault Refusal :=
  s.onDev ctx 0 (fun e d => (d.duePacket e.tick ctx q is).map (fun r =>
    match go e r.1 r.2 with
    | .error (.page vas) => .ok (r.1.pageRequests e ctx 0 0 0 vas)
    | .error _ => .ok r.1
    | .ok d1 => .ok d1))

/-- A packet is of a type. -/
def ofType (t : Nat) (ws : List W64) : Bool := pktType ws = t

/-- NOP_PACKET. -/
def execNopPacket (ctx q : Nat) (s : State) :=
  s.onPacket ctx q (ofType 0) (fun e d p => .ok ((d.setWork ctx q p.n .none).tryEnd e ctx q p.n))

/-! ### LAUNCH (R371, R372) -/

/-- A kernel descriptor from its words. -/
def KDesc.ofWords (l : List W64) : KDesc :=
  let m := l.getD 2 0
  { code := l.getD 0 0, tvec := l.getD 1 0, vregs := (m.extractLsb' 0 16).toNat, scratch := (m.extractLsb' 16 16).toNat
    bars := (m.extractLsb' 32 7).toNat, width := widthOf (m.extractLsb' 39 2).toNat, idem := m.getLsbD 41, zsp := m.getLsbD 42 }

/-- The fields of a kernel descriptor and a launch descriptor are in range and a core can hold a team (R206, R372). -/
def launchOk (m : W64) (kd : KDesc) (tdim : Nat) (grid : Nat × Nat × Nat) : Bool :=
  decide (32 ≤ kd.vregs) && decide (kd.vregs ≤ 320) && decide (kd.vregs % 32 = 0) && decide (kd.scratch ≤ 2048)
    && decide (kd.bars ≤ 96) && decide ((m.extractLsb' 39 2).toNat ≠ 3) && decide (1 ≤ grid.1) && decide (1 ≤ grid.2.1)
    && decide (1 ≤ grid.2.2) && decide (kd.code.toNat % 4 = 0) && decide (kd.tvec.toNat % 4 = 0)
    && decide (tdim ≤ 48) && decide (tdim * kd.vregs * kd.width / 32 ≤ 4096)

/-- What starting some work has come to. -/
inductive Began
  | launch (id : Nat)
  | copy (core id : Nat)
  | done
  | wait
  | bad
  deriving DecidableEq, Repr

/-- Start a launch from the words of its launch descriptor; bad when it is rejected. -/
def Device.startLaunch (d : Device) (e : Env) (src : Source) (cap : Nat) (ws : List W64) : Except Miss (Device × Began) :=
  if (ws.getD 0 0).toNat % 32 ≠ 0 then .ok (d, .bad)
  else
  match d.cpRead e src.ctx false (ws.getD 0 0) 32 with
  | .error m => .error m
  | .ok (d1, bytes) =>
    let kw := bytesToWords bytes
    let kd := KDesc.ofWords kw
    let w := ws.getD 1 0
    let tdim := (w.extractLsb' 56 4).toNat + 1
    let grid := ((w.extractLsb' 0 16).toNat, (w.extractLsb' 16 16).toNat, (w.extractLsb' 32 16).toNat)
    if !launchOk (kw.getD 2 0) kd tdim grid then .ok (d1, .bad)
    else
      let args := (ws.drop 3).flatMap (fun v => [v.extractLsb' 0 32, v.extractLsb' 32 32])
      let l : Launch := { src, kd, tdim, prio := min (w.extractLsb' 48 6).toNat cap, grid, seed := ws.getD 2 0, args := args.take 6
                          next := 0, again := [], corePtr := 0, since := e.now, faulted := false, abandoned := false }
      let id := d1.nextId
      .ok ({ d1 with launches := d1.launches.set id l, nextId := id + 1 }, .launch id)

/-- Priority cap of a queue. -/
def Device.capOf (d : Device) (ctx q : Nat) : Nat := (d.queue ctx q).elim 0 CQueue.prio

/-- LAUNCH. -/
def execLaunch (ctx q : Nat) (s : State) :=
  s.onPacket ctx q (ofType 1) (fun e d p =>
    d.orFault e ctx q p.n 4 (d.startLaunch e { ctx, q, n := p.n, node := none } (d.capOf ctx q) (p.words.drop 2)) (fun r =>
      match r.2 with
      | .launch id => .ok (r.1.setWork ctx q p.n (.launch id))
      | _ => .ok (r.1.packetFault e ctx q p.n 2)))

/-! ### TASKS (R369) -/

/-- Push records from one on until the backing queue is full: the device, the next record, and what stopped it. -/
def Device.pushTasks (d : Device) (e : Env) (ctx : Nat) (a : W64) : Nat → Nat → Device × Nat × Option Miss
  | 0, i => (d, i, none)
  | fuel + 1, i =>
    if !d.backingRoom ctx then (d, i, none)
    else
      match d.cpRead e ctx false (a + BitVec.ofNat 64 (64 * i)) 64 with
      | .error m => (d, i, some m)
      | .ok (d1, bytes) =>
        let r := { TaskRec.ofWords (bytesToWords bytes) with stamp := 0, stampOf := 0 }
        match (if r.result = 0 then .ok d1 else if r.result.toNat % 16 ≠ 0 then .error (.fault 3 0 r.result d1.touches)
            else d1.futClaim e ctx Agent.cp r.result 0x7FFF r.swarm.toNat) with
        | .error m => (d, i, some m)
        | .ok d2 =>
          match d2.toBacking e (QRec.mk' ctx r e.now) with
          | .ok (some d3) => d3.pushTasks e ctx a fuel (i + 1)
          | .ok none => (d, i, none)
          | .error m => (d, i, some m)

/-- TASKS: as many records as there is room for. -/
def execTasks (ctx q : Nat) (s : State) :=
  s.onPacket ctx q (ofType 2) (fun e d p =>
    let n := ((p.words.getD 3 0).extractLsb' 0 16).toNat
    let i := match p.work with
      | .tasks k => k
      | _ => 0
    let r := d.pushTasks e ctx (p.words.getD 2 0) (n - i) i
    let d1 := r.1.setWork ctx q p.n (.tasks r.2.1)
    match r.2.2 with
    | some (.fault _ _ _ ts) => .ok ((d1.retouch ts).packetFault e ctx q p.n 4)
    | some (.page vas) => .ok (d1.pageRequests e ctx 0 0 0 vas)
    | some .channel => .ok d1
    | none => .ok (if n ≤ r.2.1 then (d1.setWork ctx q p.n .none).tryEnd e ctx q p.n else d1))

/-! ### COPY (R369) -/

/-- Cores whose copy engine has a slot. -/
def Device.copyCores (d : Device) (p : Platform) : List Nat :=
  (List.range 64).filter (fun c => p.ready.getLsbD (32 + c / 8) && decide ((d.copiesOn c).length < 512))

/-- A team with nothing, against which a copy of a command processor is checked. -/
def noTeam (ctx : Nat) : Team :=
  { ctx, core := 0, launch := none, coord := (0, 0, 0), grid := (1, 1, 1), tdim := 1, spBase := 0, spSize := 0, barBase := 0
    bars := [], relaunch := 0, faulted := false }

/-- Start a copy of a command processor on some core's engine; bad when a check of R296 or of R369 fails. -/
def Device.startCopy (d : Device) (e : Env) (src : Source) (a : W64) : Except Miss (Device × Began) :=
  if a.toNat % 64 ≠ 0 then .ok (d, .bad)
  else
    match d.cpRead e src.ctx false a 64 with
    | .error m => .error m
    | .ok (d1, bytes) =>
      let ws := bytesToWords bytes
      let k := CpyDesc.ofWords ws
      let cores := d1.copyCores e.plat
      match cores with
      | [] => .ok (d1, .wait)
      | c0 :: _ =>
        let core := if cores.length = 1 then c0 else cores.getD (Config.freeNat e.tick 5 % cores.length) c0
        if k.ben || k.ssp || k.dsp || (cpyCheck (noTeam src.ctx) false ws k).isSome then .ok (d1, .bad)
        else
          match d1.resultOk e core src.ctx k.fut with
          | .error m => .error m
          | .ok _ =>
            let c : Copy := { id := d1.nextId, ctx := src.ctx, team := none, launch := none, swarm := 0, kind := .cpy k, raw := ws
                              stamp := none, src := some src }
            match d1.claimCopy e core c with
            | .error m => .error m
            | .ok d2 =>
              if c.shape.1 = 0 then (d2.futEnd e src.ctx (Agent.copier core) k.fut 2 0 none false (c.who core)).map (fun d3 => (d3, .done))
              else .ok (d2.addCopy core c, .copy core c.id)

/-- COPY_PACKET. -/
def execCopyPacket (ctx q : Nat) (s : State) :=
  s.onPacket ctx q (ofType 3) (fun e d p =>
    d.orFault e ctx q p.n 4 (d.startCopy e { ctx, q, n := p.n, node := none } (p.words.getD 2 0)) (fun r =>
      match r.2 with
      | .copy core id => .ok (r.1.setWork ctx q p.n (.copy core id))
      | .wait => .ok r.1
      | .done => .ok ((r.1.setWork ctx q p.n .none).tryEnd e ctx q p.n)
      | _ => .ok (r.1.packetFault e ctx q p.n 4)))

/-! ### SIGNAL and WAIT (R369) -/

/-- SIGNAL_PACKET. -/
def execSignalPacket (ctx q : Nat) (s : State) :=
  s.onPacket ctx q (ofType 4) (fun e d p =>
    d.orFault e ctx q p.n 4 (d.signalDec e ctx Agent.cp (p.words.getD 2 0) ((p.words.getD 3 0).extractLsb' 0 16).toNat false false) (fun d1 =>
      .ok ((d1.setWork ctx q p.n .none).tryEnd e ctx q p.n)))

/-- WAIT_PACKET: the packet waits for its condition. -/
def execWaitPacket (ctx q : Nat) (s : State) :=
  s.onPacket ctx q (ofType 5) (fun _ d p => .ok (d.setWork ctx q p.n .wait))

/-- The condition of a WAIT packet on its signal's COUNT. -/
def waitHolds (ws : List W64) (w : Nat) : Bool :=
  let count := w % 2 ^ 62
  let v := (ws.getD 3 0).toNat
  match (ws.getD 4 0).toNat % 4 with
  | 0 => decide (count ≤ v)
  | 1 => decide (count = v)
  | _ => decide (count ≠ v)

/-- WAIT_SATISFIED: the condition holds, or the signal can no longer be read. -/
def execWaitSatisfied (ctx q n : Nat) (s : State) :=
  s.onDev ctx 0 (fun e d =>
    match d.packet ctx q n with
    | none => none
    | some p =>
      if p.st = .started && p.work = .wait then
        match d.load e.plat e.tick ctx Agent.cp false (p.words.getD 2 0) 8 with
        | .error (.fault _ _ _ ts) => some (.ok ((d.retouch ts).packetFault e ctx q n 4))
        | .error m => some (.error m)
        | .ok (d1, l, bad) =>
          if bad then some (.ok (d1.packetFault e ctx q n 4))
          else if waitHolds p.words (bytesToNat l) then some (.ok ((d1.setWork ctx q n .none).tryEnd e ctx q n)) else none
      else none)

/-! ### PACKET_COMPLETE (R373) -/

/-- A launch has ended (R225): no team waits or stands, and what its groups wrote and copied is visible. -/
def Device.launchEnded (d : Device) (id : Nat) : Bool :=
  match d.launches.get id with
  | none => true
  | some l =>
    l.head.isNone && !d.teams.any (fun p => p.2.launch = some id) && !d.drains.any (fun p => p.2.launch = some id)
      && !d.copies.any (fun p => p.2.any (fun c => c.launch = some id))
      && !d.ctxs.any (fun p => p.2.images.any (fun i => i.2.team.launch = some id))

/-- A launch's record goes: whether it had a fault. -/
def Device.endLaunch (d : Device) (id : Nat) : Device × Bool :=
  ({ d with launches := d.launches.erase id }, (d.launches.get id).elim false Launch.faulted)

/-- A graph has come to its end: no node runs. -/
def Graph.ended (g : Graph) : Bool := !g.node.any (fun p => p.2.running)

/-- PACKET_COMPLETE: a started packet whose work has ended. -/
def execPacketComplete (ctx q n : Nat) (s : State) :=
  s.onDev ctx 0 (fun e d =>
    match d.packet ctx q n with
    | none => none
    | some p =>
      if p.st ≠ .started then none
      else
        match p.work with
        | .none => some (d.endPacket e ctx q n)
        | .launch id =>
          if d.launchEnded id then
            let r := d.endLaunch id
            some ((r.1.updPacket ctx q n (fun p => { p with work := .none, faulted := p.faulted || r.2 })).endPacket e ctx q n)
          else none
        | .copy core id => if (d.copyOn core id).isNone then some ((d.setWork ctx q n .none).endPacket e ctx q n) else none
        | .graph g =>
          if g.ended then
            some ((d.updPacket ctx q n (fun p => { p with work := .none, faulted := p.faulted || g.faulted || g.bad })).endPacket e ctx q n)
          else none
        | _ => none)

/-- The launches that a queue's packets or their nodes started place no further team (R376). -/
def Device.abandon (d : Device) (ctx q : Nat) : Device :=
  { d with launches := d.launches.mapV (fun _ l =>
      if l.src.ctx = ctx && l.src.q = q then { l with abandoned := true } else l) }

/-! ### STREAM (R379) -/

/-- A host stream from the words of its descriptor. -/
def HStream.ofWords (l : List W64) : HStream :=
  let w := l.getD 1 0
  let m := l.getD 3 0
  { ring := l.getD 0 0, log2n := (w.extractLsb' 0 5).toNat, esz := (w.extractLsb' 5 2).toNat, drop := w.getLsbD 7, rhost := w.getLsbD 8
    whost := w.getLsbD 9, vec := (w.extractLsb' 10 11).toNat, waddr := l.getD 2 0, ncount := (m.extractLsb' 0 16).toNat
    tus := (m.extractLsb' 16 32).toNat, widx := 0, drops := 0, fresh := 0, first := 0 }

/-- A stream descriptor is invalid. -/
def streamBad (l : List W64) : Bool :=
  let s := HStream.ofWords l
  s.esz = 3 || decide (s.log2n < 4) || decide (20 < s.log2n) || decide (s.ring.toNat % 64 ≠ 0) || decide (s.waddr.toNat % 16 ≠ 0)
    || decide ((l.getD 1 0).toNat / 2 ^ 21 ≠ 0) || decide ((l.getD 3 0).toNat / 2 ^ 48 ≠ 0) || (l.drop 4).any (fun w => decide (w ≠ 0))

/-- STREAM: a stream is configured, or released. -/
def execStream (ctx q : Nat) (s : State) :=
  s.onPacket ctx q (ofType 8) (fun e d p =>
    let k := ((p.words.getD 3 0).extractLsb' 0 4).toNat
    let a := p.words.getD 2 0
    let fin (d : Device) : Except Miss Device := .ok ((d.setWork ctx q p.n .none).tryEnd e ctx q p.n)
    if a = 0 then fin (d.updCtx ctx (fun c => { c with streams := c.streams.erase k }))
    else
      d.orFault e ctx q p.n 3 (d.cpRead e ctx false a 64) (fun r =>
        let ws := bytesToWords r.2
        if streamBad ws then .ok (r.1.packetFault e ctx q p.n 3)
        else
          let st := HStream.ofWords ws
          d.orFault e ctx q p.n 4 (r.1.streamStore e ctx st.whost st.waddr (natToBytes 16 0)) (fun d1 =>
            fin { d1.updCtx ctx (fun c => { c with streams := c.streams.set k st }) with sridx := d1.sridx.set (sridxKey ctx k) 0 })))

/-! ### Host read indexes (R364, R380) -/

/-- The host writes a stream's read index, whether or not the context exists (R364). -/
def Device.writeSridx (d : Device) (ctx k width : Nat) (v : W64) : Device :=
  if width ≠ 8 || 16 ≤ k || 16 ≤ ctx then d else { d with sridx := d.sridx.set (sridxKey ctx k) v }

/-- SRIDX_WRITE. -/
def execSridxWrite (ctx k width : Nat) (v : W64) (s : State) := s.whenDue true (fun _ d => d.writeSridx ctx k width v)

end Sys2Proof.Machine
end

