-- ==== Sys2Proof/Machine/Graphs.lean ====
section
/-! DEFINITION. Graphs: the start of an iteration, the five kinds of node, and the completion of a node (R377, R378). -/

namespace Sys2Proof.Machine

/-- The graph of a packet. -/
def Device.graphOf (d : Device) (ctx q n : Nat) : Option Graph :=
  (d.packet ctx q n).bind (fun p => match p.work with
    | .graph g => some g
    | _ => none)

/-- Change the graph of a packet. -/
def Device.updGraph (d : Device) (ctx q n : Nat) (f : Graph → Graph) : Device :=
  d.updPacket ctx q n (fun p => match p.work with
    | .graph g => { p with work := .graph (f g) }
    | _ => p)

/-- Change a node. -/
def Graph.updNode (g : Graph) (i : Nat) (f : GNode → GNode) : Graph := { g with node := g.node.upd i f }

/-- Address of a node. -/
def Graph.nodeAt (g : Graph) (i : Nat) : W64 := g.nodes + BitVec.ofNat 64 (64 * i)

/-- A record of a faulted graph or node (R431). -/
def Device.nodeRecord (d : Device) (e : Env) (ctx : Nat) (a : W64) : Device :=
  d.report e { ErrRec.blank 1 e.now with detail := 5, ctx, addr := a }

/-- A graph becomes faulted by one of its nodes: no further node starts. -/
def Device.graphBad (d : Device) (e : Env) (ctx q n i : Nat) : Device :=
  match d.graphOf ctx q n with
  | none => d
  | some g => (d.nodeRecord e ctx (g.nodeAt i)).updGraph ctx q n (fun g => { g with bad := true })

/-- A node is done with its work, with or without FAULTED; it completes as an event. -/
def Device.nodeDone (d : Device) (ctx q n i : Nat) (faulted : Bool) : Device :=
  d.updGraph ctx q n (fun g => g.updNode i (fun t => { t with work := .none, faulted := t.faulted || faulted }))

/-- A node's work is set. -/
def Device.nodeWork (d : Device) (ctx q n i : Nat) (w : NodeWork) : Device :=
  d.updGraph ctx q n (fun g => g.updNode i (fun t => { t with work := w }))

/-! ### Kinds (R377) -/

/-- Entries of a stream written from memory, from one on: the device, the next entry, and what stopped them. -/
def Device.streamCopy (d : Device) (e : Env) (ctx k : Nat) (a : W64) : Nat → Nat → Device × Nat × Option Miss
  | 0, j => (d, j, none)
  | fuel + 1, j =>
    match d.stream ctx k with
    | none => (d, j, some (.fault 0x11 0 a d.touches))
    | some s =>
      if d.streamFull ctx k s then
        (if s.drop then (d.updStream ctx k (fun s => { s with drops := s.drops + 1 })).streamCopy e ctx k a fuel (j + 1) else (d, j, none))
      else
        match d.cpRead e ctx false (a + BitVec.ofNat 64 (j * s.size)) s.size with
        | .error m => (d, j, some m)
        | .ok (d1, bytes) =>
          match d1.streamPut e ctx k s bytes with
          | .error m => (d, j, some m)
          | .ok d2 => d2.streamCopy e ctx k a fuel (j + 1)

/-- A host-stream node goes on: its entries, then the indexes, which are published for what it has written whatever stops it
(R380). Where they cannot be published yet nothing has been written. -/
def Device.streamNode (d : Device) (e : Env) (ctx q n i : Nat) (ws : List W64) (next since : Nat) : Except Miss Device :=
  let k := ((ws.getD 2 0).extractLsb' 0 4).toNat
  let c := ((ws.getD 2 0).extractLsb' 8 8).toNat
  if (d.streamWaiters ctx k).any (fun t => decide (t < since)) then .ok (d.nodeWork ctx q n i (.stream next since))
  else
    let r := d.streamCopy e ctx k (ws.getD 1 0) (c - next) next
    match (if r.2.1 = next then r.2.2 else none) with
    | some (.fault _ _ _ ts) => .ok ((d.retouch ts).nodeDone ctx q n i true)
    | some m => .error m
    | none =>
      match r.1.streamPublish e ctx k with
      | .error (.fault _ _ _ ts) => .ok ((d.retouch ts).nodeDone ctx q n i true)
      | .error m => .error m
      | .ok d1 => .ok (match r.2.2 with
        | some (.fault _ _ _ ts) => (d1.retouch ts).nodeDone ctx q n i true
        | _ => if c ≤ r.2.1 then d1.nodeDone ctx q n i false else d1.nodeWork ctx q n i (.stream r.2.1 since))

/-- A node's own fault becomes FAULTED noted. -/
def Device.nodeOr {α : Type} (d : Device) (ctx q n i : Nat) (m : Except Miss α) (f : α → Except Miss Device) : Except Miss Device :=
  match m with
  | .ok a => f a
  | .error (.fault _ _ _ ts) => .ok ((d.retouch ts).nodeDone ctx q n i true)
  | .error m => .error m

/-- A started node reads its 64 bytes and begins its work. -/
def Device.beginNode (d : Device) (e : Env) (ctx q n i : Nat) : Except Miss Device :=
  match d.graphOf ctx q n with
  | none => .ok d
  | some g =>
    d.nodeOr ctx q n i (d.cpRead e ctx false (g.nodeAt i) 64) (fun r =>
      let ws := bytesToWords r.2
      let d1 := r.1.updGraph ctx q n (fun g => g.updNode i (fun t => { t with words := ws }))
      let src : Source := { ctx, q, n, node := some i }
      let w2 := ws.getD 2 0
      match ((ws.getD 0 0).extractLsb' 0 8).toNat with
      | 1 => d1.nodeOr ctx q n i (d1.startLaunch e src (d1.capOf ctx q) (ws.drop 1)) (fun t => match t.2 with
          | .launch id => .ok (t.1.nodeWork ctx q n i (.launch id))
          | _ => .ok (t.1.nodeDone ctx q n i true))
      | 2 => d1.nodeOr ctx q n i (d1.startCopy e src (ws.getD 1 0)) (fun t => match t.2 with
          | .copy core id => .ok (t.1.nodeWork ctx q n i (.copy core id))
          | .wait => .ok (t.1.nodeWork ctx q n i .begin)
          | .done => .ok (t.1.nodeDone ctx q n i false)
          | _ => .ok (t.1.nodeDone ctx q n i true))
      | 3 => d1.nodeOr ctx q n i (match d1.signalCheck e ctx (ws.getD 1 0) with
            | .error m => .error m
            | .ok _ => d1.signalDec e ctx Agent.cp (ws.getD 1 0) (w2.extractLsb' 0 16).toNat false false) (fun d2 =>
          .ok ((if w2.getLsbD 27 then d2.interrupt e (w2.extractLsb' 16 11).toNat else d2).nodeDone ctx q n i false))
      | 4 => d1.streamNode e ctx q n i ws 0 (d1.streamLine ctx (w2.extractLsb' 0 4).toNat)
      | 5 => .ok (d1.nodeDone ctx q n i false)
      | _ => .ok ((d1.graphBad e ctx q n i).updGraph ctx q n (fun g => g.updNode i (fun t => { t with running := false, work := .none }))))

/-- Start some nodes: each runs; one whose pages are not resident begins later. -/
def Device.startNodes (d : Device) (e : Env) (ctx q n : Nat) : List Nat → Device
  | [] => d
  | i :: l =>
    match d.graphOf ctx q n with
    | none => d
    | some g =>
      if g.bad then d
      else
        let d1 := d.updGraph ctx q n (fun g => g.updNode i (fun t => { t with running := true, faulted := false, words := [], work := .begin }))
        let d2 : Device := match d1.beginNode e ctx q n i with
          | .ok d2 => d2
          | .error (.page vas) => d1.pageRequests e ctx 0 0 0 vas
          | .error _ => d1
        d2.startNodes e ctx q n l

/-! ### Iterations (R378) -/

/-- NPRED of every node, in order. -/
def Device.readPreds (d : Device) (e : Env) (ctx : Nat) (a : W64) : Nat → Nat → Except Miss (Device × List Nat)
  | 0, _ => .ok (d, [])
  | fuel + 1, i =>
    match d.cpRead e ctx false (a + BitVec.ofNat 64 (64 * i)) 8 with
    | .error m => .error m
    | .ok (d1, bytes) =>
      match d1.readPreds e ctx a fuel (i + 1) with
      | .error m => .error m
      | .ok (d2, l) => .ok (d2, bytesToNat bytes / 256 % 256 :: l)

/-- Begin an iteration of a graph: every node waits for its predecessors, and those without start. -/
def Device.startIteration (d : Device) (e : Env) (ctx q n : Nat) : Except Miss Device :=
  match d.graphOf ctx q n with
  | none => .ok d
  | some g =>
    match d.readPreds e ctx g.nodes g.nn 0 with
    | .error m => .error m
    | .ok (d1, preds) =>
      let node : AMap GNode := (preds.zip (List.range g.nn)).map (fun p =>
        (p.2, { pend := p.1, running := false, faulted := false, words := [], work := .none }))
      let d2 := d1.updGraph ctx q n (fun g => { g with node, rearm := false })
      .ok (d2.startNodes e ctx q n (((preds.zip (List.range g.nn)).filter (fun p => p.1 = 0)).map Prod.snd))

/-- GRAPH: the first iteration starts. -/
def execGraph (ctx q : Nat) (s : State) :=
  s.onPacket ctx q (ofType 6) (fun e d p =>
    let w3 := p.words.getD 3 0
    let g : Graph := { nodes := p.words.getD 2 0, nn := (w3.extractLsb' 0 16).toNat, maxIter := (w3.extractLsb' 32 32).toNat, iter := 1
                       rearm := false, bad := false, faulted := false, node := [] }
    d.orFault e ctx q p.n 4 ((d.setWork ctx q p.n (.graph g)).startIteration e ctx q p.n) (fun d1 => .ok d1))

/-! ### Completion of a node (R378) -/

/-- Successors of a completed node, each once (log entry 30): kinds 1 to 4 by their header, a conditional by its word. -/
def successors (ws : List W64) (word : Nat) : List Nat :=
  let h := ws.getD 0 0
  if (h.extractLsb' 0 8).toNat = 5 then [((ws.getD 2 0).extractLsb' (16 * min word 3) 16).toNat]
  else [(h.extractLsb' 16 16).toNat, (h.extractLsb' 32 16).toNat, (h.extractLsb' 48 16).toNat].dedup

/-- Follow the edges of a completed node, in order: the nodes to start. -/
def Graph.follow (cond : Bool) (g : Graph) : List Nat → Graph × List Nat
  | [] => (g, [])
  | t :: l =>
    if t = 0xFFFF then g.follow cond l
    else if t = 0xFFFE && cond then Graph.follow cond { g with rearm := true } l
    else
      match (if t < g.nn then g.node.get t else none) with
      | none => ({ g with bad := true }, [])
      | some node =>
        if node.running then ({ g with bad := true }, [])
        else
          let r := Graph.follow cond (g.updNode t (fun x => { x with pend := x.pend - 1 })) l
          if node.pend = 1 then (r.1, t :: r.2) else r

/-- The word of a conditional node, read with acquire; 0 for another kind. -/
def Device.condWord (d : Device) (e : Env) (ctx : Nat) (ws : List W64) : Except Miss (Device × Nat) :=
  if ((ws.getD 0 0).extractLsb' 0 8).toNat ≠ 5 then .ok (d, 0)
  else
    let a := ws.getD 1 0
    if a.toNat % 4 ≠ 0 then .error (.fault 0x03 0 a d.touches)
    else (d.cpRead e ctx false a 4).map (fun r => (r.1, bytesToNat r.2))

/-- The work of a node has ended: none while it has not; else the device without it, and whether it had a fault. -/
def Device.workEnded (d : Device) (t : GNode) : Option (Device × Bool) :=
  match t.work with
  | .none => some (d, t.faulted)
  | .launch id =>
    if d.launchEnded id then
      let r := d.endLaunch id
      some (r.1, t.faulted || r.2)
    else none
  | .copy core id => if (d.copyOn core id).isNone then some (d, t.faulted) else none
  | _ => none

/-- A node completes: its successors are counted down and started; when no node runs, the graph is armed again or ends. -/
def Device.endNode (d : Device) (e : Env) (ctx q n i : Nat) (g : Graph) (t : GNode) (faulted aborted : Bool) : Except Miss Device :=
  let d0 := if faulted then d.nodeRecord e ctx (g.nodeAt i) else d
  let stopped (g : Graph) : Graph :=
    { (g.updNode i (fun t => { t with running := false, work := .none })) with faulted := g.faulted || faulted }
  match (if t.words = [] then Except.ok (d0, 0) else d0.condWord e ctx t.words) with
  | .error (.fault _ _ _ ts) => .ok (((d0.retouch ts).graphBad e ctx q n i).updGraph ctx q n stopped)
  | .error m => .error m
  | .ok (d1, word) =>
    let g1 := stopped g
    let cond : Bool := decide (((t.words.getD 0 0).extractLsb' 0 8).toNat = 5)
    let r := if t.words = [] then (g1, []) else g1.follow cond (successors t.words word)
    let g2 := if g.bad || aborted then { g1 with bad := g.bad } else r.1
    let d2 := d1.updGraph ctx q n (fun _ => g2)
    if g.bad || aborted then .ok d2
    else if g2.bad then .ok (d2.nodeRecord e ctx (g.nodeAt i))
    else
      let d3 := d2.startNodes e ctx q n r.2
      match d3.graphOf ctx q n with
      | none => .ok d3
      | some g3 =>
        if g3.ended && !g3.bad && g3.rearm && (g3.maxIter = 0 || decide (g3.iter < g3.maxIter)) then
          match (d3.updGraph ctx q n (fun g => { g with iter := g.iter + 1 })).startIteration e ctx q n with
          | .error (.fault _ _ _ ts) => .ok ((d3.retouch ts).graphBad e ctx q n 0)
          | .error m => .error m
          | .ok d4 => .ok d4
        else .ok d3

/-- GRAPH_NODE_COMPLETE: a running node whose work has ended; one that could not begin, or that waits for room in its
stream, goes on, in a graph that has faulted or is aborted too (R376, R378). -/
def execGraphNodeComplete (ctx q n node : Nat) (s : State) :=
  s.onDev ctx 0 (fun e d =>
    match d.packet ctx q n, (d.graphOf ctx q n).bind (fun g => (g.node.get node).map (fun t => (g, t))) with
    | some p, some (g, t) =>
      if !t.running then none
      else
        match t.work with
        | .begin =>
          some ((d.beginNode e ctx q n node).map (fun d1 => if p.aborted then d1.abandon ctx q else d1))
        | .stream next since => some (d.streamNode e ctx q n node t.words next since)
        | _ => (d.workEnded t).map (fun r => r.1.endNode e ctx q n node g t r.2 p.aborted)
    | _, _ => none)

end Sys2Proof.Machine
end

