-- ==== Sys2Proof/Machine/Place.lean ====
section
/-! DEFINITION. Placement of teams on cores (R204 to R210, R264, R265, R267), their energy admission (R422), and the release
of what they held (R224). -/

namespace Sys2Proof.Machine

/-! ### Admission (R206, R422) -/

/-- What a team asks of a core: groups, width, registers, scratchpad bytes, barriers. -/
structure Demand where
  groups : Nat
  width : Nat
  nreg : Nat
  spad : Nat
  bars : Nat
  deriving DecidableEq, Repr

/-- Demand of a grid team. -/
def Launch.demand (l : Launch) : Demand :=
  { groups := l.tdim, width := l.kd.width, nreg := l.kd.vregs, spad := l.kd.scratch * 256, bars := l.kd.bars }

/-- Demand of a task. -/
def TaskRec.demand (r : TaskRec) : Demand :=
  { groups := 1, width := widthOf r.width.toNat, nreg := r.vregs.toNat, spad := r.scratch.toNat * 256, bars := 0 }

/-- The lowest place of a size in a space of which some ranges are taken. -/
def firstFit (used : List (Nat × Nat)) (size total : Nat) : Option Nat :=
  let free (a : Nat) : Bool := decide (a + size ≤ total) && used.all (fun u => decide (a + size ≤ u.1) || decide (u.1 + u.2 ≤ a) || u.2 = 0)
  let ok := ((0 :: used.map (fun u => u.1 + u.2)).filter free)
  match ok with
  | [] => none
  | a :: l => some (l.foldl min a)

/-- Teams on a core. -/
def Device.teamsOn (d : Device) (core : Nat) : List Team := (d.teams.vals).filter (fun t => t.core = core)

/-- Groups on a core. -/
def Device.groupsOn (d : Device) (core : Nat) : List (Nat × Group) := d.groups.filter (fun p => p.1 / 48 = core)

/-- Register rows taken on a core; a committing group has given its rows back (R222). -/
def Device.rowsUsed (d : Device) (core : Nat) : Nat :=
  (d.groupsOn core).foldl (fun a p => if p.2.phase = .live then a + p.2.nreg * p.2.width / 32 else a) 0

/-- Free group slots of a core, lowest first. -/
def Device.freeSlots (d : Device) (core : Nat) : List Nat :=
  (List.range 48).filter (fun k => (d.groups.get (slotKey core k)).isNone)

/-- The places a team gets on a core, when it fits: its slots, from some free one on (which, the specification does not say);
its scratchpad and its barriers, first-fit (R206). -/
def Device.fit (d : Device) (at_ core : Nat) (m : Demand) : Option (List Nat × Nat × Nat) :=
  let slots := ((d.freeSlots core).rotateLeft at_).take m.groups
  let ts := d.teamsOn core
  match firstFit (ts.map (fun t => (t.spBase, t.spSize))) m.spad 524288, firstFit (ts.map (fun t => (t.barBase, t.bars.length))) m.bars 96 with
  | some sp, some b =>
    if decide (slots.length = m.groups) && decide (d.rowsUsed core + m.groups * m.nreg * m.width / 32 ≤ 4096) then some (slots, sp, b)
    else none
  | _, _ => none

/-- The energy condition of a priority in a context (R422); levels are kept in nJ. -/
def energyOk (p : Platform) (ctx prio : Nat) : Bool :=
  match p.energy.res.get ctx with
  | none => true
  | some r => decide (r.afloor ≤ prio) || decide (((r.t0 * 1000 * (47 - prio) / 47 : Nat) : Int) ≤ r.rlvl / 1000)

/-- Cluster of a core takes placements (R415). -/
def clusterReady (p : Platform) (core : Nat) : Bool := p.ready.getLsbD (32 + core / 8)

/-! ### Starting a team (R205, R210, R265) -/

/-- The scratchpad range of a new team: bytes of another context read zero, all of them when asked (R210). -/
def Device.cleanSpad (d : Device) (core base size ctx : Nat) (zero : Bool) : Device :=
  let lo := core * spadBytes + base
  let gone : Nat → Bool := fun a => decide (lo ≤ a) && decide (a < lo + size) && (zero || decide ((SMap.get (w := 8) d.spadOwner a).toNat ≠ ctx))
  { d with spad := d.spad.filter (fun p => !gone p.1) }

/-- A free block of a context's save area (R397). -/
def Device.freeBlock (d : Device) (ctx : Nat) : Nat :=
  let used := (d.groups.filter (fun p => p.2.ctx = ctx)).map (fun p => p.2.block)
    ++ (match d.ctxs.get ctx with
      | some c => c.images.flatMap (fun p => p.2.groups.map Group.block)
      | none => [])
  ((List.range 4096).find? (fun b => !used.contains b)).getD 0

/-- Place one group in a slot: its block, its age, and its drain counts. -/
def Device.startGroup (d : Device) (e : Env) (core slot : Nat) (g : Group) (launch : Option Nat) : Device :=
  let guid := d.nextId
  { d with
    groups := d.groups.set (slotKey core slot) { g with guid, block := d.freeBlock g.ctx, placedAt := e.tick, lastCycle := e.plat.cycles.toNat }
    drains := d.drains.set guid { issued := 0, core := 0, done := 0, launch }, nextId := guid + 1 }

/-- Place a team: its scratchpad and barriers, then its groups in their slots, GROUPID rising. -/
def Device.startTeam (d : Device) (e : Env) (core : Nat) (places : List Nat × Nat × Nat) (t : Team) (zero : Bool) (bars : Nat)
    (mk : Nat → Nat → Group) : Device :=
  let id := d.nextId
  let t := { t with core, spBase := places.2.1, barBase := places.2.2, bars := List.replicate bars Barrier.blank }
  let d1 : Device := { ((d.wakeCore core).cleanSpad core t.spBase t.spSize t.ctx zero) with nextId := id + 1, teams := d.teams.set id t }
  (places.1.zip (List.range places.1.length)).foldl (fun d p => d.startGroup e core p.1 (mk id p.2) t.launch) d1

/-! ### Grid teams (R207, R208) -/

/-- A core passes R206 for a launch's head team. -/
def Device.takes (d : Device) (p : Platform) (core : Nat) (l : Launch) : Bool :=
  clusterReady p core && energyOk p l.src.ctx l.prio && (d.fit 0 core l.demand).isSome

/-- The first core from a launch's pointer that takes its head team. -/
def Device.coreFor (d : Device) (p : Platform) (l : Launch) : Option Nat :=
  ((List.range 64).map (fun k => (l.corePtr + k) % 64)).find? (fun c => d.takes p c l)

/-- Insert a launch by base priority, then by arrival. -/
def insertLaunch (a : Nat × Launch) : List (Nat × Launch) → List (Nat × Launch)
  | [] => [a]
  | b :: l => if b.2.prio < a.2.prio || (a.2.prio = b.2.prio && decide (a.1 < b.1)) then a :: b :: l else b :: insertLaunch a l

/-- Launches in the order in which the distributor serves them. -/
def Device.launchOrder (d : Device) : List (Nat × Launch) := d.launches.foldr insertLaunch []

/-- The team that the distributor offers to a core. -/
def Device.offered (d : Device) (p : Platform) (core : Nat) : Option (Nat × Launch × Nat × Nat) :=
  d.launchOrder.findSome? (fun q => match q.2.head with
    | some h => if d.coreFor p q.2 = some core then some (q.1, q.2, h.1, h.2) else none
    | none => none)

/-- The coordinate of a team by its linear index. -/
def teamCoord (g : Nat × Nat × Nat) (i : Nat) : Nat × Nat × Nat := (i % g.1, i / g.1 % g.2.1, i / (g.1 * g.2.1))

/-- Place a launch's head team on a core; it acquires what an earlier node of its graph has released (R378, R407). -/
def Device.placeTeam (d : Device) (e : Env) (at_ core id : Nat) (l : Launch) (idx relaunch : Nat) : Device :=
  match d.fit at_ core l.demand with
  | none => d
  | some places =>
    let t : Team := { ctx := l.src.ctx, core, launch := some id, coord := teamCoord l.grid idx, grid := l.grid, tdim := l.tdim
                      spBase := 0, spSize := l.kd.scratch * 256, barBase := 0, bars := [], relaunch, faulted := false }
    let mk (team gid : Nat) : Group :=
      Group.fresh l.src.ctx 0 team gid l.kd.width l.kd.vregs l.kd.code l.kd.width l.args l.seed l.kd.tvec l.prio
    let l1 := match l.again with
      | _ :: r => { l with again := r, corePtr := (core + 1) % 64, since := e.now }
      | [] => { l with next := l.next + 1, corePtr := (core + 1) % 64, since := e.now }
    ({ d.order core .acq .dev with launches := d.launches.set id l1 }).startTeam e core places t (l.kd.zsp || decide (relaunch ≠ 0)) l.kd.bars mk

/-! ### Saved teams as candidates (R403) -/

/-- Address of a team image. -/
def Ctx.imageAt (c : Ctx) (m : Nat) : W64 := c.save + BitVec.ofNat 64 (0x20000000 + 2 ^ 20 * m)

/-- The bytes of a save area as they stand; none where it is not mapped. -/
def Device.peek (d : Device) (e : Env) (ctx : Nat) (a : W64) (n : Nat) : Option (List Byte) :=
  match d.load e.plat e.tick ctx Agent.cp true a n with
  | .error _ => none
  | .ok (_, l, _) => some l

/-- The width, the register allocation and the base priority that a group's block names, where a group can have them. -/
def Device.groupNow (d : Device) (e : Env) (g : Group) : Group :=
  match d.peek e g.ctx (d.blockAt g + 0x88) 8 with
  | none => g
  | some l =>
    let w := leField l 0 8
    let n := w / 2 ^ 32 % 256 * 32
    { g with width := if w / 2 ^ 40 % 4 < 3 then widthOf (w / 2 ^ 40 % 4) else g.width
             nreg := if 1 ≤ n ∧ n ≤ 320 then n else g.nreg, prio := w / 2 ^ 42 % 64 }

/-- A saved team as its image and its blocks name its resources (R397, R399): the device's reference gives what it is. -/
def Device.imageNow (d : Device) (e : Env) (ctx m : Nat) (c : Ctx) (i : Image) : Image :=
  match d.peek e ctx (c.imageAt m) 0x40 with
  | none => i
  | some l =>
    let w := leField l 0x08 8
    let r := leField l 0x10 8
    { i with
      aff := if w / 2 ^ 58 % 2 = 1 then some (w / 2 ^ 52 % 64) else none
      team := { i.team with
        coord := (w % 2 ^ 16, w / 2 ^ 16 % 2 ^ 16, w / 2 ^ 32 % 2 ^ 16), tdim := w / 2 ^ 48 % 16 + 1
        spSize := r / 2 ^ 16 % 2 ^ 16 * 256, bars := (List.range (r / 2 ^ 32 % 128)).map (fun k => i.team.bars.getD k Barrier.blank) }
      groups := i.groups.map (fun g => d.groupNow e { g with block := leField l (0x20 + 2 * g.gid) 2 % 4096 }) }

/-- Demand of a saved team. -/
def Image.demand (i : Image) : Demand :=
  { groups := i.groups.length, width := (i.groups.map Group.width).headD 32, nreg := (i.groups.map Group.nreg).headD 32
    spad := i.team.spSize, bars := i.team.bars.length }

/-- Base priority of a saved team. -/
def Image.base (i : Image) : Nat := i.groups.foldl (fun a g => max a g.prio) 0

/-- A core passes R206 and R422 for a saved team, and has room for its copies. -/
def Device.resumes (d : Device) (p : Platform) (ctx core : Nat) (i : Image) : Bool :=
  clusterReady p core && energyOk p ctx i.base && (d.fit 0 core i.demand).isSome
    && decide ((d.copiesOn core).length + i.copies.length ≤ 512)

/-- The core on which a saved team resumes. -/
def Device.resumeCore (d : Device) (p : Platform) (ctx : Nat) (i : Image) : Option Nat :=
  match i.aff with
  | some c => if d.resumes p ctx c i then some c else none
  | none => (List.range 64).find? (fun c => d.resumes p ctx c i)

/-- The greatest priority of the saved teams that would resume on a core. -/
def Device.savedPrio (d : Device) (e : Env) (core : Nat) : Option Nat :=
  let l := d.ctxs.flatMap (fun c => (c.2.images.filter (fun i =>
    d.resumeCore e.plat c.1 (d.imageNow e c.1 i.1 c.2 i.2) = some core)).map (fun i => i.2.prio))
  if l.isEmpty then none else some (l.foldl max 0)

/-- A saved team comes before a candidate of a priority on a core. -/
def Device.savedFirst (d : Device) (e : Env) (core prio : Nat) : Bool := match d.savedPrio e core with
  | some q => decide (prio ≤ q)
  | none => false

/-! ### Task records (R209, R264, R265, R267) -/

/-- The first record of the greatest level. -/
def headOf (l : List QRec) : Option QRec := l.find? (fun q => q.level = maxLevel l)

/-- Head records of the backing queues, in the order of contexts from one on. -/
def Device.backingHeads (d : Device) (start : Nat) : List (RecordAt × QRec) :=
  ((List.range 16).map (fun k => (start + k) % 16)).filterMap (fun c =>
    (d.ctxs.get c).bind (fun x => (headOf x.backing).map (fun q => (.backing c, d.ringRecord q))))

/-- The first of some records with the greatest level. -/
def bestRecord : List (RecordAt × QRec) → Option (RecordAt × QRec)
  | [] => none
  | p :: l =>
    match bestRecord l with
    | none => some p
    | some q => if p.2.level < q.2.level then some q else some p

/-- The record that waits longest among those of the greatest level. -/
def oldestRecord : List (RecordAt × QRec) → Option (RecordAt × QRec)
  | [] => none
  | p :: l =>
    match oldestRecord l with
    | none => some p
    | some q => if p.2.level < q.2.level || (p.2.level = q.2.level && decide (q.2.since.toNat < p.2.since.toNat)) then some q else some p

/-- Head records of other cores' local queues, of some cores. -/
def Device.stealHeads (d : Device) (core : Nat) (near : Bool) : List (RecordAt × QRec) :=
  ((List.range 64).filter (fun c => c ≠ core && (c / 8 = core / 8) == near)).filterMap (fun c =>
    (headOf (d.localQ c)).map (fun q => (.localQ c, q)))

/-- The core neither gates nor is gated (R423). -/
def Device.awake (d : Device) (core : Nat) : Bool := match d.coreGate.get core with
  | some (.gated _) | some .gating => false
  | _ => true

/-- The record that a core finds: its local queue's, else a backing queue's, else another core's (R267). -/
def Device.recordAt (d : Device) (core : Nat) : Option (RecordAt × QRec) :=
  match headOf (d.localQ core) with
  | some q => if d.coreOn core then some (.localQ core, q) else none
  | none =>
    match bestRecord (d.backingHeads d.rrBacking) with
    | some p => some p
    | none =>
      if !d.awake core then none
      else
        match oldestRecord (d.stealHeads core true) with
        | some p => some p
        | none => oldestRecord (d.stealHeads core false)

/-- A record passes R206 on a core. -/
def Device.recordFits (d : Device) (p : Platform) (core : Nat) (q : QRec) : Bool :=
  energyOk p q.ctx q.r.prio.toNat && (d.fit 0 core q.r.demand).isSome

/-- The record at the head of a queue, as a core reads it. -/
def Device.headAt (d : Device) : RecordAt → Option QRec
  | .localQ c => headOf (d.localQ c)
  | .backing c => (d.ctxs.get c).bind (fun x => (headOf x.backing).map (fun q => d.ringRecord q))

/-- The record that did not pass R206 on a core, while it stays at the head of its queue and does not fit (R209). -/
def Device.balkedOn (d : Device) (p : Platform) (core : Nat) : Option (RecordAt × QRec) :=
  (d.balked.get core).bind (fun b => if d.headAt b.1 = some b.2 && !d.recordFits p core b.2 then some b else none)

/-- The record candidate of a core: the record it finds, but none whose base priority is equal to or lower than that of a record
which did not fit and still does not: that one stays the candidate (R209). -/
def Device.recordFor (d : Device) (p : Platform) (core : Nat) : Option (RecordAt × QRec) :=
  (d.recordAt core).map (fun q => match d.balkedOn p core with
    | some b => if q.2.r.prio ≤ b.2.r.prio then b else q
    | none => q)

/-- A record leaves its queue; from a backing queue, the one round-robin pointer of the device moves on (log entry 25). -/
def Device.popRecord (d : Device) (at_ : RecordAt) (q : QRec) : Device :=
  match at_ with
  | .localQ c => d.setLocalQ c (dropFirstOf q.level (d.localQ c))
  | .backing c => { (d.updCtx c (fun x => { x with backing := dropFirstOf q.level x.backing })) with rrBacking := (c + 1) % 16 }

/-- Seed of a task's group (R31). -/
def taskSeed (frame : W64) : W64 := frame ^^^ 0x9E3779B97F4A7C15

/-- The group of a task. -/
def taskGroup (q : QRec) (tvec : W64) (team : Nat) : Group :=
  let r := q.r
  { Group.fresh q.ctx 0 team 0 (widthOf r.width.toNat) r.vregs.toNat r.code r.lanes.toNat r.args (taskSeed r.frame) tvec r.prio.toNat with
    swarm := r.swarm.toNat, result := r.result, task := some q
    sealBuf := if r.isSealed then some { entries := [], units := 0, pool := [], poolN := 0 } else none
    startWait := if r.stampOf = 0 then [] else [{ guid := r.stampOf, count := r.stamp }] }

/-- A record's result future passes to the group that runs it, with what was lent through it (R265, R274). -/
def Device.passResult (d : Device) (e : Env) (key : Nat) (q : QRec) : Except Miss Device :=
  if q.r.result = 0 then .ok d
  else
    match d.futLoad e q.ctx (Agent.core (key / 48)) q.r.result with
    | .error (.fault code det a ts) => .ok ((d.retouch ts).reportFault e q.ctx code det a { core := key / 48, slot := key % 48, swarm := q.r.swarm.toNat })
    | .error m => .error m
    | .ok (d1, y) =>
      if y.st ≠ 1 then .ok d1
      else
        match d1.futStore e q.ctx (Agent.core (key / 48)) q.r.result { y with prod := groupTag key } with
        | .error (.fault code det a ts) => .ok ((d1.retouch ts).reportFault e q.ctx code det a { core := key / 48, slot := key % 48, swarm := q.r.swarm.toNat })
        | .error m => .error m
        | .ok d2 => .ok (if y.prio = 63 then d2 else d2.noteLend key q.ctx (d2.futHome e q.ctx (Agent.core (key / 48)) q.r.result) y.prio)

/-- Start a task on a core where it fits: it acquires what its producer released (R253). -/
def Device.startTask (d : Device) (e : Env) (core : Nat) (q : QRec) (places : List Nat × Nat × Nat) : Except Miss Device :=
  let key := slotKey core (places.1.headD 0)
  match (d.order core .acq .dev).passResult e key q with
  | .error m => .error m
  | .ok d1 =>
    let t : Team := { ctx := q.ctx, core, launch := none, coord := (0, 0, 0), grid := (1, 1, 1), tdim := 1, spBase := 0
                      spSize := q.r.scratch.toNat * 256, barBase := 0, bars := [], relaunch := 0, faulted := false }
    let tvec := match d1.ctxs.get q.ctx with
      | some c => c.ttvec
      | none => 0
    .ok (d1.startTeam e core places t q.r.zsp 0 (fun team _ => taskGroup q tvec team))

/-- A record can be read: a backing queue's lies on a channel that is ready (R415). -/
def Device.recordReady (d : Device) (e : Env) (q : QRec) : RecordAt → Bool
  | .localQ _ => true
  | .backing c => (d.ctxs.get c).all (fun x => channelsReady e.plat.ready (x.ringAt q.slot) 64)

/-- Pop a record on a core: discarded with its swarm, rejected, started, or left at the head of its queue (R209, R264); a
malformed record of a swarm that is gone is discarded (log entry 25). -/
def Device.popTask (d : Device) (e : Env) (slot core : Nat) (at_ : RecordAt) (q : QRec) : Option (Except Miss Device) :=
  let d1 := d.popRecord at_ q
  if d.savedFirst e core q.r.prio.toNat || !d.recordReady e q at_ then none
  else if !d.swarmOpen q.ctx q.r.swarm.toNat then some (d1.discardRec e (Agent.core core) q)
  else if !q.r.valid then some (d1.futEnd e q.ctx (Agent.core core) q.r.result 4 (faultValue 0x01 q.r.code true) none false { core, swarm := q.r.swarm.toNat })
  else if !energyOk e.plat q.ctx q.r.prio.toNat then none
  else (d.fit slot core q.r.demand).map (fun places => d1.startTask e core q places)

/-- A core finds that the record it would pop does not pass R206, and keeps that in mind (R209); none where that is not what
keeps the record in its queue, or is known already. -/
def Device.balk (d : Device) (e : Env) (core : Nat) (at_ : RecordAt) (q : QRec) : Option Device :=
  if d.savedFirst e core q.r.prio.toNat || !d.recordReady e q at_ || !d.swarmOpen q.ctx q.r.swarm.toNat || !q.r.valid
      || d.recordFits e.plat core q || d.balked.get core = some (at_, q) then none
  else some { d with balked := d.balked.set core (at_, q) }

/-! ### Events -/

/-- The core of a place, and the slot from which its free slots are taken (log entry 25): core plus 64 times slot. -/
def coreOf (place : Nat) : Nat × Nat := (place % 64, place / 64)

/-- TEAM_ADMIT at a place: a core admits the candidate of the higher base priority, a record before a team at equal ones, and
keeps in mind a record that does not fit (R209). -/
def execTeamAdmit (place : Nat) (s : State) :=
  let core := (coreOf place).1
  let slot := (coreOf place).2
  s.onDev 0 core (fun e d =>
    if !clusterReady e.plat core then none
    else
      let team : Option (Nat × Launch × Nat × Nat) := (d.offered e.plat core).bind (fun p =>
        if d.savedFirst e core p.2.1.prio then none else some p)
      let grid (d : Device) : Option (Except Miss Device) :=
        team.map (fun p => .ok (d.placeTeam e slot core p.1 p.2.1 p.2.2.1 p.2.2.2))
      match d.recordFor e.plat core with
      | none => grid d
      | some (at_, q) =>
        if team.any (fun p => decide (q.r.prio.toNat < p.2.1.prio)) then grid d
        else
          match d.popTask e slot core at_ q, d.balk e core at_ q with
          | some r, _ => some r
          | none, some d1 => some ((grid d1).getD (.ok d1))
          | none, none => grid d)

/-- A copy has a side in a team's scratchpad. -/
def Copy.inSpad (c : Copy) (team : Nat) : Bool :=
  c.team = some team && (match c.kind with
    | .cpy k => k.ssp || k.dsp
    | .dn k => k.dsp)

/-- A team has neither a group nor a copy in its scratchpad. -/
def Device.teamDone (d : Device) (team : Nat) : Bool :=
  !d.groups.any (fun p => p.2.team = team) && !d.copies.any (fun p => p.2.any (fun c => c.inSpad team))

/-- TEAM_FREE: a team's scratchpad and barriers are given back (R224). -/
def execTeamFree (team : Nat) (s : State) :=
  s.whenDue ((s.dev.teams.get team).isSome && s.dev.teamDone team) (fun _ d => { d with teams := d.teams.erase team })

end Sys2Proof.Machine
end

