-- ==== Sys2Proof/Machine/Contexts.lean ====
section
/-! DEFINITION. Management operations: contexts and queues created and destroyed (R365 to R367, R376). -/

namespace Sys2Proof.Machine

/-- Write MSTAT's RESULT; BUSY says whether the operation goes on. -/
def State.mopResult (s : State) (r : Nat) (busy : Bool) : State := { s with plat := { s.plat with result := r, busy, mopWait := none } }

/-- A management operation the device serves: not while BUSY or in reset, and RESULT 2 before CP has risen (R365, R413). -/
def State.mop (s : State) (f : State → State) : State :=
  if s.plat.busy || s.plat.inReset then s else if !s.plat.ready.getLsbD 63 then s.mopResult 2 false else f s

/-- The 8 words of the descriptor at MADDR; none when MADDR is misaligned or reaches past the memory (R365). -/
def State.descriptor (s : State) : Option (List W64) :=
  let a := s.plat.maddr.toNat
  if a % 64 ≠ 0 || decide (s.plat.part.capacity < a + 64) then none else some (bytesToWords (readBytes s.dev.mem a 64))

/-- The descriptor at MADDR lies on a channel that is not ready (R415). -/
def State.descriptorWaits (s : State) : Bool :=
  let a := s.plat.maddr.toNat
  !(a % 64 ≠ 0 || decide (s.plat.part.capacity < a + 64)) && !channelReady s.plat.ready a

/-- An operation waits for its descriptor's channel: BUSY stays 1, and the operation and MADDR are kept. -/
def State.mopStall (s : State) (op ctx q : Nat) : State :=
  { s with plat := { s.plat with busy := true, mopWait := some (op, ctx, q, s.plat.maddr) } }

/-- A context descriptor is valid (R366, R383, R397). -/
def ctxOk (cap : Nat) (l : List W64) : Bool :=
  let w (k : Nat) : Nat := (l.getD k 0).toNat
  let n := w 3 % 2 ^ 32
  decide (w 0 % 4096 = 0) && decide (w 0 < cap) && decide (w 1 % 65536 = 0) && decide (w 1 + 2 ^ 23 ≤ cap) && decide (w 2 % 64 = 0)
    && (List.range 17).any (fun k => decide (n = 2 ^ (8 + k))) && decide (w 2 + 64 * n ≤ cap) && decide (w 5 % 2 ^ 20 = 0)
    && decide (w 5 + 768 * 2 ^ 20 ≤ 2 ^ 57)

/-- A context as its descriptor gives it. -/
def Ctx.ofWords (l : List W64) : Ctx :=
  { ptroot := l.getD 0 0, ctxmem := l.getD 1 0, bqbase := l.getD 2 0, bqsize := ((l.getD 3 0).extractLsb' 0 32).toNat
    ttvec := l.getD 4 0, save := l.getD 5 0, queues := [], swarms := [], lastSwarm := 0, pools := [], combs := [], streams := []
    backing := [], images := [], dying := false }

/-- The lowest free context number. -/
def Device.freeCtx (d : Device) : Option Nat := (List.range 16).find? (fun c => (d.ctxs.get c).isNone)

/-- OP 1: create a context. When no context is free and the descriptor is invalid, which result is given is not stated. -/
def State.createCtx (s : State) : State :=
  if s.descriptorWaits then s.mopStall 1 0 0
  else
  let desc := (s.descriptor).bind (fun l => if ctxOk s.plat.part.capacity l then some l else none)
  match s.dev.freeCtx, desc with
  | some c, some l =>
    let en := s.plat.energy
    { s with
      dev := { s.dev with ctxs := s.dev.ctxs.set c (Ctx.ofWords l) }
      plat := { s.plat with result := 0, busy := false, mopWait := none, newCtx := c, energy := { en with res := en.res.erase c } } }
  | some _, none => s.mopResult 2 false
  | none, some _ => s.mopResult 1 false
  | none, none => s.mopResult (if Config.freeNat s.tick 6 % 2 = 0 then 1 else 2) false

/-- CREATE_CONTEXT. -/
def execCreateContext (s : State) : Host.Outcome State Fault Refusal := .next (s.mop State.createCtx)

/-- A queue descriptor is valid (R367). -/
def queueOk (l : List W64) : Bool :=
  let w := (l.getD 1 0).toNat
  decide ((l.getD 0 0).toNat % 64 = 0) && decide (4 ≤ w % 32) && decide (w % 32 ≤ 16) && decide (w / 512 % 64 ≤ 47)
    && decide ((l.getD 2 0).toNat % 8 = 0)

/-- A queue as its descriptor gives it. -/
def CQueue.ofWords (l : List W64) : CQueue :=
  let w := l.getD 1 0
  { base := l.getD 0 0, log2n := (w.extractLsb' 0 5).toNat, qhost := w.getLsbD 7, rhost := w.getLsbD 8
    prio := (w.extractLsb' 9 6).toNat, ridxAddr := l.getD 2 0, errVec := ((l.getD 3 0).extractLsb' 0 11).toNat, ridx := 0, widx := 0
    st := .active, dying := false, lastWait := false, pkts := [] }

/-- OP 3: create a queue. -/
def State.createQ (ctx q : Nat) (s : State) : State :=
  if (s.dev.ctxs.get ctx).isNone then s.mopResult 4 false
  else if (s.dev.queue ctx q).isSome then s.mopResult 3 false
  else if s.descriptorWaits then s.mopStall 3 ctx q
  else
    match s.descriptor with
    | none => s.mopResult 2 false
    | some l =>
      if queueOk l then
        (s.withDev (s.dev.updCtx ctx (fun c => { c with queues := c.queues.set q (CQueue.ofWords l) }))).mopResult 0 false
      else s.mopResult 2 false

/-- CREATE_QUEUE. -/
def execCreateQueue (ctx q : Nat) (s : State) : Host.Outcome State Fault Refusal := .next (s.mop (State.createQ ctx q))

/-- The operation that waits for its descriptor is tried again, with the MADDR it was given. -/
def State.mopRetry (s : State) : State :=
  match s.plat.mopWait with
  | none => s
  | some (op, ctx, q, a) =>
    let s0 : State := { s with plat := { s.plat with maddr := a } }
    let s1 := if op = 1 then s0.createCtx else s0.createQ ctx q
    { s1 with plat := { s1.plat with maddr := s.plat.maddr } }

/-! ### Destruction (R376) -/

/-- What OP 4 makes of a packet: a COPY, SIGNAL, RANGE or STREAM that has started goes on. -/
def Packet.abort (p : Packet) : Packet :=
  let p := { p with aborted := true }
  match p.st, p.work with
  | .read, _ => { p with st := .started, work := .none }
  | .started, .tasks _ => { p with work := .none }
  | .started, .wait => { p with work := .none }
  | .started, .begin => if [3, 4, 7, 8].contains (pktType p.words) then p else { p with work := .none }
  | _, _ => p

/-- Destroy a queue: its packets end as R376 gives, those that are done at once. -/
def Device.destroyQ (d : Device) (e : Env) (ctx q : Nat) : Device :=
  let d1 := (d.updQueue ctx q (fun c => { c with dying := true, pkts := c.pkts.map Packet.abort })).abandon ctx q
  match d1.queue ctx q with
  | none => d1
  | some c => (c.pkts.filter (fun p => p.work = .none)).foldl (fun d p => d.tryEnd e ctx q p.n) d1

/-- A destroyed queue has written every signal: it becomes FREE. -/
def Device.freeQ (d : Device) (ctx q : Nat) : Device :=
  match d.queue ctx q with
  | some c => if c.dying && c.pkts.isEmpty then d.updCtx ctx (fun x => { x with queues := x.queues.erase q }) else d
  | none => d

/-- Everything a context holds is released, its groups stopped without saving (R365). That its SRIDX words then
read 0 is DESIGN CHOICE (log entry 55). -/
def Device.dropCtx (d : Device) (ctx : Nat) : Device :=
  let mine : QRec → Bool := fun q => q.ctx = ctx
  let gone := d.groups.filter (fun p => p.2.ctx = ctx)
  let d1 := gone.foldl (fun d p => d.removeGroup p.1 p.2) d
  { d1 with
    ctxs := d1.ctxs.erase ctx
    teams := d1.teams.filter (fun p => p.2.ctx ≠ ctx)
    launches := d1.launches.filter (fun p => p.2.src.ctx ≠ ctx)
    local_ := d1.local_.mapV (fun _ l => l.filter (fun q => !mine q))
    copies := d1.copies.mapV (fun _ l => l.filter (fun c => c.ctx ≠ ctx))
    entries := d1.entries.mapV (fun _ l => l.filter (fun t => t.ctx ≠ ctx))
    gqs := d1.gqs.filter (fun p => p.2.ctx ≠ ctx)
    lends := d1.lends.filter (fun l => l.ctx ≠ ctx)
    futStamps := d1.futStamps.filter (fun t => t.ctx ≠ ctx)
    joins := d1.joins.filter (fun j => j.ctx ≠ ctx)
    owed := d1.owed.filter (fun o => o.ctx ≠ ctx)
    joinFired := d1.joinFired.filter (fun p => p.1 / 2 ^ 24 ≠ ctx)
    heldPush := d1.heldPush.filter (fun h => !mine h.q)
    heldSealed := d1.heldSealed.filter (fun h => !mine h.q)
    pageReqs := d1.pageReqs.filter (fun p => p.1 ≠ ctx)
    tlb := d1.tlb.filter (fun t => t.ctx ≠ ctx)
    tables := d1.tables.filter (fun t => t.ctx ≠ ctx)
    spad := d1.spad.filter (fun p => decide ((SMap.get (w := 8) d1.spadOwner p.1).toNat ≠ ctx))
    sridx := d1.sridx.filter (fun p => p.1 / 16 ≠ ctx) }

/-- Copies of a context that are dropped with it have written some of their elements. -/
def Device.partCopies (d : Device) (e : Env) (ctx : Nat) : Device :=
  d.copies.foldl (fun d p => (p.2.filter (fun c => c.ctx = ctx)).foldl (fun d c => d.copyPart e p.1 c) d) d

/-- An operation that waits for queues ends once they are FREE: a dying context is released with its last queue. -/
def State.mopDone (s : State) (ctx : Nat) : State :=
  match s.dev.ctxs.get ctx with
  | none => s.mopResult 0 false
  | some c =>
    if !c.dying then (if c.queues.any (fun p => p.2.dying) then s else s.mopResult 0 false)
    else if !c.queues.isEmpty then s
    else
      let en := s.plat.energy
      let s1 := s.withDev ((s.dev.partCopies s.env ctx).dropCtx ctx)
      { s1 with plat := { s1.plat with result := 0, busy := false, energy := { en with res := en.res.erase ctx } } }

/-- OP 4: destroy a queue. -/
def State.destroyQueueOp (ctx q : Nat) (s : State) : State :=
  if (s.dev.queue ctx q).isNone then s.mopResult 4 false
  else ((s.withDev ((s.dev.destroyQ s.env ctx q).freeQ ctx q)).mopResult 0 true).mopDone ctx

/-- DESTROY_QUEUE. -/
def execDestroyQueue (ctx q : Nat) (s : State) : Host.Outcome State Fault Refusal := .next (s.mop (State.destroyQueueOp ctx q))

/-- OP 2: destroy a context, its queues first. -/
def State.destroyCtx (ctx : Nat) (s : State) : State :=
  match s.dev.ctxs.get ctx with
  | none => s.mopResult 4 false
  | some c =>
    let qs := c.queues.map Prod.fst
    let d1 := qs.foldl (fun d q => (d.destroyQ s.env ctx q).freeQ ctx q) (s.dev.updCtx ctx (fun c => { c with dying := true }))
    ((s.withDev d1).mopResult 0 true).mopDone ctx

/-- DESTROY_CONTEXT. -/
def execDestroyContext (ctx : Nat) (s : State) : Host.Outcome State Fault Refusal := .next (s.mop (State.destroyCtx ctx))

/-- QUEUE_FREE: every signal of a destroyed queue's packets has been written. -/
def execQueueFree (ctx q : Nat) (s : State) : Host.Outcome State Fault Refusal :=
  let due : Bool := match s.dev.queue ctx q with
    | some c => c.dying && c.pkts.isEmpty
    | none => false
  .next (if due then (s.withDev (s.dev.freeQ ctx q)).mopDone ctx else s)

end Sys2Proof.Machine
end

