-- ==== Sys2Proof/Machine/Sfu.lean ====
section
/-! DEFINITION. The special functions (R159 to R162): the value the device would deliver is an opaque constant of Config,
taken where it lies within the bound of R160 and replaced by the rounded value elsewhere. The exact value is
enclosed by a fixed-point computation with 200 fraction bits. -/

namespace Sys2Proof

open Config (Sfu)

/-- Fraction bits of the fixed-point computation. -/
def fxP : Nat := 200

/-- One in fixed point. -/
def fxOne : Int := 2 ^ fxP

/-- π in fixed point. -/
def fxPi : Int := 5048344754617993871973410141242436836214643421488662971535368

/-- ln 2 in fixed point. -/
def fxLn2 : Int := 1113844574712631719546256151097547306333272293549090750737802

/-- A fixed-point product. -/
def fxMul (a b : Int) : Int := a * b / fxOne

/-- A fixed-point quotient. -/
def fxDiv (a b : Int) : Int := a * fxOne / b

/-- A number as fixed point, rounded down. -/
def XVal.toFx : XVal → Int
  | .num s n d e =>
    let m : Int := ((n * 2 ^ (e + fxP).toNat / (d * 2 ^ (-(e + fxP)).toNat) : Nat) : Int)
    if s then -m else m
  | _ => 0

/-- A fixed-point value times 2^k as a number. -/
def fxVal (a : Int) (k : Int) : XVal := .num (decide (a < 0)) a.natAbs 1 (k - fxP)

/-- The exponential series from a term on. -/
def expSeries (y : Int) : Nat → Nat → Int → Int → Int
  | 0, _, _, acc => acc
  | fuel + 1, n, term, acc =>
    let t := fxMul term y / (n + 1 : Int)
    expSeries y fuel (n + 1) t (acc + t)

/-- 2^y for a fixed-point y: a mantissa and a binary exponent. -/
def exp2Fx (y : Int) : XVal :=
  let k := y / fxOne
  let f := y - k * fxOne
  fxVal (expSeries (fxMul f fxLn2) 60 0 fxOne fxOne) k

/-- The series of z + z³/3 + z⁵/5 + …, from a power of z on. -/
def atanhSeries (z2 : Int) : Nat → Nat → Int → Int → Int
  | 0, _, _, acc => acc
  | fuel + 1, n, p, acc => atanhSeries z2 fuel (n + 2) (fxMul p z2) (acc + p / (n : Int))

/-- log₂ of a positive number. -/
def log2Fx (n : Nat) (e : Int) : Int :=
  let k := Nat.log2 n
  let m : Int := (n : Int) * 2 ^ (fxP - min k fxP)  / 2 ^ (k - min k fxP)
  let z := fxDiv (m - fxOne) (m + fxOne)
  fxDiv (2 * atanhSeries (fxMul z z) 70 1 z 0) fxLn2 + (k + e) * fxOne

/-- The alternating series of sine (from term y, n = 1) or cosine (from 1, n = 0). -/
def trigSeries (y2 : Int) : Nat → Nat → Int → Int → Int
  | 0, _, _, acc => acc
  | fuel + 1, n, term, acc =>
    let t := -(fxMul term y2) / ((n + 1) * (n + 2) : Int)
    trigSeries y2 fuel (n + 2) t (acc + t)

/-- Sine of a fixed-point argument, plus q quarter turns. -/
def sinFx (y : Int) (q : Int) : Int :=
  let half := fxPi / 2
  let k := (y + half / 2) / half
  let r := y - k * half
  let r2 := fxMul r r
  match ((k + q) % 4).toNat with
  | 0 => trigSeries r2 40 1 r r
  | 1 => trigSeries r2 40 0 fxOne fxOne
  | 2 => -(trigSeries r2 40 1 r r)
  | _ => -(trigSeries r2 40 0 fxOne fxOne)

/-- e^−|y|, for a fixed-point y, as fixed point. -/
def expNegFx (y : Int) : Int := (exp2Fx (fxDiv (-(y.natAbs : Int)) fxLn2)).toFx

/-- Clamp a fixed-point argument to ±400, past which tanh and the sigmoid do not move in fixed point. -/
def fxClamp (y : Int) : Int := max (-400 * fxOne) (min (400 * fxOne) y)

/-- The exact result, where it is a binary fraction (R160): otherwise no delivered value equals it. -/
def sfuExact (f : Sfu) (neg : Bool) (n : Nat) (e : Int) : Option XVal :=
  let k := Nat.log2 n
  let pow := n = 2 ^ k
  match f with
  | .rcp => if pow then some (.num neg 1 1 (-(k + e))) else none
  | .rsq => if pow && (k + e) % 2 = 0 then some (.num false 1 1 (-(k + e) / 2)) else none
  | .exp2 =>
    if e ≤ 14 && k + e ≤ 14 && (e ≥ 0 || n % 2 ^ (-e).toNat = 0) then
      let z : Int := ((n * 2 ^ e.toNat / 2 ^ (-e).toNat : Nat) : Int)
      some (.num false 1 1 (if neg then -z else z))
    else none
  | .log2 => if pow then some (.ofInt (k + e)) else none
  | .sin | .cos | .tanh | .sigm => none

/-- The result enclosed, for an input that is a number other than zero. The sine and the tanh of a small input lie just
below it in magnitude. -/
def sfuApprox (f : Sfu) (neg : Bool) (n : Nat) (e : Int) : XVal :=
  let x : XVal := .num neg n 1 e
  let small := decide (e + Nat.log2 n < -40)
  let under : XVal := .num neg (n * 2 ^ 80 - 1) 1 (e - 80)
  match f with
  | .rcp => .num neg 1 n (-e)
  | .rsq =>
    let e2 := e - e % 2
    let m := n * 2 ^ (e % 2).toNat
    .num false (isqrtFrom (2 ^ 400 / m) 200 0) 1 (-200 - e2 / 2)
  | .exp2 => exp2Fx (max (-20000 * fxOne) (min (20000 * fxOne) (if e > 20 then (if neg then -20000 * fxOne else 20000 * fxOne) else x.toFx)))
  | .log2 => fxVal (log2Fx n e) 0
  | .sin => if small then under else fxVal (sinFx x.toFx 0) 0
  | .cos => fxVal (sinFx x.toFx 1) 0
  | .tanh =>
    if small then under
    else
      let y := fxClamp x.toFx
      let q := expNegFx (2 * y)
      let t := fxDiv (fxOne - q) (fxOne + q)
      fxVal (if neg then -t else t) 0
  | .sigm =>
    let y := fxClamp x.toFx
    let q := expNegFx y
    fxVal (if neg then fxDiv q (fxOne + q) else fxDiv fxOne (fxOne + q)) 0

/-- |a − b| ≤ n · 2^q, for two numbers. -/
def within (a b : XVal) (n : Nat) (q : Int) : Bool :=
  match (sumX .rne [a, b.negate]).1 with
  | .num _ m d e => !magLt n 1 q m d e
  | _ => false

/-- The exponent of one ulp of a number in a floating format. -/
def ulpExp (f : FloatFmt) : XVal → Int
  | .num _ n d e => if n = 0 then 1 - f.bias - f.mb else max (floorLog n d e - f.mb) (1 - f.bias - f.mb)
  | _ => 0

/-- The bound of R160 on an f32 result `y` for the enclosed value `a` of an input; past 1024π sine and cosine may be any
finite value of [−1, 1]. -/
def sfuBound (f : Sfu) (x a y : XVal) : Bool :=
  let f32 : FloatFmt := ⟨8, 23, 127⟩
  let u := ulpExp f32 a
  let le1 := match y with | .num _ n d e => !magLt 1 1 0 n d e | _ => false
  match f with
  | .rcp | .rsq => within a y 1 u
  | .exp2 => within a y 2 u
  | .log2 =>
    let mid := match x with | .num _ n d e => !magLt n d e 1 1 (-1) && !magLt 2 1 0 n d e | _ => false
    if mid then within a y 1 (-22) else within a y 2 u
  | .sin | .cos => if (fxVal (1024 * fxPi) 0).lt (match x with | .num _ n d e => .num false n d e | z => z) then le1 else within a y 1 (-21)
  | .tanh => le1 && within a y 1 (-22)
  | .sigm => le1 && !(y.neg? && !y.isZero) && within a y 1 (-22)

/-- A number's odd magnitude and its binary exponent, after at most some halvings. -/
def oddPart : Nat → Nat → Int → Nat × Int
  | 0, n, e => (n, e)
  | fuel + 1, n, e => if n % 2 = 0 then oddPart fuel (n / 2) (e + 1) else (n, e)

/-- A value with a code in a narrow format, in which it is exact. -/
def exactIn (t : Ty) (x : XVal) : Bool := (deliver t .rne x).2 = 0 && (t.value (deliver t .rne x).1).eqv x

/-- An f32 value rounded once into a narrow format stays within one of its ulps of the enclosed value, under every
rounding mode (R160). -/
def narrowBound (t : Ty) (ex y : XVal) : Bool :=
  match t.floatFmt with
  | some g => [RMode.rne, .rz, .rd, .ru].all (fun m => within ex (t.value (deliver t m y).1) 1 (ulpExp g ex))
  | none => false

/-- The exact cases of R160. -/
def sfuNamed (f : Sfu) (neg : Bool) (n : Nat) (e : Int) : Option XVal :=
  match f with
  | .rcp | .exp2 | .log2 => sfuExact f neg n e
  | _ => none

/-- The f32 result of a special function for an input that is a number other than zero (R159, R160). The value depends on
the input alone: an input that f16 or bf16 holds too has an f32 result which, rounded once into that format, keeps its
bound. Which of the admitted results stands is the hardware's; one outside the bound is replaced by the correctly rounded
value (log entry 7). -/
def sfuF32 (f : Sfu) (neg : Bool) (n0 : Nat) (e0 : Int) : XVal :=
  let q := oddPart 32 n0 e0
  let n := q.1
  let e := q.2
  let x : XVal := .num neg n 1 e
  let ex := (sfuExact f neg n e).getD (sfuApprox f neg n e)
  let rne := deliver .f32 .rne ex
  if (sfuNamed f neg n e).isSome && rne.2 = 0 then Ty.f32.value rne.1
  else if rne.2 &&& fOF ≠ 0 then .inf ex.neg?
  else
    let y := Ty.f32.value (Config.sfuValue f neg n e).toNat
    let fin := match y with | .num _ _ _ _ => true | _ => false
    if fin && sfuBound f x ex y && [Ty.f16, .bf16].all (fun t => !exactIn t x || narrowBound t ex y) then y
    else Ty.f32.value rne.1

/-- The magnitude of a number. -/
def XVal.mag : XVal → XVal
  | .num _ n d e => .num false n d e
  | z => z

/-- The exact value exceeds the largest finite magnitude of the target: an overflow, which gives an infinity whatever the
rounding mode (R162). -/
def sfuOver (t : Ty) (a : XVal) : Bool := (t.value t.maxMag).lt a.mag

/-- The flags of R162, from the exact value (none when no binary fraction equals it), its enclosure, and what was
delivered. -/
def sfuFlags (t : Ty) (ex : Option XVal) (a : XVal) (d : XVal) : Flags :=
  let differs := match ex with | some v => !(v.eqv d) | none => true
  let zero := match ex with | some v => v.isZero | none => false
  let minv := match t.floatFmt with | some g => .num false 1 1 (1 - g.bias) | none => .zero false
  if sfuOver t a then fOF ||| fIX
  else (if differs then fIX else 0) ||| (if differs && !zero && a.mag.lt minv then fUF else 0)

/-- A special function of one element (R159 to R162): the code and the flags. -/
def sfu (f : Sfu) (t : Ty) (mode : RMode) (x : XVal) : Nat × Flags :=
  let one : XVal := .ofInt 1
  let half : XVal := .num false 1 1 (-1)
  let give (v : XVal) (fl : Flags) : Nat × Flags := ((deliver t mode v).1, fl)
  match x with
  | .absent => give .absent 0
  | .nan => give .nan 0
  | .inf s =>
    match f with
    | .rcp => give (.zero s) 0
    | .rsq => if s then give .nan fIV else give (.zero false) 0
    | .exp2 => if s then give (.zero false) 0 else give (.inf false) 0
    | .log2 => if s then give .nan fIV else give (.inf false) 0
    | .sin | .cos => give .nan fIV
    | .tanh => give (if s then one.negate else one) 0
    | .sigm => if s then give (.zero false) 0 else give one 0
  | .num s n d e =>
    if n = 0 then
      match f with
      | .rcp | .rsq => give (.inf s) fDZ
      | .exp2 => give one 0
      | .log2 => give (.inf true) fDZ
      | .sin | .tanh => give (.zero s) 0
      | .cos => give one 0
      | .sigm => give half 0
    else if s && (f = .rsq || f = .log2) then give .nan fIV
    else
      let n := n / d
      let a := (sfuExact f s n e).getD (sfuApprox f s n e)
      let c := if sfuOver t a then t.signed a.neg? t.infMag else (deliver t mode (sfuF32 f s n e)).1
      (c, sfuFlags t (sfuExact f s n e) a (t.value c))

end Sys2Proof
end

