-- ==== Sys2Proof/Machine/Convert.lean ====
section
/-! DEFINITION. Class 4 on registers: conversions (R156 to R158), special functions (R159 to R162), random numbers and
the absent code (R163 to R167). -/

namespace Sys2Proof.Machine

/-! ### Conversions (R156 to R158) -/

/-- The sub-elements a conversion reads, and where it writes the first of them (R156). -/
def cvtPart (src dst : Ty) (p : Nat) : List Nat × Nat :=
  let ns := src.lanes
  let nt := dst.lanes
  if ns ≤ nt then (List.range ns, if ns < nt then p * ns else 0)
  else ((List.range nt).map (fun j => p * nt + j), 0)

/-- A lane word with consecutive sub-elements replaced, from one number on. -/
def putSubs (t : Ty) (w : W32) (at_ : Nat) (l : List Nat) : W32 :=
  packWord t ((List.range t.lanes).map (fun j => if at_ ≤ j && decide (j < at_ + l.length) then l.getD (j - at_) 0 else subElem t w j))

/-- Set the RNG states of some lanes. -/
def Group.setRngs (g : Group) (l : List (Nat × W64)) : Group := l.foldl (fun g p => g.setRng p.1 p.2) g

/-- Results of a conversion lane by lane: the word, the flags, and the RNG state after (R51). -/
def View.writeCvt (x : View) (m : Mask) (d : Nat) (f : Nat → W32 × Flags × W64) : View :=
  let r := (lanesOf m).map (fun l => (l, f l))
  let g := x.g.setVs d (r.map (fun p => (p.1, p.2.1)))
  let g := g.setRngs (r.map (fun p => (p.1, p.2.2.2)))
  ({ x with g } : View).raiseFlags (orFlags (r.map (fun p => p.2.2.1)))

/-- One lane of VCVT (R156, R157). -/
def View.cvtLane (x : View) (f : FmtV) (src : Ty) (l : Nat) : W32 × Flags × W64 :=
  let part := cvtPart src f.ty f.vc.toNat
  let w := x.v f.va.toNat l
  let vals := part.1.map (fun j => x.g.elem src f.vb.toNat (subElem src w j))
  let ms := x.modes f.rm l (vals.map XVal.present)
  let rs := List.zipWith (fun v mode => deliver f.ty mode v) vals ms.1
  (putSubs f.ty (x.v f.vd.toNat l) part.2 (rs.map Prod.fst), orFlags (rs.map Prod.snd), ms.2)

/-- VCVT (R156, R157). -/
def execVcvt (f : FmtV) (s : State) :=
  s.vector (.vcvt f) 8 f.ms (fun x m =>
    match Ty.ofCode f.md.toNat with
    | none => x
    | some src => x.writeCvt m f.vd.toNat (x.cvtLane f src))

/-- The scale format of VCVTS (R158). -/
def scaleTy : Nat → Ty
  | 0 => .e8m0 | 1 => .e5m2 | _ => .e4m3

/-- The quantised element: its code and flags (R158); under an infinite scale a finite x gives a zero of its own sign. -/
def quantElem (t : Ty) (mode : RMode) (x s : XVal) : Nat × Flags :=
  if !x.present || !s.present then (t.absentCode.getD 0, 0)
  else if s = .nan then ((deliver t mode .nan).1, 0)
  else
    match x, s with
    | .num neg _ _ _, .inf _ => give t mode (.zero neg, 0)
    | _, _ => give t mode (x.div s)

/-- One lane of VCVTS (R158). -/
def View.cvtsLane (x : View) (f : FmtV) (l : Nat) : W32 × Flags × W64 :=
  let v := Ty.f32.value (x.v f.va.toNat l).toNat
  let sc := (scaleTy f.md.toNat).value ((x.opB f l).toNat % 256)
  let ms := x.modes f.rm l [v.present && sc.present]
  let r := quantElem f.ty (ms.1.headD .rne) v sc
  (putSubs f.ty (x.v f.vd.toNat l) f.vc.toNat [r.1], r.2, ms.2)

/-- VCVTS (R158). -/
def execVcvts (f : FmtV) (s : State) :=
  s.vector (.vcvts f) 8 f.ms (fun x m => x.writeCvt m f.vd.toNat (x.cvtsLane f))

/-! ### Special functions (R159 to R162) -/

/-- A special function of every sub-element, under RMODE. -/
def View.special (x : View) (fn : Config.Sfu) (f : FmtV) (l : Nat) : W32 × Flags :=
  map1 f.ty (fun a => sfu fn f.ty (x.mode .dflt) (f.ty.value a)) (x.v f.va.toNat l)

/-- VRCP (R159). -/
def execVrcp (f : FmtV) (s : State) := s.vecV (.vrcp f) f (fun x l => x.special .rcp f l)
/-- VRSQ (R159). -/
def execVrsq (f : FmtV) (s : State) := s.vecV (.vrsq f) f (fun x l => x.special .rsq f l)
/-- VEXP2 (R159). -/
def execVexp2 (f : FmtV) (s : State) := s.vecV (.vexp2 f) f (fun x l => x.special .exp2 f l)
/-- VLOG2 (R159). -/
def execVlog2 (f : FmtV) (s : State) := s.vecV (.vlog2 f) f (fun x l => x.special .log2 f l)
/-- VSIN (R159). -/
def execVsin (f : FmtV) (s : State) := s.vecV (.vsin f) f (fun x l => x.special .sin f l)
/-- VCOS (R159). -/
def execVcos (f : FmtV) (s : State) := s.vecV (.vcos f) f (fun x l => x.special .cos f l)
/-- VTANH (R159). -/
def execVtanh (f : FmtV) (s : State) := s.vecV (.vtanh f) f (fun x l => x.special .tanh f l)
/-- VSIGM (R159). -/
def execVsigm (f : FmtV) (s : State) := s.vecV (.vsigm f) f (fun x l => x.special .sigm f l)

/-! ### Random numbers (R163, R164) -/

/-- The word VRAND writes from a state after its step (R163). -/
def randWord (t : Ty) (st : W64) : W32 :=
  if t = .f32 then BitVec.ofNat 32 (deliver .f32 .rne (.num false ((rngBits st).toNat / 256) 1 (-24))).1 else rngBits st

/-- VRAND (R163). -/
def execVrand (f : FmtV) (s : State) :=
  s.vector (.vrand f) 8 f.ms (fun x m => x.writeCvt m f.vd.toNat (fun l =>
    let st := rngStep (x.g.rngOf l)
    (randWord f.ty st, 0, st)))

/-- VSEED (R164). -/
def execVseed (f : FmtV) (s : State) :=
  s.vector (.vseed f) 8 f.ms (fun x m => { x with g := x.g.setRngs ((lanesOf m).map (fun l =>
    (l, nonzeroState (if f.md = 0 then x.v f.vb.toNat l ++ x.v f.va.toNat l
      else seedMix (x.pair f.vb.toNat) (x.g.gid * x.g.width + l))))) })

/-! ### The absent code (R166, R167) -/

/-- VMKABS (R166). -/
def execVmkabs (f : FmtV) (s : State) :=
  s.vecV (.vmkabs f) f (fun _ _ => (packWord f.ty ((List.range f.ty.lanes).map (fun _ => f.ty.absentCode.getD 0)), 0))

/-- VISABS (R167). -/
def execVisabs (f : FmtV) (s : State) :=
  s.vecT (.visabs f) f (fun x l =>
    let p : Nat → Bool := fun c => !(x.g.elem f.ty f.vb.toNat c).present
    let cs := subs f.ty (x.v f.va.toNat l)
    (if f.md = 0 then cs.any p else cs.all p, 0))

end Sys2Proof.Machine
end

