-- ==== Sys2Proof/Machine/Energy.lean ====
section
/-! DEFINITION. Energy: the meters and the charges of contexts, the control of the core clock, the gating of cores and
engines, and the power cap (R418 to R424). -/

namespace Sys2Proof.Machine

/-! ### Meters (R418, R419) -/

/-- Add readings to counters. -/
def addMeters (m : SMap 64) (l : List (Nat × Nat)) : SMap 64 :=
  l.foldl (fun m p => m.set p.1 (m.get p.1 + BitVec.ofNat 64 p.2)) m

/-- Sum of readings. -/
def sumMeters (l : List (Nat × Nat)) : Nat := l.foldl (fun a p => a + p.2) 0

/-- Readings by unit alone. -/
def byUnit (l : List (Nat × Nat × Nat)) : List (Nat × Nat) := l.map (fun p => (p.1, p.2.2))

/-- Nanojoules of a reading. -/
def readingTotal (r : EnergyReading) : Nat :=
  sumMeters r.core + sumMeters (byUnit r.copies) + sumMeters r.clu + sumMeters (byUnit r.col) + sumMeters (byUnit r.dyn)
    + sumMeters r.mem + r.rest

/-- Samples of ETOT that the average of 1 ms still needs (R420). -/
def keepSamples (now : Nat) : List (W64 × W64) → List (W64 × W64)
  | a :: b :: l => if b.1.toNat + 1000000 ≤ now then keepSamples now (b :: l) else a :: b :: l
  | l => l

/-- The meters after a reading. A core's meter covers its copy engine. -/
def Energy.meter (en : Energy) (now : W64) (r : EnergyReading) : Energy :=
  let tot := en.tot + BitVec.ofNat 64 (readingTotal r)
  { en with
    core := addMeters (addMeters en.core r.core) (byUnit r.copies), clu := addMeters en.clu r.clu
    col := addMeters en.col (byUnit r.col), dyn := addMeters en.dyn (byUnit r.dyn), mem := addMeters en.mem r.mem, tot
    samples := keepSamples now.toNat (en.samples ++ [(now, tot)]) }

/-! ### Charges (R421) -/

/-- A context's part of some energy by weights; the rounding of a part is not stated. -/
def partOf (tick k nj w total : Nat) : Nat :=
  if total = 0 then 0
  else nj * w / total + (if nj * w % total = 0 then 0 else Config.freeNat tick (200 + k) % 2)

/-- Weights by context of a core's groups: issues in the interval, of those that have retired too, or, with none, the register rows
held. -/
def Device.coreWeights (d : Device) (core : Nat) : List (Nat × Nat) :=
  let issued := (d.issues.filter (fun p => p.1 / 16 = core)).map (fun p => (p.1 % 16, p.2))
  if sumMeters issued ≠ 0 then issued
  else (d.groupsOn core).filterMap (fun p => if p.2.phase = .live then some (p.2.ctx, p.2.nreg * p.2.width / 32) else none)

/-- Nanojoules charged to a context by one unit's energy and weights. -/
def weighed (tick unit nj ctx : Nat) (w : List (Nat × Nat)) : Nat :=
  partOf tick (unit * 16 + ctx) nj (sumMeters (w.filter (fun p => p.1 = ctx))) (sumMeters w)

/-- Nanojoules that a reading charges to a context. -/
def Device.chargeOf (d : Device) (tick ctx : Nat) (r : EnergyReading) : Nat :=
  let own (l : List (Nat × Nat × Nat)) : Nat := sumMeters ((l.filter (fun p => p.2.1 = ctx)).map (fun p => (p.1, p.2.2)))
  let cores := r.core.foldl (fun a p => a + weighed tick p.1 p.2 ctx (d.coreWeights p.1)) 0
  let mem := r.mem.foldl (fun a p =>
    a + weighed tick (64 + p.1) p.2 ctx ((r.bytes.filter (fun b => b.1 = p.1)).map (fun b => (b.2.1, b.2.2)))) 0
  own r.copies + own r.col + own r.dyn + cores + mem

/-- The per-context words at their reset values (R418). -/
def Reservoir.reset : Reservoir := { share := 0, rcap := 0, afloor := 0, t0 := 0, rlvl := 0, ectx := 0 }

/-- The words of a context. -/
def Energy.reservoir (en : Energy) (ctx : Nat) : Reservoir := (en.res.get ctx).getD Reservoir.reset

/-- A level clamped to what a reservoir holds, in nJ. -/
def clampLevel (cap : Nat) (v : Int) : Int := max (-(cap * 1000000 : Nat)) (min (cap * 1000000 : Nat) v)

/-- One charge and one share of the cap, PCAP × SHARE / 1,000 W for 1 µs. -/
def Reservoir.charge (x : Reservoir) (pcap nj : Nat) : Reservoir :=
  { x with ectx := x.ectx + BitVec.ofNat 64 nj, rlvl := clampLevel x.rcap (x.rlvl - nj + (pcap * x.share : Nat)) }

/-- A charge is due: a charge for every 1 µs of DTIME (R421). -/
def Platform.chargeDue (p : Platform) : Bool := !p.inReset && decide ((p.energy.charges + 1) * 1000 ≤ p.dtime.toNat)

/-- ENERGY_CHARGE: the readings of 1 µs (R419, R421). -/
def execEnergyCharge (r : EnergyReading) (s : State) : Host.Outcome State Fault Refusal :=
  if !s.plat.chargeDue then .next s
  else
    let en := { s.plat.energy.meter s.plat.dtime r with charges := s.plat.energy.charges + 1 }
    let res := (s.dev.ctxs.map Prod.fst).foldl (fun m c =>
      AMap.set m c ((en.reservoir c).charge en.pcap (s.dev.chargeOf s.tick c r))) en.res
    .next { s with plat := { s.plat with energy := { en with res } }, dev := { s.dev with issues := [] } }

/-! ### The core clock (R420) -/

/-- Energy of the last 1 ms, in nJ. -/
def Energy.lastMs (en : Energy) : Nat := match en.samples with
  | p :: _ => en.tot.toNat - p.2.toNat
  | [] => en.tot.toNat

/-- Some sensor is at or above a temperature in 1/16 °C. -/
def anyAbove (l : List (BitVec 16)) (t : Int) : Bool := l.any (fun v => decide (t ≤ v.toInt))

/-- The 16 sensors as they read. -/
def Platform.sensors (p : Platform) : List (BitVec 16) := (List.range 16).map (fun k => p.tsens.get k)

/-- The control step, at every 10 µs of DTIME. -/
def Energy.control (en0 : Energy) (now : Nat) (temps : List (BitVec 16)) : Energy :=
  if now / 10000 ≤ en0.controls then en0
  else
    let en := { en0 with controls := now / 10000 }
    let hot := anyAbove temps 1680
    let high := decide (en.pcap * 1000000 < en.lastMs)
    if hot || high then { en with mhz := max 1000 (en.mhz - 100), thermal := en.thermal || hot, capped := en.capped || high }
    else if decide (en.lastMs * 100 < en.pcap * 1000000 * 95) && !anyAbove temps 1632 then
      let mhz := min 2600 (en.mhz + 100)
      { en with mhz, thermal := en.thermal && decide (mhz ≠ 2600), capped := en.capped && decide (mhz ≠ 2600) }
    else en

/-! ### Gating (R423, R424) -/

/-- A core holds no group, its queue is empty, and no saved team must resume on it. -/
def Device.coreIdle (d : Device) (e : Env) (core : Nat) : Bool :=
  (d.groupsOn core).isEmpty && (d.localQ core).isEmpty
    && !d.ctxs.any (fun c => c.2.images.any (fun i => (d.imageNow e c.1 i.1 c.2 i.2).aff = some core))

/-- The next state of an idle timer: it starts, or 20 µs have passed. -/
def idleGate (now : W64) (done : Gate) : Option Gate → Gate
  | some (.on (some t)) => if t.toNat + 20000 ≤ now.toNat then done else .on (some t)
  | some (.on none) | none => .on (some now)
  | some g => g

/-- CORE_GATE_DECIDE: a core that has been idle for 20 µs stops accepting steals; the first event of an idle core starts its
timer. -/
def execCoreGateDecide (core : Nat) (s : State) :=
  s.whenDue (decide (core < 64)) (fun e d =>
    if d.coreIdle e core then { d with coreGate := d.coreGate.set core (idleGate e.now .gating (d.coreGate.get core)) }
    else match d.coreGate.get core with
      | some (.on _) => { d with coreGate := d.coreGate.erase core }
      | _ => d)

/-- CORE_GATE_COMMIT: the L1 is written back and dropped with the instruction cache, and the logic powers down. -/
def execCoreGateCommit (core : Nat) (s : State) :=
  s.whenDue (s.dev.coreGate.get core = some .gating) (fun _ d =>
    let mine : L1Sector → Bool := fun x => x.core = core
    let d1 := d.l1Clean mine mine
    { d1 with
      l1Lines := d1.l1Lines.filter (fun y => y.core ≠ core)
      icache := d1.icache.filter (fun c => c.core ≠ core)
      tlb := d1.tlb.filter (fun t => t.unit ≠ coreTlb core)
      coreGate := d1.coreGate.set core (.gated false) })

/-- CORE_WAKE: work was addressed to a gated core, or to a gating one. -/
def execCoreWake (core : Nat) (s : State) :=
  s.whenDue (s.dev.coreGate.get core = some (.gated true)) (fun _ d => { d with coreGate := d.coreGate.erase core })

/-- ENGINE_GATE: an engine without an entry for 20 µs; the first event of an idle engine starts its timer. -/
def execEngineGate (cluster : Nat) (kind : EngineKind) (s : State) :=
  let k := engineKey cluster kind
  s.whenDue (decide (cluster < 8)) (fun e d =>
    if (d.entriesOn k).isEmpty then { d with engGate := d.engGate.set k (idleGate e.now (.gated false) (d.engGate.get k)) }
    else { d with engGate := d.engGate.erase k })

/-! ### The power cap (R418) -/

/-- PCAP as a write leaves it. -/
def pcapOf (v : W64) : Nat := max 150 (min 550 (v.extractLsb' 0 10).toNat)

/-- The host writes PCAP; a narrower write is ignored. -/
def Platform.writePcap (p : Platform) (width : Nat) (v : W64) : Platform :=
  if width ≠ 8 || p.inReset then p else { p with energy := { p.energy with pcap := pcapOf v } }

/-- PCAP_WRITE. -/
def execPcapWrite (width : Nat) (v : W64) (s : State) := s.onPlat (fun p => p.writePcap width v)

end Sys2Proof.Machine
end

