-- ==== Sys2Proof/Machine/EngineMath.lean ====
section
/-! DEFINITION. The arithmetic of the collision and dynamics engines: exact geometry on integers in units of 2^−149
(R342 to R346), and the step of a rigid body (R350, R351). -/

namespace Sys2Proof.Machine

/-! ### Exact f32 values as integers -/

/-- A number of f32 in units of 2^−149; none for NaN, an infinity or ABSENT. -/
def f32Units (w : W32) : Option Int :=
  match Ty.f32.value w.toNat with
  | .num neg n d e => let m : Int := (n * 2 ^ (e + 149).toNat / d : Nat); some (if neg then -m else m)
  | _ => none

/-- One voxel in units of 2^−149. -/
def voxelUnit : Int := 2 ^ 149

/-- The values of some operands, when all are finite numbers. -/
def allUnits : List W32 → Option (List Int)
  | [] => some []
  | w :: l =>
    match f32Units w, allUnits l with
    | some v, some vs => some (v :: vs)
    | _, _ => none

/-! ### Voxels (R326, R342) -/

/-- Coordinate d of a rank-3 key. -/
def unmorton (bits key d : Nat) : Nat :=
  (List.range bits).foldl (fun c i => if key.testBit (3 * i + d) then c + 2 ^ i else c) 0

/-- The voxel of a key of a region of rank 3. -/
def voxelOfKey (bits key : Nat) : Nat × Nat × Nat := (unmorton bits key 0, unmorton bits key 1, unmorton bits key 2)

/-- The rank-3 key of a coordinate. -/
def morton (bits : Nat) (c : Nat × Nat × Nat) : Nat :=
  (List.range bits).foldl (fun k i =>
    k + (if c.1.testBit i then 2 ^ (3 * i) else 0) + (if c.2.1.testBit i then 2 ^ (3 * i + 1) else 0)
      + (if c.2.2.testBit i then 2 ^ (3 * i + 2) else 0)) 0

/-- The value word of R343 for a hit or a miss. -/
def colqWord (hit : Bool) (c : Nat × Nat × Nat) (data : Nat) : W64 :=
  BitVec.ofNat 64 ((if hit then 2 ^ 63 else 0) + c.2.2 % 1024 * 2 ^ 52 + c.2.1 % 1024 * 2 ^ 42 + c.1 % 1024 * 2 ^ 32 + data % 2 ^ 32)

/-- The value word of an invalid query. -/
def colqInvalid : W64 := BitVec.ofNat 64 (2 ^ 62)

/-! ### QSPHERE (R345) -/

/-- A sphere: its centre, and its radius, none when it is +Inf. -/
structure Sphere where
  c : List Int
  r : Option Int
  deriving DecidableEq, Repr

/-- The sphere that four operands give; none when they are invalid. -/
def sphereOf (l : List W32) : Option Sphere :=
  match allUnits (l.take 3) with
  | none => none
  | some c =>
    match Ty.f32.value (l.getD 3 0).toNat with
    | .inf false => some { c, r := none }
    | _ =>
      match f32Units (l.getD 3 0) with
      | some r => if r < 0 then none else some { c, r := some r }
      | none => none

/-- The centre of a voxel lies in a sphere, its surface included. -/
def Sphere.holds (s : Sphere) (v : Nat × Nat × Nat) : Bool :=
  match s.r with
  | none => true
  | some r =>
    let d (k n : Nat) : Int := (2 * n + 1 : Int) * 2 ^ 148 - s.c.getD k 0
    decide (d 0 v.1 * d 0 v.1 + d 1 v.2.1 * d 1 v.2.1 + d 2 v.2.2 * d 2 v.2.2 ≤ r * r)

/-- A box of voxels meets the sphere's bounding box (R355). -/
def Sphere.meets (s : Sphere) (corner : Nat × Nat × Nat) (size : Nat) : Bool :=
  match s.r with
  | none => true
  | some r =>
    let ok (k n : Nat) : Bool := decide ((n : Int) * voxelUnit ≤ s.c.getD k 0 + r) && decide (s.c.getD k 0 - r ≤ ((n + size : Nat) : Int) * voxelUnit)
    ok 0 corner.1 && ok 1 corner.2.1 && ok 2 corner.2.2

/-! ### QSEG (R346) -/

/-- A segment: its start, its direction, and the common denominator of its parameters. -/
structure Seg where
  s : List Int
  d : List Int
  den : Nat
  deriving DecidableEq, Repr

/-- The segment that six operands give; none when they are invalid. -/
def segOf (l : List W32) : Option Seg :=
  match allUnits (l.take 6) with
  | none => none
  | some v =>
    let d := (List.range 3).map (fun k => v.getD (3 + k) 0 - v.getD k 0)
    some { s := v.take 3, d, den := (d.filter (fun x => x ≠ 0)).foldl (fun a x => a * x.natAbs) 1 }

/-- The parameters, over the denominator, at which a segment lies in a slab; none for never. -/
def Seg.slab (g : Seg) (k : Nat) (lo hi : Int) : Option (Int × Int) :=
  let s := g.s.getD k 0
  let d := g.d.getD k 0
  if d = 0 then (if lo ≤ s && decide (s ≤ hi) then some (0, g.den) else none)
  else
    let a := (lo - s) * g.den / d
    let b := (hi - s) * g.den / d
    some (min a b, max a b)

/-- The least parameter at which a segment lies in a box of voxels; none when it does not meet it. -/
def Seg.enters (g : Seg) (corner : Nat × Nat × Nat) (size : Nat) : Option Int :=
  let sl (k n : Nat) := g.slab k ((n : Int) * voxelUnit) (((n + size : Nat) : Int) * voxelUnit)
  match sl 0 corner.1, sl 1 corner.2.1, sl 2 corner.2.2 with
  | some a, some b, some c =>
    let lo := max 0 (max a.1 (max b.1 c.1))
    let hi := min (g.den : Int) (min a.2 (min b.2 c.2))
    if lo ≤ hi then some lo else none
  | _, _, _ => none

/-- A voxel on a segment: where it is entered, its key, and its coordinate. -/
structure SegStop where
  t : Int
  key : Nat
  c : Nat × Nat × Nat
  deriving DecidableEq, Repr

/-- The voxels of a cube of 2^n per side that a segment meets. -/
def Seg.stops (g : Seg) : Nat → Nat × Nat × Nat → List SegStop
  | 0, c =>
    match g.enters c 1 with
    | some t => [{ t, key := morton 10 c, c }]
    | none => []
  | n + 1, c =>
    match g.enters c (2 ^ (n + 1)) with
    | none => []
    | some _ => (List.range 8).flatMap (fun o =>
        g.stops n (c.1 + o % 2 * 2 ^ n, c.2.1 + o / 2 % 2 * 2 ^ n, c.2.2 + o / 4 * 2 ^ n))

/-- Insert a voxel by parameter, then by key. -/
def insertStop (a : SegStop) : List SegStop → List SegStop
  | [] => [a]
  | b :: l => if a.t < b.t || (a.t = b.t && decide (a.key < b.key)) then a :: b :: l else b :: insertStop a l

/-- The voxels in the order in which a hit is sought. -/
def Seg.ordered (g : Seg) (e : Nat) : List SegStop := (g.stops e (0, 0, 0)).foldr insertStop []

/-- The square root of n/d · 2^−298 to more bits than any format holds, with a sticky low bit. -/
def sqrtRatio (n d : Nat) : XVal :=
  if n = 0 then .zero false
  else
    let k := 64 + Nat.log2 d
    let m := n * 2 ^ (2 * k) / d
    let r := isqrtFrom m (Nat.log2 m / 2 + 1) 0
    .num false (2 * r + (if r * r * d = n * 2 ^ (2 * k) then 0 else 1)) 1 (-(k : Int) - 1 - 149)

/-- The distance from the start at a parameter, in f32 (R346). -/
def Seg.distance (g : Seg) (t : Int) : Nat :=
  let d2 := g.d.foldl (fun a x => a + x.natAbs * x.natAbs) 0
  (deliver .f32 .rne (sqrtRatio (t.natAbs * t.natAbs * d2) (g.den * g.den))).1

/-! ### The step of a body (R350, R351) -/

/-- Sum. -/
def fAdd (a b : Nat) : Nat := (floatBin .f32 .rne (addX .rne) a b).1
/-- Negation. -/
def fNeg (a : Nat) : Nat := floatSign .f32 true a
/-- Difference. -/
def fSub (a b : Nat) : Nat := fAdd a (fNeg b)
/-- Product. -/
def fMul (a b : Nat) : Nat := (floatBin .f32 .rne XVal.mul a b).1
/-- Quotient. -/
def fDiv (a b : Nat) : Nat := (floatBin .f32 .rne XVal.div a b).1
/-- a·b + c with one rounding. -/
def fMa (a b c : Nat) : Nat := (floatFma .f32 .rne false a b c).1
/-- Square root. -/
def fSqrt (a : Nat) : Nat := (floatSqrt .f32 .rne a).1

/-- Three components. -/
structure Vec3 where
  x : Nat
  y : Nat
  z : Nat
  deriving DecidableEq, Repr

/-- A quaternion. -/
structure Quat where
  w : Nat
  x : Nat
  y : Nat
  z : Nat
  deriving DecidableEq, Repr

/-- The dot product of R351. -/
def dot3 (a b : Vec3) : Nat := fMa a.z b.z (fMa a.y b.y (fMul a.x b.x))

/-- a · x + y by components. -/
def Vec3.fma (a : Nat) (x y : Vec3) : Vec3 := { x := fMa a x.x y.x, y := fMa a x.y y.y, z := fMa a x.z y.z }

/-- A body's f32 fields. -/
structure Body where
  pos : Vec3
  im : Nat
  vel : Vec3
  q : Quat
  om : Vec3
  f : Vec3
  tq : Vec3
  iinv : Vec3
  isStatic : Bool
  deriving DecidableEq, Repr

/-- The body of a record's 128 bytes. -/
def Body.ofBytes (l : List Byte) : Body :=
  let n := bytesToNat l
  let w (off : Nat) : Nat := n / 2 ^ (8 * off) % 2 ^ 32
  let v (off : Nat) : Vec3 := { x := w off, y := w (off + 4), z := w (off + 8) }
  { pos := v 0, im := w 12, vel := v 16, q := { w := w 32, x := w 36, y := w 40, z := w 44 }, om := v 48, f := v 64
    tq := v 80, iinv := v 96, isStatic := w 108 % 2 = 1 }

/-- The components of a vector. -/
def Vec3.list (v : Vec3) : List Nat := [v.x, v.y, v.z]
/-- The components of a quaternion. -/
def Quat.list (q : Quat) : List Nat := [q.w, q.x, q.y, q.z]

/-- The f32 fields that a step uses (R352). -/
def Body.used (b : Body) : List Nat :=
  b.im :: (b.pos.list ++ b.vel.list ++ b.q.list ++ b.om.list ++ b.f.list ++ b.tq.list ++ b.iinv.list)

/-- One. -/
def fOne : Nat := 0x3F800000
/-- Two. -/
def fTwo : Nat := 0x40000000

/-- The rows of the rotation of a quaternion (R351). -/
def Quat.rows (q : Quat) : Vec3 × Vec3 × Vec3 :=
  let xx := fMul q.x q.x
  let yy := fMul q.y q.y
  let zz := fMul q.z q.z
  let xy := fMul q.x q.y
  let xz := fMul q.x q.z
  let yz := fMul q.y q.z
  let wx := fMul q.w q.x
  let wy := fMul q.w q.y
  let wz := fMul q.w q.z
  ({ x := fSub fOne (fMul fTwo (fAdd yy zz)), y := fMul fTwo (fSub xy wz), z := fMul fTwo (fAdd xz wy) },
   { x := fMul fTwo (fAdd xy wz), y := fSub fOne (fMul fTwo (fAdd xx zz)), z := fMul fTwo (fSub yz wx) },
   { x := fMul fTwo (fSub xz wy), y := fMul fTwo (fAdd yz wx), z := fSub fOne (fMul fTwo (fAdd xx yy)) })

/-- The quaternion after a step: integrated and normalised (R351). -/
def Quat.step (q : Quat) (om : Vec3) (dt : Nat) : Quat :=
  let h := fMul dt 0x3F000000
  let pw := fNeg (dot3 om { x := q.x, y := q.y, z := q.z })
  let px := fMa q.w om.x (fMa om.y q.z (fNeg (fMul om.z q.y)))
  let py := fMa q.w om.y (fMa om.z q.x (fNeg (fMul om.x q.z)))
  let pz := fMa q.w om.z (fMa om.x q.y (fNeg (fMul om.y q.x)))
  let nw := fMa h pw q.w
  let nx := fMa h px q.x
  let ny := fMa h py q.y
  let nz := fMa h pz q.z
  let s := fMa nz nz (fMa ny ny (fMa nx nx (fMul nw nw)))
  if (Ty.f32.value s).isZero then { w := fOne, x := 0, y := 0, z := 0 }
  else
    let d := fSqrt s
    { w := fDiv nw d, x := fDiv nx d, y := fDiv ny d, z := fDiv nz d }

/-- A body after a step under a gravity and a time step (R351). -/
def Body.step (b : Body) (g : Vec3) (dt : Nat) : Body :=
  let acc := Vec3.fma b.im b.f g
  let vel := Vec3.fma dt acc b.vel
  let m := b.q.rows
  let col (p : Vec3 → Nat) : Vec3 := { x := p m.1, y := p m.2.1, z := p m.2.2 }
  let bb : Vec3 := { x := fMul (dot3 (col Vec3.x) b.tq) b.iinv.x, y := fMul (dot3 (col Vec3.y) b.tq) b.iinv.y
                     z := fMul (dot3 (col Vec3.z) b.tq) b.iinv.z }
  let om : Vec3 := { x := fMa dt (dot3 m.1 bb) b.om.x, y := fMa dt (dot3 m.2.1 bb) b.om.y
                     z := fMa dt (dot3 m.2.2 bb) b.om.z }
  { b with vel, om, pos := Vec3.fma dt vel b.pos, q := b.q.step om dt }

/-- The values a step writes. -/
def Body.written (b : Body) : List Nat := b.pos.list ++ [b.im] ++ b.vel.list ++ [0] ++ b.q.list ++ b.om.list ++ [0]

/-- A NaN or an infinity. -/
def notFinite (c : Nat) : Bool := match Ty.f32.value c with
  | .nan | .inf _ => true
  | _ => false

end Sys2Proof.Machine
end

