-- ==== Sys2Proof/Machine/Engines.lean ====
section
/-! DEFINITION. The collision and dynamics engines: COLQ and DYNS, the start of entries, the end of a query, and the step of
a body (R337 to R354). -/

namespace Sys2Proof.Machine

/-! ### Entries (R337, R338) -/

/-- Enter an entry into an engine; its arrival wakes the engine (R424). -/
def Device.addEntry (d : Device) (key : Nat) (t : Entry) : Device :=
  { d with
    entries := d.entries.set key (d.entriesOn key ++ [t]), nextId := d.nextId + 1
    engGate := d.engGate.erase key }

/-- The new entry of an issuing group. -/
def Device.newEntry (d : Device) (r : SplitRef) (x : View) (w : EngineWork) : Entry :=
  { id := d.nextId, ctx := x.g.ctx, core := r.core, swarm := x.g.swarm, prio := d.effPrio r.key x.g
    stamp := { guid := x.g.guid, count := x.g.writes }, started := false, work := w }

/-- PROD of an engine's futures (R341, R349). -/
def engineTag (k : EngineKind) (cluster : Nat) : Nat := match k with
  | .col => 0x4080 + cluster
  | .dyn => 0x4088 + cluster

/-- Take an entry for some futures: the wait for a free one, in which a split that waits already and comes first goes first
(R337); each lane's future as SPAWN sets a RESULT, where poison met traps as it does there (R341, R426); and the entry. -/
def engineIssue (e : Env) (r : SplitRef) (d : Device) (x : View) (k : EngineKind) (futs : List (Nat × W64)) (w : EngineWork) : Res :=
  let cl := r.core / 8
  let key := engineKey cl k
  let since := x.sp.queued.getD e.tick
  if decide (64 ≤ (d.entriesOn key).length) || !d.engineTurn r.key x.g k since then .stall (.engine k since)
  else
    match eachLane (fun d f => laneOf ((d.futClaim e x.g.ctx (Agent.core r.core) f (engineTag k cl) x.g.swarm).map (fun d => (d, ()))))
        futs (d.order r.core .rel .dev) with
    | .error w => .stall w
    | .ok (d1, _, fs) =>
      match worstTrap fs with
      | some t => .trap d1 x.sp t
      | none => Res.view (d1.addEntry key (d1.newEntry r x w)) r.key (x.next 8)

/-! ### COLQ (R340, R341) -/

/-- COLQ: the region; each lane's coordinates and then its future, the lowest code over the lanes being reported (R169); and
the entry. -/
def State.colq (s : State) (i : Instr) (f : FmtT) (regionBad : Region → Bool) (laneBad : Region → View → Nat → Bool)
    (query : View → Nat → Query) : Host.Outcome State Fault Refusal :=
  s.access i 8 f.ms (fun e r d x act =>
    if x.g.sealBuf.isSome then everyLane x act 0x07 0 d
    else
      match d.combOf x f.md.toNat with
      | none => everyLane x act 0x11 0 d
      | some g =>
        if g.rank ≠ 3 then everyLane x act 0x11 0 d
        else if regionBad g then everyLane x act 0x11 4 d
        else
          let lanes := lanesOf act
          let fut (l : Nat) : W64 := x.g.vpair f.va.toNat l
          let check (l : Nat) : Except Miss Run :=
            if laneBad g x l then .error (.fault 0x11 0 0 []) else d.futRun e r.core x.g.ctx (fut l)
          (sumChecks (lanes.map (fun l => (l, check l)))).run d x (fun _ =>
            engineIssue e r d x .col (lanes.map (fun l => (l, fut l)))
              (.colq g.id (lanes.map (fun l => { lane := l, fut := fut l, q := query x l })))))

/-- The query registers of a lane. -/
def View.queryRegs (x : View) (f : FmtT) (n lane : Nat) : List W32 := (List.range n).map (fun k => x.v (f.vb.toNat + k) lane)

/-- The voxel that a lane's query registers name. -/
def View.voxel (x : View) (f : FmtT) (lane : Nat) : Nat × Nat × Nat :=
  let c (k : Nat) : Nat := (x.v (f.vb.toNat + k) lane).toNat
  (c 0, c 1, c 2)

/-- COLQ QPOINT (R340, R344). -/
def execColqQpoint (f : FmtT) (s : State) :=
  s.colq (.colqQpoint f) f (fun _ => false)
    (fun g x l => let c := x.voxel f l; decide (2 ^ g.e ≤ max c.1 (max c.2.1 c.2.2)))
    (fun x l => .point (x.voxel f l))

/-- COLQ QSPHERE (R340, R345). -/
def execColqQsphere (f : FmtT) (s : State) :=
  s.colq (.colqQsphere f) f (fun _ => false) (fun _ _ _ => false) (fun x l => .sphere (x.queryRegs f 4 l))

/-- COLQ QSEG (R340, R341, R346). -/
def execColqQseg (f : FmtT) (s : State) :=
  s.colq (.colqQseg f) f (fun g => decide (10 < g.e)) (fun _ _ _ => false) (fun x l => .seg (x.queryRegs f 6 l))

/-! ### DYNS (R349) -/

/-- The step a descriptor asks for. -/
def DynsWork.ofWords (l : List W64) : DynsWork :=
  let w (k : Nat) : W64 := l.getD k 0
  { bodies := w 0, fut := w 1, g := [(w 2).extractLsb' 0 32, (w 2).extractLsb' 32 32, (w 3).extractLsb' 0 32]
    dt := (w 3).extractLsb' 32 32, n := ((w 4).extractLsb' 0 9).toNat, next := 0, nf := 0, nabs := 0, nstc := 0, nstep := 0 }

/-- Checks 2 and 3 of R349. -/
def dynsCheck (l : List W64) : CopyCheck :=
  let w := DynsWork.ofWords l
  let last := w.bodies.toNat + 128 * (w.n - 1)
  firstCheck [
    failsWith (w.n = 0 || decide (256 < w.n) || (l.getD 4 0).extractLsb' 9 55 ≠ 0 || (l.drop 5).any (fun v => v ≠ 0)) 0x11 0,
    failsWith (decide (w.bodies.toNat % 128 ≠ 0)) 0x03 w.bodies,
    failsWith (decide (2 ^ 57 ≤ w.bodies.toNat)) 0x05 w.bodies,
    failsWith (decide (2 ^ 57 ≤ last)) 0x05 (BitVec.ofNat 64 last)]

/-- DYNS (R349). -/
def execDyns (f : FmtT) (s : State) :=
  s.copyOp (.dyns f) f (sealable := false) (fun e r d x ws =>
    match dynsCheck ws with
    | some p => checkTrap d x p
    | none =>
      let w := DynsWork.ofWords ws
      onceRun d x (d.resultOk e r.core x.g.ctx w.fut) (fun _ =>
        (engineIssue e r d x .dyn ((futOf w.fut).toList.map (fun f => (x.sp.low, f))) (.dyns w)).uniform))

/-! ### The start of an entry (R338) -/

/-- An entry's priority: the issuing group's at issue, or what was lent through one of its futures. -/
def Device.entryPrio (d : Device) (e : Env) (t : Entry) : Nat :=
  t.futs.foldl (fun p f =>
    match d.futLoad e t.ctx Agent.unit f with
    | .ok (_, y) => if y.prio = 63 then p else max p y.prio
    | .error _ => p) t.prio

/-- The queued entry that starts next: the greatest priority, then the oldest. -/
def Device.nextEntry (d : Device) (e : Env) : List Entry → Option Entry
  | [] => none
  | t :: l =>
    match d.nextEntry e l with
    | none => some t
    | some u => if d.entryPrio e t < d.entryPrio e u then some u else some t

/-- Queries not yet ended of the entries that have started. -/
def runningQueries (l : List Entry) : Nat :=
  ((l.filter Entry.started).map (fun t => match t.work with
    | .colq _ left => left.length
    | .dyns _ => 1)).foldl (fun a b => a + b) 0

/-- Queries that the engine works on: those that have read their region's entry, as a query does when it starts (R347). -/
def Entry.working (t : Entry) : Nat := match t.work with
  | .colq _ left => (left.filter (fun q => q.reg.isSome)).length
  | .dyns _ => 0

/-- A collision engine works on up to four queries at once (R338). -/
def queryRoom (l : List Entry) : Nat := 4 - (l.map Entry.working).sum

/-- An engine has room for another entry: four queries, or one step. -/
def engineRoom (k : EngineKind) (l : List Entry) : Bool := match k with
  | .col => decide (runningQueries l < 4)
  | .dyn => decide (runningQueries l < 1)

/-- The READY bit of an engine (R415). -/
def engineReady (p : Platform) (cluster : Nat) (k : EngineKind) : Bool := match k with
  | .col => p.ready.getLsbD (40 + cluster)
  | .dyn => p.ready.getLsbD (48 + cluster)

/-- ENGINE_ENTRY_START (R338). -/
def execEngineEntryStart (cluster : Nat) (k : EngineKind) (s : State) :=
  let key := engineKey cluster k
  let l := s.dev.entriesOn key
  s.whenDue (engineReady s.plat cluster k && engineRoom k l) (fun e d =>
    match d.nextEntry e (l.filter (fun t => !t.started)) with
    | none => d
    | some t => { d with entries := d.entries.upd key (fun l =>
        l.map (fun u => if u.id = t.id then { u with started := true } else u)) })

/-! ### Queries (R343 to R348) -/

/-- Count the occupied voxels of a sphere under a cell at a depth, but for the keys a query has read already. -/
def Device.sphereCount (e : Env) (ctx : Nat) (r : Region) (sp : Sphere) (seen : AMap Bool) :
    Nat → Nat → Nat × Nat × Nat → Nat → Device → Except CombErr (Device × Nat)
  | 0, _, _, i, d => .error (.malformed (d.combCellAt ctx r i) d.touches)
  | fuel + 1, depth, c, i, d =>
    match d.combRead e ctx r depth i with
    | .error x => .error x
    | .ok (d1, .leaf _ _ l) =>
      .ok (d1, (l.filter (fun p => (seen.get p.1).isNone && sp.holds (voxelOfKey r.e p.1))).length)
    | .ok (d1, .inner _ _ ch) =>
      let n := 2 ^ (r.e - depth - 1)
      (ch.zip (List.range ch.length)).foldl (fun acc p =>
        match acc with
        | .error x => .error x
        | .ok (d, k) =>
          let c' := (c.1 + p.2 % 2 * n, c.2.1 + p.2 / 2 % 2 * n, c.2.2 + p.2 / 4 * n)
          if p.1 = 0 || !sp.meets c' n then .ok (d, k)
          else
            match Device.sphereCount e ctx r sp seen fuel (depth + 1) c' (p.1 - 1) d with
            | .error x => .error x
            | .ok (d2, j) => .ok (d2, k + j)) (.ok (d1, 0))

/-- Whether a key is present: as a query has read it, or reads it now (R331, R347). -/
def Device.keyHere (d : Device) (e : Env) (ctx : Nat) (r : Region) (seen : AMap Bool) (key : Nat) : Except CombErr (Device × Bool) :=
  match seen.get key with
  | some b => .ok (d, b)
  | none => (d.combGet e ctx r key).map (fun p => (p.1, p.2.isSome))

/-- The first occupied voxel among some (R346). -/
def Device.segHit (e : Env) (ctx : Nat) (r : Region) (seen : AMap Bool) : List SegStop → Device → Except CombErr (Device × Option SegStop)
  | [], d => .ok (d, none)
  | a :: l, d =>
    match d.keyHere e ctx r seen (r.key [a.c.1, a.c.2.1, a.c.2.2]) with
    | .error x => .error x
    | .ok (d1, true) => .ok (d1, some a)
    | .ok (d1, false) => Device.segHit e ctx r seen l d1

/-- The region's entry as a query has read it at its start, or reads it now (R347). -/
def Device.queryEntry (d : Device) (ctx region : Nat) (q : LaneQuery) : Comb := q.reg.getD (d.comb ctx region)

/-- The device as a query finds its region: under the entry it has read where the region was released or defined anew, else
under the entry as it stands. -/
def Device.forQuery (d : Device) (ctx region : Nat) (q : LaneQuery) : Device :=
  let c := d.queryEntry ctx region q
  if (d.comb ctx region).config = c.config then d else d.setComb ctx region c

/-- A query's value word, from the keys it has read and those it reads now (R343). What a query finds whose region was released
or defined anew between its issue and its start is DESIGN CHOICE (log entry 55): the region as it stands at the start. -/
def Device.answerIn (d : Device) (e : Env) (ctx region : Nat) (q : LaneQuery) : Except CombErr (Device × W64) :=
  match q.q with
  | .point c =>
    match d.region ctx region with
    | none => .ok (d, 0)
    | some r =>
      match d.keyHere e ctx r q.seen (r.key [c.1, c.2.1, c.2.2]) with
      | .error x => .error x
      | .ok (d1, b) => .ok (d1, colqWord b (0, 0, 0) 0)
  | .sphere l =>
    match sphereOf l with
    | none => .ok (d, colqInvalid)
    | some sp =>
      match d.region ctx region with
      | none => .ok (d, 0)
      | some r =>
        let own := (q.seen.filter (fun p => p.2 && sp.holds (voxelOfKey r.e p.1))).length
        let word (n : Nat) : W64 := colqWord (decide (n ≠ 0)) (0, 0, 0) (min n 0xFFFFFFFF)
        let root := (d.comb ctx region).root
        if root = 0 then .ok (d, word own)
        else
          match Device.sphereCount e ctx r sp q.seen (r.depth + 1) 0 (0, 0, 0) (root - 1) d with
          | .error x => .error x
          | .ok (d1, n) => .ok (d1, word (own + n))
  | .seg l =>
    match segOf l with
    | none => .ok (d, colqInvalid)
    | some g =>
      match d.region ctx region with
      | none => .ok (d, colqWord false (0, 0, 0) 0xFFFFFFFF)
      | some r =>
        match Device.segHit e ctx r q.seen (g.ordered r.e) d with
        | .error x => .error x
        | .ok (d1, none) => .ok (d1, colqWord false (0, 0, 0) 0xFFFFFFFF)
        | .ok (d1, some a) => .ok (d1, colqWord true a.c (g.distance a.t))

/-- A query's answer; the region's entry stays as it stands. -/
def Device.answer (d : Device) (e : Env) (ctx region : Nat) (q : LaneQuery) : Except CombErr (Device × W64) :=
  ((d.forQuery ctx region q).answerIn e ctx region q).map (fun p => (p.1.setComb ctx region (d.comb ctx region), p.2))

/-- The value word of a query that a fault ends (R348, R426). -/
def colqFault (code detail : Nat) (a : W64) : W64 :=
  BitVec.ofNat 64 (code % 256 + detail % 256 * 256 + (a.extractLsb' 9 48).toNat * 2 ^ 16)

/-- A lane's query leaves its entry, and the last one frees it. -/
def Device.endQuery (d : Device) (key id lane : Nat) : Device :=
  { d with entries := d.entries.upd key (fun l => (l.map (fun t =>
      match t.work with
      | .colq g left => if t.id = id then { t with work := .colq g (left.filter (fun q => q.lane ≠ lane)) } else t
      | .dyns _ => t)).filter (fun t => match t.work with
      | .colq _ left => !left.isEmpty
      | .dyns _ => true)) }

/-- End a lane's query with its answer or its fault (R348). -/
def Device.queryDone (d : Device) (e : Env) (cluster : Nat) (t : Entry) (region : Nat) (q : LaneQuery) : Except Miss Device :=
  let ag := Agent.engine cluster
  match d.answer e t.ctx region q with
  | .ok (d1, v) => (d1.endQuery cluster t.id q.lane).futSettle e t.ctx ag q.fut 2 v none true t.who
  | .error (.miss (.fault code det a ts)) =>
    (((d.retouch ts).endQuery cluster t.id q.lane).reportFault e t.ctx code det a t.who).futSettle e t.ctx ag q.fut 4
      (colqFault code (if code = 0x0D then det else 0) a) none true t.who
  | .error (.miss m) => .error m
  | .error (.malformed a ts) =>
    ((d.retouch ts).endQuery cluster t.id q.lane).futSettle e t.ctx ag q.fut 4 (colqFault 0x11 3 a) none true t.who
  | .error (.full _) => .ok d

/-- An entry of an engine that has started and may read (R257). -/
def Device.entryRuns (d : Device) (key id : Nat) : Option Entry :=
  (d.entriesOn key).find? (fun t => t.id = id && t.started && d.reached t.stamp)

/-- COLQ_QUERY_DONE: a lane's query ends (R347, R348); one that has not started starts with it, while the engine works on fewer
than four (R338). -/
def execColqQueryDone (cluster id lane : Nat) (s : State) :=
  let key := engineKey cluster .col
  s.onDev ((s.dev.entryRuns key id).elim 0 Entry.ctx) ((s.dev.entryRuns key id).elim 0 Entry.core)
    (swarm := (s.dev.entryRuns key id).elim 0 Entry.swarm) (fun e d =>
    match d.entryRuns key id with
    | none => none
    | some t =>
      match t.work with
      | .dyns _ => none
      | .colq region left =>
        (left.find? (fun q => q.lane = lane && (q.reg.isSome || queryRoom (d.entriesOn key) ≠ 0))).map (fun q => d.queryDone e cluster t region q))

/-! ### Steps (R351 to R353) -/

/-- The value word of a completed step (R352). -/
def DynsWork.word (w : DynsWork) : W64 := BitVec.ofNat 64 (w.nf * 2 ^ 48 + w.nabs * 2 ^ 32 + w.nstc * 2 ^ 16 + w.nstep)

/-- Word k of the next body, as the engine has read it or reads it now; poison met is a fault (R426). -/
def Device.bodyWord (d : Device) (e : Env) (cluster ctx : Nat) (w : DynsWork) (k : Nat) : Except Miss (Device × DynsWork) :=
  match w.seen.get k with
  | some _ => .ok (d, w)
  | none =>
    let a := w.bodies + BitVec.ofNat 64 (128 * w.next + 16 * k)
    match d.load e.plat e.tick ctx (Agent.engine cluster) false a 16 with
    | .error m => .error m
    | .ok (d1, l, bad) => if bad then .error (.fault 0x0D 4 a d1.touches) else .ok (d1, { w with seen := w.seen.set k l })

/-- The eight words of the next body: the engine reads it whole before it writes it (R353). -/
def Device.bodyWhole (d : Device) (e : Env) (cluster ctx : Nat) (w : DynsWork) : List Nat → Except Miss (Device × DynsWork)
  | [] => .ok (d, w)
  | k :: l =>
    match d.bodyWord e cluster ctx w k with
    | .error m => .error m
    | .ok (d1, w1) => d1.bodyWhole e cluster ctx w1 l

/-- One body read, and stepped or skipped: the device, and the counts with the four words to write (R351 to R353). A body that
may not be written is a fault before any word of it is. -/
def Device.bodyStep (d : Device) (e : Env) (cluster ctx : Nat) (w : DynsWork) : Except Miss (Device × DynsWork) :=
  match d.bodyWhole e cluster ctx w (List.range 8) with
  | .error m => .error m
  | .ok (d1, w0) =>
    let b := Body.ofBytes ((List.range 8).flatMap (fun k => (w0.seen.get k).getD []))
    let w1 := { w with next := w.next + 1, seen := [] }
    if b.isStatic then .ok (d1, { w1 with nstc := w.nstc + 1 })
    else if (b.used ++ (w.dt :: w.g).map BitVec.toNat).any (fun c => Ty.f32.value c = .absent) then
      .ok (d1, { w1 with nabs := w.nabs + 1 })
    else
      match d1.probeN e.plat e.tick ctx (Agent.engine cluster) .store false (w.bodies + BitVec.ofNat 64 (128 * w.next)) 64 with
      | .error m => .error m
      | .ok _ =>
        let g : Vec3 := { x := (w.g.getD 0 0).toNat, y := (w.g.getD 1 0).toNat, z := (w.g.getD 2 0).toNat }
        let out := (b.step g w.dt.toNat).written
        let due := (List.range 4).map (fun k => (8 * w.next + k, ((out.drop (4 * k)).take 4).flatMap (natToBytes 4)))
        .ok (d1, { w1 with nstep := w.nstep + 1, nf := w.nf + (if out.any notFinite then 1 else 0), due := w.due ++ due })

/-- Replace the work of an entry. -/
def Device.setEntryWork (d : Device) (key id : Nat) (w : EngineWork) : Device :=
  { d with entries := d.entries.upd key (fun l => l.map (fun t => if t.id = id then { t with work := w } else t)) }

/-- A fault ends a step at a body (R353): the bodies it has begun to write are written whole, its future is FAULTED, and a
record is written. -/
def Device.dynsFaulted (d : Device) (e : Env) (cluster : Nat) (t : Entry) (w : DynsWork) (body code det : Nat) (a : W64) : Device :=
  (((d.dynsSettle e cluster t.ctx w).1.dropEntry (engineKey cluster .dyn) t.id).reportFault e t.ctx code det a t.who).pay e
    { ctx := t.ctx, core := t.core, swarm := t.swarm, ag := Agent.engine cluster, undo := [], fut := futOf w.fut, st := 4
      value := BitVec.ofNat 64 (code % 256 + (if code = 0x0D then det * 256 else 0) + body * 2 ^ 16), engine := true }

/-- Words of stepped bodies are written, lowest first; a fault ends the step at its body. -/
def Device.dynsWords (d : Device) (e : Env) (cluster : Nat) (t : Entry) (w : DynsWork) (fin : Device → DynsWork → Except Miss Device) :
    AMap (List Byte) → Except Miss Device
  | [] => fin d w
  | x :: l =>
    match d.dynsWrite e cluster t.ctx w x with
    | .ok (d1, w1) => d1.dynsWords e cluster t w1 fin l
    | .error (.fault code det a ts) => .ok ((d.retouch ts).dynsFaulted e cluster t w (x.1 / 8) code det a)
    | .error m => .error m

/-- The words of stepped bodies are written; then the step completes (R352). -/
def Device.dynsEnd (d : Device) (e : Env) (cluster : Nat) (t : Entry) (w : DynsWork) : Except Miss Device :=
  d.dynsWords e cluster t w (fun d w =>
    (d.dropEntry (engineKey cluster .dyn) t.id).futEnd e t.ctx (Agent.engine cluster) w.fut 2 w.word none true t.who) w.due

/-- One body of an entry: the step goes on, completes, or ends by a fault (R352, R353). -/
def Device.dynsBody (d : Device) (e : Env) (cluster : Nat) (t : Entry) (w : DynsWork) : Except Miss Device :=
  match (if w.next < w.n then d.bodyStep e cluster t.ctx w else .ok (d, w)) with
  | .ok (d1, w1) =>
    if w1.next < w1.n then .ok (d1.setEntryWork (engineKey cluster .dyn) t.id (.dyns w1))
    else d1.dynsEnd e cluster t w1
  | .error (.fault code det a ts) =>
    (d.retouch ts).dynsWords e cluster t w (fun d w => .ok (d.dynsFaulted e cluster t w w.next code det a)) w.due
  | .error m => .error m

/-- DYNS_BODY_STEP: the next body of a step that has started (R351). -/
def execDynsBodyStep (cluster id : Nat) (s : State) :=
  let key := engineKey cluster .dyn
  s.onDev ((s.dev.entryRuns key id).elim 0 Entry.ctx) ((s.dev.entryRuns key id).elim 0 Entry.core)
    (swarm := (s.dev.entryRuns key id).elim 0 Entry.swarm) (fun e d =>
    match d.entryRuns key id with
    | none => none
    | some t =>
      match t.work with
      | .colq _ _ => none
      | .dyns w => some (d.dynsBody e cluster t w))

/-! ### What the engines do between events (R331, R347, R353) -/

/-- A query reads the region's entry, then a key, each at an instant of its own; a read that fails is left to the query's
end. -/
def Device.queryNudge (d : Device) (e : Env) (ctx region key room : Nat) (q : LaneQuery) : Device × LaneQuery :=
  match q.reg with
  | none => (d, if room = 0 then q else { q with reg := some (d.comb ctx region) })
  | some c =>
    if (d.comb ctx region).config ≠ c.config || c.config = 0 then (d, q)
    else
      let r := Region.ofConfig region c.config
      let k := match q.q with
        | .point c => r.key [c.1, c.2.1, c.2.2]
        | _ => key % 2 ^ (3 * r.e)
      match d.keyHere e ctx r q.seen k with
      | .ok (d1, b) => (d1, { q with seen := q.seen.set k b })
      | .error _ => (d, q)

/-- The lanes' queries of an entry read on; some more may start. -/
def Device.queriesNudge (d : Device) (e : Env) (ctx region k : Nat) : Nat → List LaneQuery → Device × List LaneQuery
  | _, [] => (d, [])
  | room, q :: l =>
    let p := if Config.freeNat e.tick (k + 2 * q.lane) % 2 = 1 then
      d.queryNudge e ctx region (Config.freeNat e.tick (k + 2 * q.lane + 1)) room q else (d, q)
    let r := p.1.queriesNudge e ctx region k (if q.reg.isNone && p.2.reg.isSome then room - 1 else room) l
    (r.1, p.2 :: r.2)

/-- A step reads a word of its next body, steps a body, or writes a word of a stepped one, which of them a free choice; what
fails is left to the step's own event. -/
def Device.dynsNudge (d : Device) (e : Env) (cluster ctx : Nat) (w : DynsWork) (k : Nat) : Device × DynsWork :=
  let i := Config.freeNat e.tick (k + 1)
  let next : Except Miss (Device × DynsWork) := match Config.freeNat e.tick k % 3 with
    | 0 => if w.next < w.n then d.bodyWord e cluster ctx w (i % 8) else .ok (d, w)
    | 1 => if w.next < w.n then d.bodyStep e cluster ctx w else .ok (d, w)
    | _ =>
      match w.due[i % (w.due.length + 1)]? with
      | some x => d.dynsWrite e cluster ctx w x
      | none => .ok (d, w)
  match next with
  | .ok p => p
  | .error _ => (d, w)

/-- An entry goes on for some actions, while other entries have some queries under way. -/
def Device.entryDrift (d : Device) (e : Env) (cluster ctx others : Nat) (w : EngineWork) : Nat → Device × EngineWork
  | 0 => (d, w)
  | n + 1 =>
    let k := 2 ^ 26 + 256 * n
    let p := d.entryDrift e cluster ctx others w n
    match p.2 with
    | .colq region left =>
      let room := 4 - (others + (left.filter (fun q => q.reg.isSome)).length)
      let q := p.1.queriesNudge e ctx region k room left
      (q.1, .colq region q.2)
    | .dyns w => let q := p.1.dynsNudge e cluster ctx w k; (q.1, .dyns q.2)

/-- The engines go on with the entries that have started, by how much a free choice. -/
def Device.enginesDrift (d : Device) (e : Env) : Device :=
  d.entries.foldl (fun d p => p.2.foldl (fun d t =>
    if t.started && d.reached t.stamp then
      let others := ((d.entriesOn p.1).filter (fun u => u.id ≠ t.id)).map Entry.working |>.sum
      let q := d.entryDrift e (p.1 % 8) t.ctx others t.work (Config.freeNat e.tick (2 ^ 22 + t.id))
      q.1.setEntryWork p.1 t.id q.2
    else d) d) d

end Sys2Proof.Machine
end

