-- ==== Sys2Proof/Machine/ErrorEvents.lean ====
section
/-! DEFINITION. Errors: counting windows and retirement, uncorrectable errors and poison, control-state parity, and the
host's side of the error ring (R425 to R431). -/

namespace Sys2Proof.Machine

/-! ### Locations (R428, R431) -/

/-- Unit kind, unit index, row and physical address of a location; 0 where it has none. -/
def locPlace : ErrLoc → Nat × Nat × Nat × Nat
  | .regFile c row _ => (1, c, row, 0)
  | .scratchpad c row => (2, c, row, 0)
  | .sealStore c row _ => (3, c, row, 0)
  | .l1 c row pa => (4, c, row, pa)
  | .icache c row pa => (4, c, row, pa)
  | .l2 s line pa => (5, s, line, pa)
  | .dram c row pa => (6, c, row, pa)

/-- The slice of the L2 that is the home of an address (R237). -/
def homeSlice (pa : Nat) : Nat := (pa / 2 ^ 7 % 16) ^^^ (pa / 2 ^ 11 % 16) ^^^ (pa / 2 ^ 15 % 16) ^^^ (pa / 2 ^ 19 % 16)

/-- A location that the device has: an address in the L2 lies in its home slice. -/
def locOk : ErrLoc → Bool
  | .l2 s _ pa => s = homeSlice pa
  | _ => true

/-- A record of a memory error. -/
def locRecord (l : ErrLoc) (type : Nat) (now : W64) : ErrRec :=
  let p := locPlace l
  { ErrRec.blank type now with unitKind := p.1, unit := p.2.1, row := p.2.2.1, addr := BitVec.ofNat 64 p.2.2.2 }

/-- A tracked location is a given one. -/
def Tracked.is (t : Tracked) (l : ErrLoc) : Bool := t.kind = (locPlace l).1 && t.unit = (locPlace l).2.1 && t.row = (locPlace l).2.2.1

/-- Spares of a unit (R429). -/
def sparesOf (kind : Nat) : Nat := if kind = 5 then 32 else if kind = 6 then 64 else 4

/-- Key of a unit's spares in use. -/
def spareKey (l : ErrLoc) : Nat := (locPlace l).1 * 256 + (locPlace l).2.1

/-- The tracked entry with the least first time. -/
def oldestTracked : List Tracked → Option Tracked
  | [] => none
  | t :: l =>
    match oldestTracked l with
    | none => some t
    | some u => if u.t1.toNat < t.t1.toNat then some u else some t

/-- Track a location anew; a full table loses the entry with the least first time (R428). -/
def Errors.track (r : Errors) (t : Tracked) : Errors :=
  if r.tracked.length < 1024 then { r with tracked := r.tracked ++ [t] }
  else match oldestTracked r.tracked with
    | some o => { r with tracked := r.tracked.filter (fun u => u ≠ o) ++ [t] }
    | none => { r with tracked := [t] }

/-- Retire a location: a spare takes its place, or none is left (R429). -/
def Device.retire (d : Device) (e : Env) (l : ErrLoc) : Device :=
  let used := (d.errors.spares.get (spareKey l)).getD 0
  if used < sparesOf (locPlace l).1 then
    ({ d with errors := { d.errors with spares := d.errors.spares.set (spareKey l) (used + 1) } }).report e (locRecord l 4 e.now)
  else d.report e (locRecord l 6 e.now)

/-- The table with a correction at a location in it, and the location's entry (R428). -/
def Errors.correct (r : Errors) (now : W64) (l : ErrLoc) : Errors × Tracked :=
  let p := locPlace l
  match r.tracked.find? (fun t => t.is l) with
  | some t =>
    let t1 := if now.toNat - t.t1.toNat ≤ r.cewin.toNat then { t with n := t.n + 1 } else { t with n := 1, t1 := now }
    ({ r with tracked := r.tracked.map (fun u => if u.is l then t1 else u) }, t1)
  | none =>
    let t1 : Tracked := { kind := p.1, unit := p.2.1, row := p.2.2.1, n := 1, t1 := now }
    (r.track t1, t1)

/-- A correction at a location (R428). -/
def Device.corrected (d : Device) (e : Env) (l : ErrLoc) : Device :=
  let p := d.errors.correct e.now l
  if d.errors.cethr ≤ p.2.n then ({ d with errors := { p.1 with tracked := p.1.tracked.filter (fun t => !t.is l) } }).retire e l
  else ({ d with errors := p.1 }).report e (locRecord l 2 e.now)

/-- CORRECTED_ERROR: the instruction cache has parity and corrects nothing (R425). -/
def execCorrectedError (loc : ErrLoc) (s : State) :=
  s.whenDue (match loc with
    | .icache _ _ _ => false
    | _ => !s.plat.inReset && locOk loc) (fun e d => d.corrected e loc)

/-! ### Uncorrectable errors (R425, R426) -/

/-- The sector at a device address is poisoned: what an L1 holds of an HC page there goes; the copies of an SWC or PRIV page, which
were filled before, are as they were (log entry 13). -/
def Device.poisonSector (d : Device) (e : Env) (pa : Nat) (l : ErrLoc) : Device :=
  (({ d with poison := SMap.set d.poison (pa / 16) 0xFFFF } : Device).dropCopies .dev pa).report e (locRecord l 3 e.now)

/-- The team whose scratchpad holds a row of 64 bytes of a core. -/
def Device.teamAtRow (d : Device) (core row : Nat) : Option Nat :=
  (d.teams.find? (fun p => p.2.core = core && decide (p.2.spBase ≤ row * 64) && decide (row * 64 < p.2.spBase + p.2.spSize))).map Prod.fst

/-- A sealed group whose buffer is lost aborts and is queued again, three times in a row at most; past its commit point it
commits (R222, R426). -/
def Device.sealLost (d : Device) (e : Env) (key : Nat) (g : Group) (l : ErrLoc) : Device :=
  if g.sealBuf.isNone || g.phase = .committing then d
  else (d.killGroup e none key g).report e { locRecord l 3 e.now with ctx := g.ctx, core := key / 48, slot := key % 48, swarm := g.swarm }

/-- A dirty sector of an L1 is lost: it is poisoned where it lies, and takes the mark along (R425); a clean one is fetched
again. -/
def Device.l1Lost (d : Device) (e : Env) (core pa : Nat) (l : ErrLoc) : Device :=
  let here : L1Sector → Bool := fun x => x.core = core && x.pa = pa / 16
  match d.l1Find core pa with
  | none => d
  | some x =>
    if x.dirty = 0 && !x.lost then { d with l1 := d.l1.filter (fun y => !here y) }
    else ({ d with l1 := d.l1.map (fun y => if here y then { y with bad := 0xFFFF, lost := true } else y) }).report e (locRecord l 3 e.now)

/-- What an uncorrectable error at a location does. -/
def Device.uncorrectable (d : Device) (e : Env) (l : ErrLoc) : Device :=
  match l with
  | .regFile c _ slot => match d.groups.get (slotKey c slot) with
    | some g => d.killTeam e g.team { locRecord l 3 e.now with detail := 2, slot, swarm := g.swarm }
    | none => d
  | .scratchpad c row => match d.teamAtRow c row with
    | some t => d.killTeam e t { locRecord l 3 e.now with detail := 1 }
    | none => d
  | .sealStore c _ slot => match d.groups.get (slotKey c slot) with
    | some g => d.sealLost e (slotKey c slot) g l
    | none => d
  | .l1 c _ pa => d.l1Lost e c pa l
  | .icache c _ pa => { d with icache := d.icache.filter (fun x => !(x.core = c && x.line = lineKey .dev pa)) }
  | .l2 _ _ pa => d.poisonSector e pa l
  | .dram _ _ pa => d.poisonSector e pa l

/-- UNCORRECTABLE_ERROR. -/
def execUncorrectableError (loc : ErrLoc) (s : State) :=
  s.whenDue (!s.plat.inReset && locOk loc) (fun e d => d.uncorrectable e loc)

/-! ### Control-state parity (R427) -/

/-- Bits of READY that a cluster's parity error clears: CLU, COL and DYN. -/
def clusterBits (k : Nat) : W64 := (1#64 <<< (32 + k)) ||| (1#64 <<< (40 + k)) ||| (1#64 <<< (48 + k))

/-- An entry of a cluster's engine faults as one that reads a poisoned sector (R348, R353, R426). -/
def Device.faultEntry (d : Device) (e : Env) (cluster : Nat) (p : Nat × Entry) : Device :=
  match p.2.work with
  | .colq _ left => left.foldl (fun d (q : LaneQuery) => (d.reportFault e p.2.ctx 0x0D 4 0 { core := p.2.core, swarm := p.2.swarm }).pay e
      { ctx := p.2.ctx, core := p.2.core, swarm := p.2.swarm, ag := Agent.engine cluster, undo := [], fut := some q.fut, st := 4
        value := colqFault 0x0D 4 0, engine := true }) (d.dropEntry p.1 p.2.id)
  | .dyns w => d.dynsFaulted e cluster p.2 w w.next 0x0D 4 0

/-- Every entry of a cluster's engines faults. -/
def Device.faultEntries (d : Device) (e : Env) (cluster : Nat) : Device :=
  ([engineKey cluster .col, engineKey cluster .dyn].flatMap (fun k => (d.entriesOn k).map (fun t => (k, t)))).foldl
    (fun d p => d.faultEntry e cluster p) d

/-- A copy in flight on a cluster's copy engine faults after some of its elements (R297, R415). -/
def Device.faultCopy (d : Device) (e : Env) (p : Nat × Copy) : Device :=
  let n := if d.copyReady p.2 then Config.freeNat e.tick 3 % (p.2.shape.1 + 1) else 0
  let r := Device.copyMove d e p.1 p.2 n 0 d
  r.1.copyFaulted e p.1 p.2 0x0D 4 0 (r.2.1 * p.2.shape.2)

/-- Every copy in flight on a cluster faults. -/
def Device.faultCopies (d : Device) (e : Env) (cluster : Nat) : Device :=
  ((d.copies.filter (fun p => p.1 / 8 = cluster)).flatMap (fun p => p.2.map (fun c => (p.1, c)))).foldl (fun d p => d.faultCopy e p) d

/-- Every team of a cluster is killed. -/
def Device.killCluster (d : Device) (e : Env) (cluster : Nat) : Device :=
  (d.teams.filter (fun p => p.2.core / 8 = cluster)).foldl (fun d p =>
    d.killTeam e p.1 { ErrRec.blank 3 e.now with detail := 5, unitKind := 7, unit := cluster }) d

/-- The platform with a cluster offline until the next reset. -/
def Platform.takeOffline (p : Platform) (k : Nat) : Platform :=
  { p with ready := p.ready &&& ~~~clusterBits k, offline := p.offline ||| (1#8 <<< k) }

/-- CONTROL_PARITY_ERROR: the bits fall at once, and nothing of the cluster goes on; results that must wait for a page are owed
(log entry 34). -/
def execControlParityError (cluster : Nat) (s : State) : Host.Outcome State Fault Refusal :=
  if 8 ≤ cluster || s.plat.inReset then .next s
  else
    let s1 : State := { s with plat := s.plat.takeOffline cluster }
    .next (s1.withDev (((s1.dev.killCluster s1.env cluster).faultEntries s1.env cluster).faultCopies s1.env cluster))

/-! ### The host's side (R430) -/

/-- The bytes of a write of some width at an offset of a word, over what the word holds. -/
def mergeWord (old : W64) (off width : Nat) (v : W64) : W64 :=
  let m : W64 := BitVec.ofNat 64 ((2 ^ (8 * width) - 1) * 2 ^ (8 * off))
  (old &&& ~~~m) ||| ((v <<< (8 * off)) &&& m)

/-- The host writes ERRIDX: slots are freed, and what is held is written into a ring that is configured. -/
def Device.writeErridx (d : Device) (e : Env) (width : Nat) (v : W64) : Device :=
  let r := d.errors
  let d1 := { d with errors := { r with ridx := mergeWord r.ridx 0 width v } }
  d1.releaseHeld e

/-- ERRIDX_WRITE. -/
def execErridxWrite (width : Nat) (v : W64) (s : State) := s.whenDue (!s.plat.inReset) (fun e d => d.writeErridx e width v)

/-- ERDROP_READ: the count, and then 0. -/
def execErdropRead (s : State) :=
  s.whenDue true (fun _ d => { d with hostRead := natToBytes 8 d.errors.drop.toNat, errors := { d.errors with drop := 0 } })

end Sys2Proof.Machine
end

