-- ==== Sys2Proof/Machine/Gather.lean ====
section
/-! DEFINITION. Gather queues: GQCFG, GQPUSH, GQPOP, GQFLUSH, the timeout of a partial tile, delivery to parked poppers, and
the retry of a push (R303 to R307). -/

namespace Sys2Proof.Machine

/-! ### Queues (R303, R305) -/

/-- Key of a gather queue. -/
def gqKey (core q : Nat) : Nat := core * 8 + q

/-- The formats of rows, by TY code (R303). -/
def gqFormats : List Nat := [5, 8, 9, 10, 11, 12, 13]

/-- A configuration value's queue. -/
def GQueue.ofConfig (ctx : Nat) (v : W64) : GQueue :=
  { ctx, fmt := (v.extractLsb' 0 4).toNat, nk := (v.extractLsb' 4 3).toNat + 1, depth := (v.extractLsb' 8 8).toNat
    tout := (v.extractLsb' 16 32).toNat, pad := (v.extractLsb' 60 4).toNat, tiles := [] }

/-- Reserved bits of a configuration value are set. -/
def gqReserved (v : W64) : Bool := v.extractLsb' 48 12 ≠ 0 || v.getLsbD 7

/-- Bytes of storage a queue takes. -/
def GQueue.bytes (q : GQueue) : Nat := q.depth * q.nk * 512

/-- Storage taken by the other queues of a core. -/
def Device.gqUsed (d : Device) (core q : Nat) : Nat :=
  (d.gqs.filter (fun p => p.1 / 8 = core && p.1 ≠ gqKey core q)).foldl (fun a p => a + p.2.bytes) 0

/-- The splits of a core parked in GQPOP on a queue with no tile taken: slot key and lowest lane. -/
def Device.poppers (d : Device) (core q : Nat) : List (Nat × Group × Split × FmtT) :=
  (d.groups.filter (fun p => p.1 / 48 = core)).flatMap (fun p =>
    p.2.splits.filterMap (fun sp => match sp.park with
      | .gqpop f => if f.md.toNat = q then some (p.1, p.2, sp, f) else none
      | _ => none))

/-- Whether some split parked in GQPOP has taken tiles of a queue. -/
def Device.taken (d : Device) (core q : Nat) : List (Nat × Group × Split × FmtT) :=
  (d.groups.filter (fun p => p.1 / 48 = core)).flatMap (fun p =>
    p.2.splits.filterMap (fun sp => match sp.park with
      | .gqTaken f _ _ _ _ => if f.md.toNat = q then some (p.1, p.2, sp, f) else none
      | _ => none))

/-- What GQCFG makes of the queues and its status, the first that applies in the order 3, 1, 4, 2. That a GQPOP which has
taken its tiles and still waits for their stamps counts as parked is DESIGN CHOICE (log entry 55). -/
def Device.gqConfig (d : Device) (core q ctx : Nat) (v : W64) : Device × W32 :=
  let new := GQueue.ofConfig ctx v
  let key := gqKey core q
  match d.gqs.get key with
  | some old =>
    if old.ctx ≠ ctx then (d, 3)
    else if !old.tiles.isEmpty || !(d.poppers core q).isEmpty || !(d.taken core q).isEmpty then (d, 1)
    else if new.depth = 0 then (if gqReserved v then (d, 4) else ({ d with gqs := d.gqs.erase key }, 0))
    else fresh d key new
  | none => if new.depth = 0 then (d, 0) else fresh d key new
where
  /-- Configure a queue that holds nothing. -/
  fresh (d : Device) (key : Nat) (new : GQueue) : Device × W32 :=
    if gqReserved v || !gqFormats.contains new.fmt || (new.fmt ≠ 13 && new.pad ≠ 0) then (d, 4)
    else if 65536 < d.gqUsed core q + new.bytes then (d, 2)
    else ({ d with gqs := d.gqs.set key new }, 0)

/-- GQCFG (R303). -/
def execGqcfg (f : FmtT) (s : State) :=
  s.access (.gqcfg f) 8 f.ms (fun _ r d x _ =>
    if x.g.sealBuf.isSome then checkTrap d x (0x07, 0)
    else
      let c := d.gqConfig r.core f.md.toNat x.g.ctx (x.pair f.sa.toNat)
      Res.view c.1 r.key ((({ x with g := { x.g with usedGq := true } } : View).setS f.sd.toNat c.2).next 8))

/-- The queue a GQPUSH, GQPOP or GQFLUSH names, when its context is the issuer's. -/
def Device.gqOf (d : Device) (core q ctx : Nat) : Option GQueue :=
  (d.gqs.get (gqKey core q)).bind (fun c => if c.ctx = ctx then some c else none)

/-- Replace a queue. -/
def Device.setGq (d : Device) (core q : Nat) (c : GQueue) : Device := { d with gqs := d.gqs.set (gqKey core q) c }

/-- Change the last tile. -/
def onLast (f : Tile → Tile) : List Tile → List Tile
  | [] => []
  | [t] => [f t]
  | t :: l => t :: onLast f l

/-- The open tile at the tail: one that is not ready. -/
def GQueue.openTile (q : GQueue) : Option Tile := match q.tiles.getLast? with
  | some t => if !t.ready && decide (t.rows.length < 8) then some t else none
  | none => none

/-- A row enters; none when the queue has no room (R305). -/
def GQueue.enter (q : GQueue) (row : GqRow) : Option GQueue :=
  match q.openTile with
  | some _ => some { q with tiles := onLast (fun t =>
      { rows := t.rows ++ [row], ready := decide (8 ≤ t.rows.length + 1) }) q.tiles }
  | none => if q.tiles.length < q.depth then some { q with tiles := q.tiles ++ [{ rows := [row], ready := false }] } else none

/-- The open tile becomes ready. -/
def GQueue.flush (q : GQueue) : GQueue :=
  match q.openTile with
  | some _ => { q with tiles := onLast (fun t => { t with ready := true }) q.tiles }
  | none => q

/-- Ready tiles at the head, some at most. -/
def readyTiles : Nat → List Tile → List Tile
  | 0, _ => []
  | _, [] => []
  | n + 1, t :: l => if t.ready then t :: readyTiles n l else []

/-! ### GQPUSH (R304) -/

/-- PROD of the rows' futures. -/
def gqTag (core : Nat) : Nat := 0x4040 + core

/-- The checks of one lane's row and tag, and the row's bytes. -/
def Device.rowRead (d : Device) (e : Env) (core : Nat) (x : View) (f : FmtT) (n lane : Nat) : Except Miss (Run × List Byte × List Nat) :=
  let tagOk : Except Miss Unit :=
    if f.opt.getLsbD 1 then (d.futRun e core x.g.ctx (x.g.vpair f.vb.toNat lane)).map (fun _ => ()) else .ok ()
  let row : Except Miss (Run × List Byte × List Nat) :=
    if f.opt.getLsbD 2 then
      let t := d.teamOf x.g
      (spadRun16 t n (x.v f.va.toNat lane).toNat).map (fun off =>
        ([], d.spadRead (t.spadAt core off) n, spadLines (t.spadAt core off) n))
    else
      let a := x.g.vpair f.va.toNat lane
      match d.laneRun e x.g.ctx (Agent.core core) .load false 16 n a.toNat with
      | .error m => .error m
      | .ok l =>
        let ag := Agent.core core
        let d1 := d.touchAll ag x.g.ctx .load l
        if d1.poisonRun ag l then .error (.fault 0x0D 4 (d1.poisonFirst ag l) d1.touches) else .ok (l, d1.groupRead ag x.g l, runLines l)
  match row, tagOk with
  | .ok r, .ok () => .ok r
  | .ok _, .error m => .error m
  | .error m, .ok () => .error m
  | .error m, .error m' => .error (m.worse m')

/-- A row enters a queue and its future is set (R304): none when there is no room. -/
def Device.pushRow (d : Device) (e : Env) (core q swarm : Nat) (row : GqRow) : Except Miss (Option Device) :=
  match d.gqs.get (gqKey core q) with
  | none => .ok none
  | some c =>
    match c.enter row with
    | none => .ok none
    | some c1 =>
      let d1 := d.setGq core q c1
      if row.fut then (d1.futClaim e c.ctx (Agent.core core) row.tag (gqTag core) swarm).map some else .ok (some d1)

/-- Lanes push in ascending order: the lanes that did not enter. -/
def Device.pushRows (d : Device) (e : Env) (core q swarm : Nat) : List (Nat × GqRow) → Except Miss (Device × List (Nat × GqRow))
  | [] => .ok (d, [])
  | p :: l =>
    match d.pushRow e core q swarm { p.2 with time := e.now } with
    | .error m => .error m
    | .ok (some d1) => d1.pushRows e core q swarm l
    | .ok none =>
      match d.pushRows e core q swarm l with
      | .error m => .error m
      | .ok (d1, rest) => .ok (d1, p :: rest)

/-- GQPUSH in a sealed task: the rows are kept (R307). -/
def gqpushSealed (r : SplitRef) (d : Device) (x : View) (f : FmtT) (act : Mask) (c : GQueue) (b : SealBuf) (rows : List (Nat × GqRow)) : Res :=
  let b' := rows.foldl (fun b p => b.push (.gqpush f.md.toNat c.fmt c.nk p.2) (1 + 2 * c.nk)) b
  d.sealTake r.core { x with g := { x.g with usedGq := true } } b b' (fun y => Res.view d r.key ((y.writeT act f.sd.toNat act).next 8))

/-- GQPUSH past its checks; a poisoned tag is SPADUE (R426). -/
def gqpushOpen (e : Env) (r : SplitRef) (d : Device) (x : View) (f : FmtT) (act : Mask) (rows : List (Nat × GqRow)) : Res :=
  match d.pushRows e r.core f.md.toNat x.g.swarm rows with
  | .error (.fault code detail a ts) => .trap (d.retouch ts) x.sp { code, detail, addr := a, lanes := act }
  | .error m => .stall m.stall
  | .ok (d1, left) =>
    let entered := maskOfLanes ((rows.filter (fun p => !left.any (fun q => q.1 = p.1))).map Prod.fst)
    let y : View := { x with g := { x.g with usedGq := true } }
    if f.opt.getLsbD 0 && !left.isEmpty then .done (d1.commit r.key y) { x.sp with park := .gqpush f left entered act e.plat.cycles.toNat x.others }
    else Res.view d1 r.key ((y.writeT act f.sd.toNat entered).next 8)

/-- GQPUSH (R304, R307). -/
def execGqpush (f : FmtT) (s : State) :=
  s.access (.gqpush f) 8 f.ms (fun e r d x act =>
    if x.g.sealBuf.isSome && !f.opt.getLsbD 0 then everyLane x act 0x07 0 d
    else
      match d.gqOf r.core f.md.toNat x.g.ctx with
      | none => everyLane x act 0x11 0 d
      | some c =>
        (sumChecks ((lanesOf act).map (fun l => (l, d.rowRead e r.core x f (64 * c.nk) l)))).run d x (fun l =>
          let d1 := l.foldl (fun d p => d.descTouch r.core x.g.ctx p.2.1) d
          let rows := l.map (fun p => (p.1, ({ bytes := p.2.2.1, tag := x.g.vpair f.vb.toNat p.1, fut := f.opt.getLsbD 1
                                               stamp := { guid := x.g.guid, count := x.g.writes }, time := e.now } : GqRow)))
          let y := (x.noteLoad (l.flatMap (fun p => p.2.2.2))).notePriv (l.any (fun p => runPriv p.2.1))
          match x.g.sealBuf with
          | some b => gqpushSealed r d1 y f act c b rows
          | none => gqpushOpen e r d1 y f act rows))

/-- GQFLUSH (R305). -/
def execGqflush (f : FmtT) (s : State) :=
  s.access (.gqflush f) 8 f.ms (fun _ r d x _ =>
    if x.g.sealBuf.isSome then checkTrap d x (0x07, 0)
    else
      match d.gqOf r.core f.md.toNat x.g.ctx with
      | none => checkTrap d x (0x11, 0)
      | some c => Res.view (d.setGq r.core f.md.toNat c.flush) r.key
          (({ x with g := { x.g with usedGq := true } } : View).next 8))

/-! ### GQPOP (R306) -/

/-- A lane word of ABSENT elements, or of the pad of c4. -/
def absentWord (fmt pad : Nat) : W32 :=
  let t := (Ty.ofCode fmt).getD .b32
  packWord t (List.replicate t.lanes (if fmt = 13 then pad else t.absentCode.getD 0))

/-- Quarter q of chunk c of a row: four words. -/
def quarterWords (row : GqRow) (c q : Nat) : List W32 :=
  (List.range 4).map (fun k => BitVec.ofNat 32 (bytesToNat ((row.bytes.drop (64 * c + 16 * q + 4 * k)).take 4)))

/-- The fragment of one tile in a slice of a group, and its tags. -/
def Group.putTile (g : Group) (f : FmtT) (fmt nk pad slice : Nat) (rows : List GqRow) : Group :=
  (List.range 8).foldl (fun g i =>
    (List.range nk).foldl (fun g c =>
      (List.range 4).foldl (fun g q =>
        let ws := match rows[i]? with
          | some row => quarterWords row c q
          | none => List.replicate 4 (absentWord fmt pad)
        (ws.zip (List.range 4)).foldl (fun g p => g.setV (f.va.toNat + 4 * c + p.2) (32 * slice + 8 * q + i) p.1) g) g) g) g

/-- The tags of one tile: row i's in lane i of the slice, zero elsewhere. -/
def Group.putTags (g : Group) (f : FmtT) (slice : Nat) (rows : List GqRow) : Group :=
  (List.range 32).foldl (fun g i => g.setVpair f.vb.toNat (32 * slice + i) (match rows[i]? with
    | some row => row.tag
    | none => 0)) g

/-- The registers that a GQPOP writes for the tiles it has taken. -/
def View.putTiles (x : View) (f : FmtT) (fmt nk pad : Nat) (tiles : List (List GqRow)) : View :=
  let sl := List.range (x.g.width / 32)
  let g1 := sl.foldl (fun g s => g.putTile f fmt nk pad s (tiles.getD s [])) x.g
  let g2 := sl.foldl (fun g s => g.putTags f s (tiles.getD s [])) g1
  ({ x with g := g2 } : View).setS f.sd.toNat
    (BitVec.ofNat 32 (sl.foldl (fun a s => a + (tiles.getD s []).length * 16 ^ s) 0))

/-- A popped row's future passes to the popping group, with what was lent through it, and that goes on to what the group's
splits wait for (R286, R306). -/
def Device.takeRow (d : Device) (e : Env) (key ctx : Nat) (row : GqRow) : Except Miss Device :=
  if !row.fut then .ok d
  else
    match d.futLoad e ctx (Agent.core (key / 48)) row.tag with
    | .error (.fault code det a ts) => .ok ((d.retouch ts).reportFault e ctx code det a)
    | .error m => .error m
    | .ok (d1, y) =>
      if y.st ≠ 1 then .ok d1
      else
        match d1.futStore e ctx (Agent.core (key / 48)) row.tag { y with prod := groupTag key } with
        | .error (.fault code det a ts) => .ok ((d1.retouch ts).reportFault e ctx code det a)
        | .error m => .error m
        | .ok d2 =>
          if y.prio = 63 then .ok d2
          else
            let d3 := d2.noteLend key ctx (d2.futHome e ctx (Agent.core (key / 48)) row.tag) y.prio
            match d3.groups.get key with
            | none => .ok d3
            | some g => eachDo (fun d h => Device.lend e y.prio 8 d ctx (Agent.core (key / 48)) h) (g.splits.flatMap g.waitsOn) d3

/-- Take the ready tiles of a queue for a group, past those that parked poppers take first: the device and the rows of
each. -/
def Device.takeTiles (d : Device) (e : Env) (core q key : Nat) (g : Group) (past : Nat := 0) : Except Miss (Device × List (List GqRow)) :=
  match d.gqs.get (gqKey core q) with
  | none => .ok (d, [])
  | some c =>
    let ts := readyTiles (g.width / 32) (c.tiles.drop past)
    match eachDo (fun d row => d.takeRow e key g.ctx row) (ts.flatMap Tile.rows)
        (d.setGq core q { c with tiles := c.tiles.take past ++ c.tiles.drop (past + ts.length) }) with
    | .error m => .error m
    | .ok d1 => .ok (d1, ts.map Tile.rows)

/-- The stamps of taken rows that are not performed at .core scope (R255). -/
def Device.lateRows (d : Device) (tiles : List (List GqRow)) : List Stamp :=
  (tiles.flatten.map GqRow.stamp).filter (fun s => !d.reachedCore s)

/-- A popper with its tiles goes on, or waits for their stamps (R255). -/
def popEnd (key : Nat) (d : Device) (x : View) (f : FmtT) (fmt nk pad : Nat) (tiles : List (List GqRow)) : Res :=
  let y : View := { x with g := { x.g with usedGq := true }, sp := { x.sp with park := .running } }
  if (d.lateRows tiles).isEmpty then Res.view d key ((y.putTiles f fmt nk pad tiles).next 8)
  else .done (d.commit key y) { x.sp with park := .gqTaken f tiles fmt nk pad }

/-- The tiles that the parked poppers of a queue take before a GQPOP that issues now (R306). -/
def Device.popperTiles (d : Device) (core q : Nat) : Nat := (d.poppers core q).foldl (fun a p => a + p.2.1.width / 32) 0

/-- GQPOP's own tiles, past those of the parked poppers; a plain form with none ready parks. -/
def popNow (e : Env) (r : SplitRef) (d : Device) (x : View) (f : FmtT) (c : GQueue) : Res :=
  let past := d.popperTiles r.core f.md.toNat
  if (readyTiles (past + 1) c.tiles).length ≤ past then
    (if f.sub = 1 then popEnd r.key d x f c.fmt c.nk c.pad []
     else .done (d.commit r.key { x with g := { x.g with usedGq := true } }) { x.sp with park := .gqpop f })
  else
    match d.takeTiles e r.core f.md.toNat r.key x.g past with
    | .error m => .stall m.stall
    | .ok (d1, tiles) => popEnd r.key d1 x f c.fmt c.nk c.pad tiles

/-- GQPOP (R306): the mask rule of R191, then the queue, then the whole span of registers. -/
def execGqpop (f : FmtT) (s : State) :=
  s.onDevice (Instr.gqpop f).spans (fun e r d x =>
    if x.sp.e = 0 then Res.view d r.key (x.next 8)
    else if x.g.sealBuf.isSome then checkTrap d x (0x07, 0)
    else if x.sp.e ≠ laneMask x.g.width then checkTrap d x (0x06, 0)
    else
      match d.gqOf r.core f.md.toNat x.g.ctx with
      | none => checkTrap d x (0x11, 0)
      | some c =>
        if 320 < f.va.toNat + 4 * c.nk then checkTrap d x (0x01, 0)
        else if x.g.nreg < f.va.toNat + 4 * c.nk then checkTrap d x (0x02, 0)
        else popNow e r d x f c)

/-! ### Events -/

/-- GQ_TIMEOUT: DTIME has reached the oldest row's entry plus TOUT (R305). -/
def execGqTimeout (core q : Nat) (s : State) :=
  let due : Bool := match (s.dev.gqs.get (gqKey core q)) with
    | some c => match c.openTile with
      | some t => c.tout ≠ 0 && (match t.rows with
        | row :: _ => decide (row.time.toNat + c.tout ≤ s.plat.dtime.toNat)
        | [] => false)
      | none => false
    | none => false
  s.whenDue due (fun _ d => { d with gqs := d.gqs.upd (gqKey core q) GQueue.flush })

/-- The parked popper that takes the next tiles: effective priority, then age (R306). -/
def Device.nextPopper (d : Device) : List (Nat × Group × Split × FmtT) → Option (Nat × Group × Split × FmtT)
  | [] => none
  | p :: l =>
    match d.nextPopper l with
    | none => some p
    | some q =>
      let a := d.effPrio p.1 p.2.1
      let b := d.effPrio q.1 q.2.1
      if a < b || (a = b && decide (q.2.1.placedAt < p.2.1.placedAt)) then some q else some p

/-- The split that a delivery reaches: one whose taken rows have their stamps performed, else the next parked popper of a
queue with a ready tile. -/
def Device.popTarget (d : Device) (core q : Nat) : Option (Nat × Group × Split × FmtT) :=
  let done := (d.taken core q).find? (fun p => match p.2.2.1.park with
    | .gqTaken _ tiles _ _ _ => (d.lateRows tiles).isEmpty
    | _ => false)
  match done with
  | some p => some p
  | none =>
    match d.gqs.get (gqKey core q) with
    | none => none
    | some c => if (readyTiles 1 c.tiles).isEmpty then none else d.nextPopper (d.poppers core q)

/-- GQ_TILE_DELIVER: ready tiles go to a parked popper (R306). -/
def execGqTileDeliver (core q : Nat) (s : State) :=
  match s.dev.popTarget core q with
  | none => Host.Outcome.next s
  | some p =>
    s.onParked core (p.1 % 48) p.2.2.1.low (fun e r d x =>
      match x.sp.park with
      | .gqTaken f tiles fmt nk pad => some (popEnd r.key d x f fmt nk pad tiles)
      | .gqpop f =>
        match d.gqs.get (gqKey core q) with
        | none => none
        | some c =>
          match d.takeTiles e core q r.key x.g with
          | .error m => some (.stall m.stall)
          | .ok (d1, tiles) => some (popEnd r.key d1 x f c.fmt c.nk c.pad tiles)
      | _ => none)

/-- GQPUSH_RETRY: after a yield the lanes that did not enter push again (R304); a queue released or given another row size meanwhile is
BOUNDS. A tag that fails its checks at the retry traps the lanes that have not entered (DESIGN CHOICE, log entry 55). -/
def execGqpushRetry (core slot lane : Nat) (s : State) :=
  s.onParked core slot lane (fun e r d x =>
    match x.sp.park with
    | .gqpush f left entered act since others =>
      if !x.yieldOver e.plat.cycles.toNat since others then none
      else
      let x0 : View := { x with sp := { x.sp with park := .running } }
      let same : Bool := match d.gqOf core f.md.toNat x.g.ctx with
        | some c => left.all (fun p => decide (p.2.bytes.length = 64 * c.nk))
        | none => false
      if !same then some (.trap d x0.sp { code := 0x11, lanes := maskOfLanes (left.map Prod.fst) })
      else
        match d.pushRows e core f.md.toNat x.g.swarm left with
        | .error (.fault code detail a ts) =>
          some (.trap (d.retouch ts) x0.sp { code, detail, addr := a, lanes := maskOfLanes (left.map Prod.fst) })
        | .error m => some (.stall m.stall)
        | .ok (d1, rest) =>
          let now := entered ||| maskOfLanes ((left.filter (fun p => !rest.any (fun q => q.1 = p.1))).map Prod.fst)
          if rest.isEmpty then some (Res.view d1 r.key ((x0.writeT act f.sd.toNat now).next 8))
          else some (.done d1 { x.sp with park := .gqpush f rest now act e.plat.cycles.toNat x.others })
    | _ => none)

end Sys2Proof.Machine
end

