-- ==== Sys2Proof/Machine/Sha3.lean ====
section
/-! DEFINITION. SHA3-512 (FIPS 202), the digest of firmware images and attestation reports (R414, R417). -/

namespace Sys2Proof.Machine

/-! A state of 1,600 bits is five planes of five lanes: lane x of plane y. -/

/-- Lane x of plane y. -/
def spongeLane (s : List (List W64)) (x y : Nat) : W64 := (s.getD y []).getD x 0

/-- A list turned by some places to the left. -/
def turned (n : Nat) (l : List W64) : List W64 := l.drop n ++ l.take n

/-- The places of a walk through every lane but (0, 0): from (1, 0), each place (x, y) leads to (y, 2x + 3y). -/
def spongeWalk : Nat → Nat × Nat
  | 0 => (1, 0)
  | t + 1 => let p := spongeWalk t; (p.2, (2 * p.1 + 3 * p.2) % 5)

/-- The lane that comes to (x, y), turned: along the walk a lane moves one place on, turned by the triangular number of its
step; lane (0, 0) stays. -/
def spongeMoved (s : List (List W64)) (x y : Nat) : W64 :=
  match (List.range 24).find? (fun t => spongeWalk (t + 1) = (x, y)) with
  | some t => (spongeLane s (spongeWalk t).1 (spongeWalk t).2).rotateLeft ((t + 1) * (t + 2) / 2 % 64)
  | none => spongeLane s x y

/-- The columns' parities enter the lanes beside them. -/
def spongeMix (s : List (List W64)) : List (List W64) :=
  let sums := s.foldl (List.zipWith (· ^^^ ·)) (List.replicate 5 0)
  let near := List.zipWith (fun u v => u ^^^ v.rotateLeft 1) (turned 4 sums) (turned 1 sums)
  s.map (List.zipWith (· ^^^ ·) near)

/-- Every lane moves along the walk. -/
def spongeMove (s : List (List W64)) : List (List W64) :=
  (List.range 5).map (fun y => (List.range 5).map (fun x => spongeMoved s x y))

/-- Each lane of a plane takes in the two after it. -/
def spongePlane (p : List W64) : List W64 :=
  List.zipWith (· ^^^ ·) p (List.zipWith (fun u v => ~~~u &&& v) (turned 1 p) (turned 2 p))

/-- The shift register of the round constants after some steps. -/
def roundReg : Nat → BitVec 8
  | 0 => 1
  | n + 1 => let r := roundReg n; if r.getLsbD 7 then (r <<< 1) ^^^ 0x71 else r <<< 1

/-- The constant of a round: the register's output at seven steps in a row, at bits 0, 1, 3, 7, 15, 31 and 63. -/
def roundWord (i : Nat) : W64 :=
  (List.range 7).foldl (fun w j => if (roundReg (7 * i + j)).getLsbD 0 then w ||| (1#64 <<< (2 ^ j - 1)) else w) 0

/-- One of the 24 rounds. -/
def spongeRound (s : List (List W64)) (i : Nat) : List (List W64) :=
  match (spongeMove (spongeMix s)).map spongePlane with
  | (a :: p) :: l => ((a ^^^ roundWord i) :: p) :: l
  | s => s

/-- Eight bytes each enter the first nine lanes, and the rounds follow. -/
def spongeTake (s : List (List W64)) (block : List Byte) : List (List W64) :=
  let words := bytesToWords block
  let add (y : Nat) (p : List W64) : List W64 := List.zipWith (fun u x => if x + 5 * y < 9 then u ^^^ words.getD (x + 5 * y) 0 else u) p (List.range 5)
  (List.range 24).foldl spongeRound (List.zipWith add (List.range 5) s)

/-- The bytes that fill up a message to whole blocks of 72: the two bits that mark SHA-3, and a bit at each end. -/
def shaFill (n : Nat) : List Byte :=
  match 71 - n % 72 with
  | 0 => [0x86]
  | k + 1 => 0x06 :: (List.replicate k 0 ++ [0x80])

/-- The blocks of a filled message enter a state. -/
def shaState (l : List Byte) (blocks : Nat) : List (List W64) :=
  (List.range blocks).foldl (fun s k => spongeTake s ((l.drop (72 * k)).take 72)) (List.replicate 5 (List.replicate 5 0))

/-- SHA3-512 of a string of bytes, its first byte lowest: the first eight lanes after the last block. -/
def sha3 (l : List Byte) : BitVec 512 :=
  let s := shaState (l ++ shaFill l.length) (l.length / 72 + 1)
  BitVec.ofNat 512 (bytesToNat ((List.range 8).flatMap (fun k => natToBytes 8 (spongeLane s (k % 5) (k / 5)).toNat)))

end Sys2Proof.Machine
end

