-- ==== Sys2Proof/Machine/PowerUp.lean ====
section
/-! DEFINITION. Power-up: reset and its release, DTIME and its discipline by the PPS input, firmware, READY bits and
attestation (R410 to R417). -/

namespace Sys2Proof.Machine

/-! ### Reset (R410, R416) -/

/-- Put values at indexes below a bound. -/
def scatter {w : Nat} (bound : Nat) (l : List (Nat × Nat)) (m : SMap w) : SMap w :=
  l.foldl (fun m p => if p.1 < bound then m.set p.1 (BitVec.ofNat w p.2) else m) m

/-- Size of the staging buffer. -/
def stagingSize : Nat := 2 ^ 22

/-- The platform held in reset: the fuses alone survive, and the sensors stand outside it. -/
def Platform.intoReset (p : Platform) (tripped : Bool) : Platform :=
  { Platform.reset with part := p.part, dieRev := p.dieRev, svnMin := p.svnMin, uid := p.uid, tsens := p.tsens, tripped }

/-- The device in reset: nothing in progress, memories with contents that are not specified; what lies outside the device,
and what it has already sent, stays. -/
def Device.intoReset (d : Device) (part : Part) (tick : Nat) : Device :=
  { Device.reset with
    mem := scatter (w := 8) part.capacity (Config.residue tick 0) [], spad := scatter (64 * 524288) (Config.residue tick 1) []
    host := d.host, peer := d.peer, hostRead := d.hostRead, msix := { Msix.reset with sent := d.msix.sent } }

/-- The whole machine goes into reset; the staging buffer lies in L2, a store whose contents a reset leaves unspecified. -/
def State.intoReset (s : State) (tripped : Bool) : State :=
  { s with
    plat := { s.plat.intoReset tripped with staging := scatter (w := 8) stagingSize (Config.residue s.tick 2) [] }
    dev := s.dev.intoReset s.plat.part s.tick }

/-- RESET. -/
def execReset (s : State) : Host.Outcome State Fault Refusal := .next (s.intoReset false)

/-- A sensor reads 115 °C or more, in 1/16 °C: THERMTRIP# is driven low (R416). -/
def Platform.hot (p : Platform) : Bool := (List.range 16).any (fun k => decide (1840 ≤ (p.tsens.get k).toInt))

/-- RESET_RELEASE: DTIME and CLOCK restart at 0; not while a sensor reads 115 °C. -/
def execResetRelease (s : State) :=
  s.onPlat (fun p => if p.inReset && !p.tripped && !p.hot then { p with inReset := false, dtime := 0, dfrac := 0, cycles := 0 } else p)

/-- THERMTRIP: a sensor reads 115 °C or more, in 1/16 °C. -/
def execThermtrip (k : Nat) (t : BitVec 16) (s : State) : Host.Outcome State Fault Refusal :=
  if decide (k < 16) && decide (1840 ≤ t.toInt) then
    .next (({ s with plat := { s.plat with tsens := s.plat.tsens.set k t } } : State).intoReset true)
  else .next s

/-- CLOCK_CONTROL: the sensors as they read now. A sensor at 115 °C puts the device into reset, by hardware alone (R416); else
the clock is controlled when 10 µs have passed (R420). -/
def execClockControl (temps : List (BitVec 16)) (s : State) : Host.Outcome State Fault Refusal :=
  let s1 : State := { s with plat := { s.plat with
    tsens := ((List.range 16).zip temps).foldl (fun m p => SMap.set m p.1 p.2) s.plat.tsens } }
  .next (if s1.plat.hot then s1.intoReset true
    else if s1.plat.inReset then s1
    else { s1 with plat := { s1.plat with energy := s1.plat.energy.control s1.plat.dtime.toNat s1.plat.sensors } })

/-- LINK_TRAINING (R382): x16 when lanes 8 to 15 train, else x8. -/
def execLinkTraining (high : Bool) (s : State) :=
  s.onPlat (fun p => if p.inReset then p else { p with linkWide := some high })

/-! ### DTIME (R411) -/

/-- DTIME after one REFCLK edge. -/
def Platform.refclk (p : Platform) : Platform :=
  if p.inReset then p
  else
    let t : BitVec 96 := (p.dtime ++ p.dfrac) + BitVec.ofNat 96 p.inc
    { p with dtime := t.extractLsb' 32 64, dfrac := t.extractLsb' 0 32 }

/-- REFCLK_EDGE. -/
def execRefclkEdge (s : State) := s.onPlat Platform.refclk

/-- The increments allowed, 9.9 to 10.1. -/
def clampInc (n : Nat) : Nat := max 42520176231 (min 43379169689 n)

/-- The increment after an edge: a change of at most 100 ppm, toward captures 1,000,000,000 apart. -/
def steered (tick inc diff : Nat) : Nat :=
  let k := Config.freeNat tick 0 % (inc / 10000 + 1)
  if diff = 1000000000 then inc else if 1000000000 < diff then clampInc (inc - k) else clampInc (inc + k)

/-- One edge while EN is set. One that is 2 µs late or more ends the discipline as a missing edge does. -/
def Platform.capture (p : Platform) (tick : Nat) : Platform :=
  let now := p.dtime
  let q := p.pps
  let q1 := { q with cap := now, prev := some now }
  match q.prev with
  | none => { p with pps := { q1 with good := 0 } }
  | some a =>
    let diff := (now - a).toNat
    if 1000002000 ≤ diff then { p with pps := { q1 with good := 0, lock := false } }
    else
    let good := if decide (999999900 ≤ diff) && decide (diff ≤ 1000000100) then q.good + 1 else 0
    { p with inc := steered tick p.inc diff, pps := { q1 with good, lock := q.lock || decide (3 ≤ good) } }

/-- The pulse that begins at an edge is shorter than 1 µs, a free choice (log entry 37). -/
def shortPulse (tick : Nat) : Bool := Config.freeNat tick 1 % 2 = 1

/-- PPS_EDGE: the rising edge of a pulse; a short one is ignored. -/
def execPpsEdge (s : State) :=
  s.onPlat (fun p =>
    if p.inReset || shortPulse s.tick then p
    else
      let p1 := { p with pps := { p.pps with edge := some p.dtime } }
      if p1.pps.en then p1.capture s.tick else p1)

/-- PPS_EDGE_MISSED: an expected edge is missing by 2 µs. -/
def execPpsEdgeMissed (s : State) :=
  s.onPlat (fun p =>
    let late : Bool := match p.pps.prev with
      | some a => decide (1000002000 ≤ (p.dtime - a).toNat)
      | none => false
    if p.pps.en && late then { p with pps := { p.pps with lock := false, good := 0, prev := none } } else p)

/-- PPS_SEEN_EXPIRY (R412): no edge for 1.1 s. -/
def execPpsSeenExpiry (s : State) :=
  s.onPlat (fun p =>
    let old : Bool := match p.pps.edge with
      | some a => decide (1100000000 ≤ (p.dtime - a).toNat)
      | none => false
    if old then { p with pps := { p.pps with edge := none } } else p)

/-- A write of PPSCTL. -/
def Platform.writePpsctl (p : Platform) (v : W32) : Platform :=
  if p.inReset then p
  else if v.getLsbD 0 then { p with pps := { p.pps with en := true } }
  else { p with pps := { p.pps with en := false, lock := false, good := 0, prev := none } }

/-- PPSCTL_WRITE. -/
def execPpsctlWrite (v : W32) (s : State) := s.onPlat (fun p => p.writePpsctl v)

/-- PPSCAPLO_READ: the low word, with the high word frozen. -/
def execPpscaploRead (s : State) : Host.Outcome State Fault Refusal :=
  if s.plat.inReset then .next s
  else
    let q := s.plat.pps
    .next { s with
      dev := { s.dev with hostRead := natToBytes 4 q.cap.toNat }
      plat := { s.plat with pps := { q with capHi := some (q.cap.extractLsb' 32 32) } } }

/-! ### Attestation (R417) -/

/-- ID (R412). -/
def Platform.idWord (p : Platform) : Nat :=
  0x0C96 * 2 ^ 16 + p.dieRev.toNat * 2 ^ 8 + (match p.part with | .a064 => 1 | .a128 => 2 | .a256 => 3)

/-- GO. -/
def Platform.go (p : Platform) : Platform :=
  if p.inReset then p
  else if !p.ready.getLsbD 63 then { p with attStatus := 3 }
  else if p.attStatus = 1 then p
  else { p with attStatus := 1, latched := p.nonce }

/-- ATTCTL_GO. -/
def execAttctlGo (s : State) := s.onPlat Platform.go

/-- Bytes 0 to 255 of the report. -/
def Platform.reportBody (p : Platform) (fw : Firmware) : List Byte :=
  natToBytes 8 (256 * 2 ^ 16 + 1) ++ natToBytes 8 p.idWord ++ natToBytes 16 p.uid.toNat ++ natToBytes 32 p.latched.toNat
    ++ natToBytes 64 fw.digest.toNat ++ natToBytes 8 (p.svnMin.toNat * 2 ^ 32 + fw.svn.toNat) ++ natToBytes 8 p.dtime.toNat
    ++ natToBytes 1 (p.fails % 256) ++ natToBytes 111 0

/-- The signature of a report: 4,627 bytes (R417). -/
def signatureOf (body : List Byte) : List Byte := (Config.identitySign (sha3 body) ++ List.replicate 4627 0).take 4627

/-- ATTESTATION_REPORT. -/
def execAttestationReport (s : State) :=
  s.onPlat (fun p =>
    match p.fw with
    | none => p
    | some fw =>
      if p.attStatus ≠ 1 then p
      else
        let body := p.reportBody fw
        { p with attrep := body ++ signatureOf body, attStatus := 2 })

/-! ### Firmware (R413, R414) -/

/-- RESULT of a BOOT of the image at an offset of the staging buffer as the ROM reads it, and what runs when it is 0. -/
def Platform.checkImage (p : Platform) (m : Memory) (a : Nat) : Nat × Option (Firmware × Bool) :=
  let head := readBytes m a 64
  let w (at_ n : Nat) : Nat := bytesToNat ((head.drop at_).take n)
  let len := w 16 4
  let reserved := decide (w 6 2 ≠ 0) || decide (2 ≤ w 12 4) || decide (w 20 4 ≠ 0) || decide (w 24 40 ≠ 0)
  if decide (stagingSize < a + 64) || decide (w 0 4 ≠ 0x4F433936) || decide (w 4 2 ≠ 1) || reserved
      || decide (len = 0) || decide (len % 64 ≠ 0) || decide (stagingSize - 4736 < len) || decide (stagingSize < a + 64 + len + 4672)
  then (5, none)
  else if w 8 4 < p.svnMin.toNat then (6, none)
  else
    let d := sha3 (readBytes m a (64 + len))
    if !Config.vendorVerify d (readBytes m (a + 64 + len) 4627) then (7, none)
    else (0, some ({ digest := d, svn := BitVec.ofNat 32 (w 8 4) }, decide (w 12 4 = 1)))

/-- A BOOT that ends with a RESULT other than 0: READY.CP stays 0, whatever an earlier one accepted. -/
def Platform.bootFailed (p : Platform) (r : Nat) : Platform :=
  { p with result := r, busy := false, booting := none, lastBoot := r, staging := [], fails := p.fails + 1, fw := none }

/-- BOOT begins, while the ROM serves MOP. A misaligned MADDR is no operation or no image; which, is not stated. -/
def Platform.bootStart (p : Platform) (tick : Nat) : Platform :=
  if 8 ≤ p.fails then p.bootFailed 8
  else if p.maddr.toNat % 64 ≠ 0 then p.bootFailed (if Config.freeNat tick 0 % 2 = 0 then 5 else 2)
  else { p with busy := true, booting := some (p.maddr.toNat, p.staging) }

/-- The ROM's check of an image ends. -/
def Platform.bootEnd (p : Platform) (a : Nat) (m : Memory) : Platform :=
  match p.checkImage m a with
  | (_, some (fw, adv)) =>
    { p with
      result := 0, busy := false, booting := none, lastBoot := 0, fw := some fw
      svnMin := if adv && decide (p.svnMin.toNat < fw.svn.toNat) then fw.svn else p.svnMin }
  | (r, none) => p.bootFailed r

/-- MOP with OP 0x10: the ROM's before CP has risen, no operation after. A write during BUSY is ignored (R365). -/
def State.boot (s : State) : State :=
  if s.plat.busy || s.plat.inReset then s
  else if s.plat.ready.getLsbD 63 then s.mopResult 2 false
  else { s with plat := s.plat.bootStart s.tick }

/-- BOOT: the operation begins, and BUSY is set; while it is under way, it ends (log entry 36). -/
def execBoot (s : State) : Host.Outcome State Fault Refusal :=
  match s.plat.booting with
  | some b => .next { s with plat := s.plat.bootEnd b.1 b.2 }
  | none => .next s.boot

/-! ### READY (R415) -/

/-- A bit of READY that the firmware may raise: CP first, then any other of a cluster that is not offline (R427). -/
def Platform.mayRise (p : Platform) (bit : Nat) : Bool :=
  if bit = 63 then p.fw.isSome && p.booting.isNone
  else decide (bit < 56) && p.ready.getLsbD 63 && (decide (bit < 32) || !p.offline.getLsbD (bit % 8))

/-- A channel has risen: splits that wait for it issue again, and records that wait are written. -/
def Device.channelRose (d : Device) (e : Env) : Device :=
  ({ d with groups := d.groups.mapV (fun _ g =>
      { g with splits := g.splits.map (fun sp => if sp.park = .stall .channel then { sp with park := .running } else sp) }) } : Device).releaseHeld e

/-- FUNCTION_READY. The staging buffer is no more once CP has risen. -/
def execFunctionReady (bit : Nat) (s : State) : Host.Outcome State Fault Refusal :=
  if s.plat.inReset || !s.plat.mayRise bit then .next s
  else
    let s1 : State := { s with plat := { s.plat with
      ready := s.plat.ready ||| (1#64 <<< bit), staging := if bit = 63 then [] else s.plat.staging } }
    .next (if bit < 32 then (s1.withDev (s1.dev.channelRose s1.env)).mopRetry else s1)

end Sys2Proof.Machine
end

