-- ==== Sys2Proof/Machine/HostIo.lean ====
section
/-! DEFINITION. The host's accesses: writes of registers with no behaviour of their own (R8, R364, R375, R412, R418, R430),
accesses into BAR2 (R365, R393, R413), and what every register reads as. -/

namespace Sys2Proof.Machine

/-! ### Writes of BAR0 -/

/-- A write of MOP (R365): what its OP names. -/
def State.writeMop (s : State) (v : W64) : State :=
  let ctx := (v.extractLsb' 8 4).toNat
  let q := (v.extractLsb' 16 6).toNat
  match (v.extractLsb' 0 8).toNat with
  | 1 => s.mop State.createCtx
  | 2 => s.mop (State.destroyCtx ctx)
  | 3 => s.mop (State.createQ ctx q)
  | 4 => s.mop (State.destroyQueueOp ctx q)
  | 16 => s.boot
  | _ => s.mop (fun s => s.mopResult 2 false)

/-- One entry of the MSI-X table after a write of a word pair; a vector whose mask clears sends its pending message. Every bit of
Vector Control and of Message Address is kept as written and reads back (log entry 38). -/
def Msix.writePair (m : Msix) (k off width : Nat) (v : W64) : Msix :=
  let old : W64 := m.table.get (2 * k + 1) ++ m.table.get (2 * k)
  let new := mergeWord old off width v
  let m1 := { m with table := (m.table.set (2 * k) (new.extractLsb' 0 32)).set (2 * k + 1) (new.extractLsb' 32 32) }
  let vec := k / 2
  if k % 2 = 1 && !new.getLsbD 32 && (m1.pba.get (vec / 64)).getLsbD (vec % 64) then
    { m1 with pba := m1.pba.set (vec / 64) (m1.pba.get (vec / 64) &&& ~~~(1#64 <<< (vec % 64))), sent := m1.sent ++ [vec] }
  else m1

/-- Bits of ERCFG that are no reserved bits (R430). -/
def ercfgBits : W64 := 0x7FF003F#64

/-- A write of an error register; a ring that has room takes what is held. -/
def Device.writeError (d : Device) (e : Env) (k off width : Nat) (v : W64) : Device :=
  let r := d.errors
  match k with
  | 0 => { d with errors := { r with base := mergeWord r.base off width v } }
  | 1 =>
    let d1 := { d with errors := { r with cfg := mergeWord r.cfg off width v &&& ercfgBits } }
    d1.releaseHeld e
  | 3 =>
    let d1 := { d with errors := { r with ridx := mergeWord r.ridx off width v } }
    d1.releaseHeld e
  | 5 => { d with errors := { r with cewin := mergeWord r.cewin off width v } }
  | 6 => { d with errors := { r with cethr := ((mergeWord (BitVec.ofNat 64 r.cethr) off width v).extractLsb' 0 8).toNat } }
  | _ => d

/-- A write of a per-context energy word (R418). -/
def Reservoir.write (x : Reservoir) (k : Nat) (v : W64) : Reservoir :=
  match k with
  | 0 => { x with share := (v.extractLsb' 0 10).toNat }
  | 1 => { x with rcap := (v.extractLsb' 0 32).toNat }
  | 2 => { x with t0 := (v.extractLsb' 0 32).toNat, afloor := (v.extractLsb' 32 6).toNat }
  | _ => x

/-- A write of the energy block: one 8-byte write of PCAP or of a word of a context that exists. -/
def State.writeEnergy (s : State) (off width : Nat) (v : W64) : State :=
  if off = 0x408 then { s with plat := s.plat.writePcap width v }
  else
    let c := (off - 0x1000) / 64
    if decide (off < 0x1000) || decide (0x1400 ≤ off) || decide (off % 8 ≠ 0) || decide (width ≠ 8) || (s.dev.ctxs.get c).isNone then s
    else
      let en := s.plat.energy
      { s with plat := { s.plat with energy :=
        { en with res := AMap.set en.res c ((en.reservoir c).write (off % 64 / 8) v) } } }

/-- A write of the pages of a context's queues and streams. -/
def Device.writeIndex (d : Device) (e : Env) (off width : Nat) (v : W64) : Device :=
  let c := (off - 0x20000) / 0x1000
  let r := off % 0x1000
  if r % 8 ≠ 0 then d
  else if r < 0x200 then d.writeQwidx e c (r / 8) width v
  else if r < 0x280 then d.writeSridx c ((r - 0x200) / 8) width v
  else d

/-- A write of BAR0 within one 8-byte word. -/
def State.writeBar0 (s : State) (off width : Nat) (v : W64) : State :=
  let at_ := off % 8
  let m := s.dev.msix
  if decide (width = 0) || decide (8 < at_ + width) then s
  else if off / 8 = 0x20 then { s with plat := { s.plat with maddr := mergeWord s.plat.maddr at_ width v } }
  else if off = 0x108 then s.writeMop (mergeWord 0 0 width v)
  else if decide (0x4000 ≤ off) && decide (off < 0x8000) then
    let k := (off - 0x4000) / 8
    s.withDev { s.dev with msix := { m with icoal := m.icoal.set k (mergeWord (m.icoal.get k) at_ width v &&& 0xFFFFFFFFFFFF#64) } }
  else if decide (0x8000 ≤ off) && decide (off < 0x10000) then
    s.withDev { s.dev with msix := m.writePair ((off - 0x8000) / 8) at_ width v }
  else if decide (0x20000 ≤ off) && decide (off < 0x30000) then s.withDev (s.dev.writeIndex s.env off width v)
  else if decide (0x30000 ≤ off) && decide (off < 0x38000) then s.writeEnergy (off - 0x30000) width v
  else if decide (0x38000 ≤ off) && decide (off < 0x38038) then
    s.withDev (s.dev.writeError s.env ((off - 0x38000) / 8) at_ width v)
  else s

/-! ### Writes of the management port -/

/-- A word of ATTNONCE. -/
def setNonce (n : BitVec 256) (k : Nat) (v : W32) : BitVec 256 :=
  (n &&& ~~~((0xFFFFFFFF#256) <<< (32 * k))) ||| (v.setWidth 256 <<< (32 * k))

/-- A write of a 32-bit word; a narrower one is ignored (R412). -/
def Platform.writeI3c (p : Platform) (off width : Nat) (v : W64) : Platform :=
  let w := v.extractLsb' 0 32
  if decide (width ≠ 4) || decide (off % 4 ≠ 0) then p
  else if off = 0x100 then p.writePpsctl w
  else if decide (0x200 ≤ off) && decide (off < 0x220) then { p with nonce := setNonce p.nonce ((off - 0x200) / 4) w }
  else if off = 0x220 then (if w.getLsbD 0 then p.go else p)
  else p

/-- REGISTER_WRITE. -/
def execRegisterWrite (space : RegSpace) (off width : Nat) (v : W64) (s : State) : Host.Outcome State Fault Refusal :=
  if s.plat.inReset then .next s
  else
    match space with
    | .bar0 => .next (s.writeBar0 off width v)
    | .i3c => .next { s with plat := s.plat.writeI3c off width v }

/-! ### What registers read as (R8)

A read changes nothing but where a row of the table says so (PPSCAPLO_READ, ERDROP_READ); reserved bits, unlisted offsets and
write-only words read zero. -/

/-- State of a queue as QSTAT gives it. -/
def CQueue.code (c : CQueue) : Nat := match c.st with
  | .active => 1
  | .error => 2

/-- QWIDX, SRIDX and QSTAT (R364, R368): the words of a queue that is FREE read zero. -/
def Device.indexWord (d : Device) (off : Nat) : W64 :=
  let c := (off - 0x20000) / 0x1000
  let k := off % 0x1000 / 8
  if k < 64 then BitVec.ofNat 64 ((d.queue c k).elim 0 CQueue.widx)
  else if k < 80 then d.sridx.get (sridxKey c (k - 64))
  else if 96 ≤ k ∧ k < 160 then BitVec.ofNat 64 ((d.queue c (k - 96)).elim 0 CQueue.code)
  else 0

/-- A word of a context's energy block; RLVL in µJ (R418). -/
def Reservoir.word (x : Reservoir) : Nat → W64
  | 0 => BitVec.ofNat 64 x.share
  | 1 => BitVec.ofNat 64 x.rcap
  | 2 => BitVec.ofNat 64 (x.afloor % 64 * 2 ^ 32 + x.t0)
  | 3 => BitVec.ofInt 64 (x.rlvl / 1000)
  | 4 => x.ectx
  | _ => 0

/-- The energy block (R418). -/
def State.energyWord (s : State) (off : Nat) : W64 :=
  let en := s.plat.energy
  let k := off / 8
  if off < 0x200 then en.core.get k
  else if off < 0x240 then en.clu.get (k - 0x40)
  else if off < 0x280 then en.col.get (k - 0x48)
  else if off < 0x2C0 then en.dyn.get (k - 0x50)
  else if 0x300 ≤ off ∧ off < 0x400 then en.mem.get (k - 0x60)
  else if off = 0x400 then en.tot
  else if off = 0x408 then BitVec.ofNat 64 en.pcap
  else if off = 0x410 then BitVec.ofNat 64 ((if en.thermal then 2 ^ 17 else 0) + (if en.capped then 2 ^ 16 else 0) + en.mhz)
  else if 0x1000 ≤ off ∧ off < 0x1400 then
    let c := (off - 0x1000) / 64
    if (s.dev.ctxs.get c).isSome then (en.reservoir c).word (off % 64 / 8) else 0
  else 0

/-- The error registers (R430). -/
def Errors.word (r : Errors) : Nat → W64
  | 0 => r.base
  | 1 => r.cfg
  | 2 => r.widx
  | 3 => r.ridx
  | 4 => r.drop
  | 5 => r.cewin
  | 6 => BitVec.ofNat 64 r.cethr
  | _ => 0

/-- What an 8-byte read of BAR0 at a multiple of 8 returns (R364, R418, R430). -/
def State.bar0Word (s : State) (off : Nat) : W64 :=
  let p := s.plat
  let m := s.dev.msix
  if off = 0 then p.ready
  else if off = 0x100 then p.maddr
  else if off = 0x110 then BitVec.ofNat 64 ((if p.busy then 2 ^ 63 else 0) + p.result % 256 * 256 + p.newCtx % 16)
  else if 0x4000 ≤ off ∧ off < 0x8000 then m.icoal.get ((off - 0x4000) / 8)
  else if 0x8000 ≤ off ∧ off < 0x10000 then
    let k := (off - 0x8000) / 4
    (m.table.get (k + 1) ++ m.table.get k : BitVec 64)
  else if 0x10000 ≤ off ∧ off < 0x10100 then m.pba.get ((off - 0x10000) / 8)
  else if 0x20000 ≤ off ∧ off < 0x30000 then s.dev.indexWord off
  else if 0x30000 ≤ off ∧ off < 0x38000 then s.energyWord (off - 0x30000)
  else if 0x38000 ≤ off ∧ off < 0x38038 then s.dev.errors.word ((off - 0x38000) / 8)
  else 0

/-- What a read of the management port at a multiple of 4 returns (R412, R417). -/
def Platform.i3cWord (p : Platform) (off : Nat) : W32 :=
  if off = 0 then BitVec.ofNat 32 p.idWord
  else if off = 4 then BitVec.ofNat 32 ((if p.ready.getLsbD 63 then 2 ^ 16 else 0) + p.fails % 256 * 256 + p.lastBoot % 256)
  else if off = 8 then p.svnMin
  else if 0x40 ≤ off ∧ off < 0x80 then (p.tsens.get ((off - 0x40) / 4)).setWidth 32
  else if off = 0x100 then (if p.pps.en then 1 else 0)
  else if off = 0x104 then BitVec.ofNat 32 ((if p.pps.edge.isSome then 2 else 0) + (if p.pps.lock then 1 else 0))
  else if off = 0x108 then p.pps.cap.extractLsb' 0 32
  else if off = 0x10C then p.pps.capHi.getD (p.pps.cap.extractLsb' 32 32)
  else if 0x200 ≤ off ∧ off < 0x220 then p.nonce.extractLsb' (8 * (off - 0x200)) 32
  else if off = 0x220 then BitVec.ofNat 32 (p.attStatus % 4 * 256)
  else if 0x1000 ≤ off ∧ off < 0x3000 then BitVec.ofNat 32 (bytesToNat ((p.attrep.drop (off - 0x1000)).take 4))
  else if 0x3000 ≤ off ∧ off < 0x5000 then Config.idCert ((off - 0x3000) / 4)
  else 0

/-- The PCIe Link Status register (R382): the negotiated width in bits [9:4], 0 while the link has not trained; the other bits
as log entry 35 gives them. -/
def Platform.linkStatus (p : Platform) : BitVec 16 :=
  BitVec.ofNat 16 (16 * (match p.linkWide with
    | none => 0
    | some true => 16
    | some false => 8))

/-! ### BAR2 -/

/-- An access into a store of bytes: the bytes it reads, and those it writes. -/
def accessOn (a : HostAccess) (old : Nat → Nat) : List Byte × List Byte :=
  let size (wide : Bool) : Nat := if wide then 8 else 4
  match a with
  | .read _ n => (natToBytes n (old n), [])
  | .write _ l => ([], l)
  | .fetchAdd _ wide v => (natToBytes (size wide) (old (size wide)), natToBytes (size wide) (old (size wide) + v.toNat))
  | .swap _ wide v => (natToBytes (size wide) (old (size wide)), natToBytes (size wide) v.toNat)
  | .cas _ wide c v =>
    let n := size wide
    (natToBytes n (old n), if old n = c.toNat % 2 ^ (8 * n) then natToBytes n v.toNat else [])

/-- Offset and size of an access, whether it reads, and whether it is one the host link carries: an AtomicOp is aligned. -/
def accessShape : HostAccess → Nat × Nat × Bool × Bool
  | .read o n => (o, n, true, true)
  | .write o l => (o, l.length, false, true)
  | .fetchAdd o wide _ | .swap o wide _ | .cas o wide _ _ =>
    let n := if wide then 8 else 4
    (o, n, true, decide (o % n = 0))

/-- Bytes written while a BOOT is under way: whether the ROM reads each as it was or as written is free (R414). -/
def raceBytes (tick : Nat) (m : Memory) (a : Nat) (l : List Byte) : Memory :=
  (l.zip (List.range l.length)).foldl (fun m p => if Config.freeNat tick (32 + p.2) % 2 = 1 then SMap.set (w := 8) m (a + p.2) p.1 else m) m

/-- BAR2 before CP has risen: the staging buffer, and nothing past it (R413). -/
def State.stagingAccess (s : State) (a : HostAccess) : State :=
  let (o, _, reads, _) := accessShape a
  let p := s.plat
  let r := accessOn a (fun n => readNat p.staging o n)
  let new := r.2.take (stagingSize - o)
  { s with
    dev := if reads then { s.dev with hostRead := r.1 } else s.dev
    plat := { p with staging := writeBytes p.staging o new, booting := p.booting.map (fun b => (b.1, raceBytes s.tick b.2 o new)) } }

/-- Every 128 B line of n bytes lies on a channel that is ready (R415). -/
def linesReady (ready : W64) (o n : Nat) : Bool :=
  (List.range ((o + n - 1) / 128 - o / 128 + 1)).all (fun k => channelReady ready ((o / 128 + k) * 128))

/-- BAR2 once CP has risen: device memory. An access to a channel that is not ready waits, and comes again. The value read
from a poisoned sector is not stated. A host's write is no store of R60 (log entry 13). -/
def State.memoryAccess (s : State) (a : HostAccess) : State :=
  let (o, n, reads, _) := accessShape a
  if decide (s.plat.part.capacity < o + n) || !linesReady s.plat.ready o n then s
  else
    let r := accessOn a (fun n => if s.dev.poisoned .dev o n then Config.freeNat s.tick 0 else readNat s.dev.mem o n)
    let d := if r.2.isEmpty then s.dev else { s.dev.storeLong .dev o r.2 (r.2.length / 128 + 2) with old := s.dev.old }
    s.withDev (if reads then { d with hostRead := r.1 } else d)

/-- BAR2_ACCESS. -/
def execBar2Access (a : HostAccess) (s : State) : Host.Outcome State Fault Refusal :=
  let (_, n, _, carried) := accessShape a
  if s.plat.inReset || !carried || n = 0 then .next s
  else .next (if s.plat.ready.getLsbD 63 then s.memoryAccess a else s.stagingAccess a)

end Sys2Proof.Machine
end

