-- ==== Sys2Proof/Machine/Matrix.lean ====
section
/-! DEFINITION. Class 5: matrix products, accumulators, drains, block dot products and reductions (R16, R187 to R200). -/

namespace Sys2Proof.Machine

/-! ### Counted accumulators (R16, R47) -/

/-- Row r of a counted block of n value registers at d: its value in a lane. -/
def Group.rowValue (g : Group) (d r lane : Nat) : W32 := g.vreg (d + r) lane

/-- Row r of a counted block of n value registers at d: its count in a lane. -/
def Group.rowCount (g : Group) (d n r lane : Nat) : Nat :=
  ((g.vreg (d + n + r / 2) lane).extractLsb' (16 * (r % 2)) 16).toNat

/-- Write a row's value and count. -/
def Group.setRow (g : Group) (d n r lane : Nat) (v : W32) (c : Nat) : Group :=
  let k := d + n + r / 2
  let w := g.vreg k lane
  let c16 : BitVec 16 := BitVec.ofNat 16 c
  (g.setV (d + r) lane v).setV k lane
    (if r % 2 = 0 then w.extractLsb' 16 16 ++ c16 else c16 ++ w.extractLsb' 0 16)

/-- A count increased, saturating with CS (R16). -/
def addCount (n w : Nat) : Nat × Flags := if 65535 < n + w then (65535, fCS) else (n + w, 0)

/-- One row of an accumulator after a reduction of terms with a weight (R47). -/
def accumulate (mode : RMode) (c : W32) (n : Nat) (terms : List (XVal × Flags)) (w : Nat) : W32 × Nat × Flags :=
  let r := reduce mode (some c) terms
  let k := addCount n w
  (r.1, k.1, r.2 ||| k.2)

/-- How many terms are present. -/
def presentCount (l : List (XVal × Flags)) : Nat := (l.filter (fun t => t.1.present)).length

/-- The exact product of a list of factors with the flags of Inf × 0 (R46, R53). -/
def mulAll : List XVal → XVal × Flags
  | [] => (.ofInt 1, 0)
  | [x] => (x, 0)
  | x :: l =>
    let r := mulAll l
    let p := x.mul r.1
    (p.1, p.2 ||| r.2)

/-- A term of factors: skipped when any is ABSENT, whatever the others (R46, R54). -/
def term (l : List XVal) : XVal × Flags := if l.all XVal.present then mulAll l else (.absent, 0)

/-- A new row of one lane's accumulator. -/
structure RowUpdate where
  row : Nat
  lane : Nat
  value : W32
  count : Nat
  flags : Flags
  deriving DecidableEq, Repr

/-- Apply row updates, then raise their flags once (R57). -/
def View.writeRows (x : View) (d n : Nat) (l : List RowUpdate) : View :=
  ({ x with g := l.foldl (fun g u => g.setRow d n u.row u.lane u.value u.count) x.g } : View).raiseFlags
    (orFlags (l.map RowUpdate.flags))

/-! ### MMA and MMAS (R187 to R192) -/

/-- Element e of a register run of a lane (R188). -/
def Group.runElem (g : Group) (t : Ty) (r e lane : Nat) : Nat := subElem t (g.vreg (r + e / t.lanes) lane) (e % t.lanes)

/-- K of a class (R187). -/
def kOf (t : Ty) : Nat := 512 / t.bits

/-- A(i, k) of a slice. -/
def View.elemA (x : View) (f : FmtX) (sl i k : Nat) : XVal :=
  let q := kOf f.ta / 4
  x.g.elem f.ta f.xop.toNat (x.g.runElem f.ta f.xa.toNat (k % q) (32 * sl + 8 * (k / q) + i))

/-- B(k, j) of a slice. -/
def View.elemB (x : View) (f : FmtX) (sl k j : Nat) : XVal :=
  x.g.elem f.tb f.xop.toNat (x.g.runElem f.tb f.xb.toNat k (32 * sl + j))

/-- Block size of MMAS (R192). -/
def FmtX.bsize (f : FmtX) : Nat := 8 * 2 ^ f.bs.toNat

/-- The A scale of MMAS (R192). -/
def View.scaleA (x : View) (f : FmtX) (sl i k : Nat) : XVal :=
  let q := kOf f.ta / 4
  let w := x.v f.xs.toNat (32 * sl + 8 * (k / q) + i)
  (scaleTy f.sf.toNat).value (w.extractLsb' (8 * (k % q / FmtX.bsize f)) 8).toNat

/-- The B scale of MMAS (R192). -/
def View.scaleB (x : View) (f : FmtX) (sl k j : Nat) : XVal :=
  let b := k / FmtX.bsize f
  let w := x.v (f.xs.toNat + 1 + b / 4) (32 * sl + j)
  (scaleTy f.sf.toNat).value (w.extractLsb' (8 * (b % 4)) 8).toNat

/-- Rows of A as factors, for each k. -/
def View.rowA (x : View) (f : FmtX) (scaled : Bool) (sl i : Nat) : List (XVal × Flags) :=
  (List.range (kOf f.ta)).map (fun k =>
    if scaled then term [x.elemA f sl i k, x.scaleA f sl i k] else (x.elemA f sl i k, 0))

/-- Columns of B as factors, for each k. -/
def View.colB (x : View) (f : FmtX) (scaled : Bool) (sl j : Nat) : List (XVal × Flags) :=
  (List.range (kOf f.ta)).map (fun k =>
    if scaled then term [x.elemB f sl k j, x.scaleB f sl k j] else (x.elemB f sl k j, 0))

/-- The product of two factors that carry the flags of their own products: each element meets its own scale first (log entry
52). -/
def mulFlagged (a b : XVal × Flags) : XVal × Flags :=
  if a.1.present && b.1.present then
    let p := a.1.mul b.1
    (p.1, p.2 ||| a.2 ||| b.2)
  else (.absent, 0)

/-- All row updates of a matrix product (R190, R192). -/
def View.product (x : View) (f : FmtX) (scaled : Bool) : List RowUpdate :=
  let mode := x.mode f.rm
  (List.range (x.g.width / 32)).flatMap (fun sl =>
    let rows := (List.range 8).map (fun i => (i, x.rowA f scaled sl i))
    (List.range 32).flatMap (fun j =>
      let col := x.colB f scaled sl j
      let lane := 32 * sl + j
      rows.map (fun p =>
        let ts := List.zipWith mulFlagged p.2 col
        let r := accumulate mode (x.g.rowValue f.xd.toNat p.1 lane) (x.g.rowCount f.xd.toNat 8 p.1 lane) ts (presentCount ts)
        { row := p.1, lane, value := r.1, count := r.2.1, flags := r.2.2 })))

/-- The mask rule of the fragment instructions (R191). -/
def fragRule (x : View) (y : View) : Out :=
  if x.sp.e = 0 then Out.view (x.next 8)
  else if x.sp.e = laneMask x.g.width then Out.view (y.next 8)
  else .trap { code := 0x06, lanes := x.sp.e }

/-- MMA (R190, R191). -/
def execMma (f : FmtX) (s : State) :=
  s.onView (Instr.mma f).spans (fun x => fragRule x (x.writeRows f.xd.toNat 8 (x.product f false)))
/-- MMAS (R191, R192). -/
def execMmas (f : FmtX) (s : State) :=
  s.onView (Instr.mmas f).spans (fun x => fragRule x (x.writeRows f.xd.toNat 8 (x.product f true)))

/-! ### Accumulator management (R195 to R197) -/

/-- Row updates in every lane of E. -/
def View.eachRow (x : View) (p : Nat → Nat → RowUpdate) : List RowUpdate :=
  (lanesOf x.sp.e).flatMap (fun l => (List.range 8).map (fun i => p i l))

/-- ACLR (R195). -/
def execAclr (f : FmtX) (s : State) :=
  s.onView (Instr.aclr f).spans (fun x =>
    Out.view ((x.writeRows f.xd.toNat 8 (x.eachRow (fun i l =>
      { row := i, lane := l, value := if f.xop = 4 then 0 else 0xFFFFFFFF, count := 0, flags := 0 }))).next 8))

/-- One row of AMERGE in a lane (R196), over what the rows before it have written. -/
def Group.mergeRow (mode : RMode) (f : FmtX) (lane : Nat) (p : Group × Flags) (i : Nat) : Group × Flags :=
  let g := p.1
  let v := Ty.f32.value (g.rowValue f.xa.toNat i lane).toNat
  let r := accumulate mode (g.rowValue f.xd.toNat i lane) (g.rowCount f.xd.toNat 8 i lane) [(v, 0)]
    (if v.present then g.rowCount f.xa.toNat 8 i lane else 0)
  (g.setRow f.xd.toNat 8 i lane r.1 r.2.1, p.2 ||| r.2.2)

/-- The accumulator at XA added into the one at XD, row after row, in every lane of E (R196). -/
def View.merged (x : View) (f : FmtX) : View :=
  let r := (lanesOf x.sp.e).foldl (fun p lane => (List.range 8).foldl (Group.mergeRow (x.mode f.rm) f lane) p) (x.g, 0)
  ({ x with g := r.1 } : View).raiseFlags r.2

/-- AMERGE (R196). -/
def execAmerge (f : FmtX) (s : State) := s.onView (Instr.amerge f).spans (fun x => Out.view ((x.merged f).next 8))

/-- What a drained row delivers before conversion: none when it is ABSENT (R55). -/
def drainValue (mean : Bool) (v : XVal) (n : Nat) : Option XVal :=
  if n = 0 || !v.present then none
  else if mean then some ((v.div (.ofInt n)).1) else some v

/-- The codes, flags and RNG state of a lane's eight drained rows (R55, R197); a count is a present element, so that under
RS each of the eight advances the lane's state. -/
def View.drainLane (x : View) (f : FmtX) (l : Nat) : List Nat × Flags × W64 :=
  let d := f.xd.toNat
  if f.xop.extractLsb' 0 2 = 2 then
    ((List.range 8).map (fun i => x.g.rowCount d 8 i l), 0, (x.modes f.rm l (List.replicate 8 true)).2)
  else
    let vals := (List.range 8).map (fun i =>
      drainValue (f.xop.extractLsb' 0 2 = 1) (Ty.f32.value (x.g.rowValue d i l).toNat) (x.g.rowCount d 8 i l))
    let ms := x.modes f.rm l (vals.map Option.isSome)
    let rs := List.zipWith (fun v mode => match v with
      | some v => deliver f.ta mode v
      | none => (if f.xop.getLsbD 2 then (deliver f.ta .rne (.zero false)).1 else f.ta.absentCode.getD 0, 0)) vals ms.1
    (rs.map Prod.fst, orFlags (rs.map Prod.snd), ms.2)

/-- Write a run of elements of a lane, as many as fill whole registers. -/
def Group.writeRun (g : Group) (t : Ty) (r lane : Nat) (codes : List Nat) : Group :=
  (List.range (codes.length / t.lanes)).foldl (fun g k =>
    g.setV (r + k) lane (packWord t ((codes.drop (k * t.lanes)).take t.lanes))) g

/-- ADRAIN (R197). -/
def execAdrain (f : FmtX) (s : State) :=
  s.onView (Instr.adrain f).spans (fun x =>
    let r := (lanesOf x.sp.e).map (fun l => (l, x.drainLane f l))
    let g := r.foldl (fun g p => (g.writeRun f.ta f.xa.toNat p.1 p.2.1).setRng p.1 p.2.2.2) x.g
    Out.view ((({ x with g } : View).raiseFlags (orFlags (r.map (fun p => p.2.2.1)))).next 8))

/-! ### MTRANS (R198) -/

/-- The elements MTRANS moves: destination lane and element, and the code (R198). -/
def View.transposed (x : View) (f : FmtV) : List (Nat × Nat × Nat) :=
  let q := kOf f.ty / 4
  (List.range (x.g.width / 32)).flatMap (fun sl =>
    (List.range 8).flatMap (fun i =>
      (List.range 32).map (fun j =>
        let k := 32 * f.vc.toNat + j
        (32 * sl + 8 * (k / q) + i, k % q, x.g.runElem f.ty f.va.toNat i (32 * sl + j)))))

/-- Write one element of a lane's run. -/
def Group.setRunElem (g : Group) (t : Ty) (r lane e code : Nat) : Group :=
  let k := r + e / t.lanes
  g.setV k lane (putSubs t (g.vreg k lane) (e % t.lanes) [code])

/-- MTRANS (R191, R198). -/
def execMtrans (f : FmtV) (s : State) :=
  s.onView (Instr.mtrans f).spans (fun x => fragRule x { x with
    g := (x.transposed f).foldl (fun g p => g.setRunElem f.ty f.vd.toNat p.1 p.2.1 p.2.2) x.g })

/-! ### Block dot products (R199) -/

/-- One lane of VDOT8 or VDOT4 (R199). -/
def View.dotLane (x : View) (f : FmtV) (l : Nat) : RowUpdate :=
  let r := if f.md.getLsbD 0 then 1 else 0
  let a := (subs f.ty (x.v f.va.toNat l)).map f.ty.value
  let b := (subs f.ty (x.opB f l)).map f.ty.value
  let sc := x.v f.vc.toNat l
  let st := scaleTy (f.md.extractLsb' 2 2).toNat
  let scale : List XVal := if f.md.getLsbD 1 then [] else
    [st.value (sc.extractLsb' 0 8).toNat, st.value (sc.extractLsb' 8 8).toNat]
  let ts := List.zipWith (fun p q => match scale with
    | [sx, sy] => mulFlagged (term [p, sx]) (term [q, sy])
    | _ => term [p, q]) a b
  let u := accumulate (x.mode f.rm) (x.g.rowValue f.vd.toNat r l) (x.g.rowCount f.vd.toNat 2 r l) ts (presentCount ts)
  { row := r, lane := l, value := u.1, count := u.2.1, flags := u.2.2 }

/-- VDOT8 (R199). -/
def execVdot8 (f : FmtV) (s : State) :=
  s.vector (.vdot8 f) 8 f.ms (fun x m => x.writeRows f.vd.toNat 2 ((lanesOf m).map (x.dotLane f)))
/-- VDOT4 (R199). -/
def execVdot4 (f : FmtV) (s : State) :=
  s.vector (.vdot4 f) 8 f.ms (fun x m => x.writeRows f.vd.toNat 2 ((lanesOf m).map (x.dotLane f)))

/-! ### VRED (R200) -/

/-- The members of a reduction with their weights (R200). -/
def View.redTerms (x : View) (f : FmtV) (m : Mask) : List (XVal × Nat) :=
  let r := if f.md.getLsbD 0 then 1 else 0
  if f.md.getLsbD 1 then
    (lanesOf m).map (fun q => (Ty.f32.value (x.g.rowValue f.va.toNat r q).toNat, x.g.rowCount f.va.toNat 2 r q))
  else (lanesOf m).flatMap (fun q => (subs f.ty (x.v f.va.toNat q)).map (fun c => (f.ty.value c, 1)))

/-- VRED (R200). -/
def execVred (f : FmtV) (s : State) :=
  s.vector (.vred f) 8 f.ms (fun x m =>
    let r := if f.md.getLsbD 0 then 1 else 0
    let p := (x.redTerms f m).filter (fun t => t.1.present)
    let w := (p.map Prod.snd).foldl (· + ·) 0
    x.writeRows f.vd.toNat 2 ((lanesOf m).map (fun l =>
      let u := accumulate (x.mode f.rm) (x.g.rowValue f.vd.toNat r l) (x.g.rowCount f.vd.toNat 2 r l)
        (p.map (fun t => (t.1, 0))) w
      { row := r, lane := l, value := u.1, count := u.2.1, flags := u.2.2 })))

end Sys2Proof.Machine
end

