-- ==== Sys2Proof/Machine/Pools.lean ====
section
/-! DEFINITION. Cell pools and the definition of comb regions: PDEF, PALLOC, PFREE, PRESET, REGDEF (R313 to R325). -/

namespace Sys2Proof.Machine

/-- BOUNDS when a number in SB is at or beyond a limit (R316). -/
def numberTrap (d : Device) (x : View) (f : FmtT) (limit : Nat) (go : Nat → Res) : Res :=
  let k := (x.s f.sb.toNat).toNat
  if limit ≤ k then .trap d x.sp { code := 0x11, lanes := x.sp.e } else go k

/-- An instruction of this chapter that acts once, and not in a sealed task (R316, R322). -/
def State.poolOnce (s : State) (i : Instr) (f : FmtT) (limit : Nat)
    (go : Env → SplitRef → Device → View → Nat → Res) : Host.Outcome State Fault Refusal :=
  s.access i 8 f.ms (fun e r d x _ =>
    if x.g.sealBuf.isSome then .trap d x.sp { code := 0x07, lanes := x.sp.e }
    else numberTrap d x f limit (go e r d x))

/-! ### PDEF and PRESET (R317, R318) -/

/-- The pool a descriptor defines. -/
def Pool.ofWords (l : List W64) : Pool :=
  { Pool.reset with
    base := l.getD 0 0, count := ((l.getD 1 0).extractLsb' 0 33).toNat, map := l.getD 2 0
    csz := ((l.getD 3 0).extractLsb' 0 2).toNat, defd := true }

/-- A field of a descriptor is invalid: status 2 of R317. -/
def pdefBad (k : Nat) (l : List W64) : Bool :=
  let p := Pool.ofWords l
  (l.getD 1 0).extractLsb' 33 31 ≠ 0 || (l.getD 3 0).extractLsb' 3 61 ≠ 0 ||
    (p.count ≠ 0 &&
      (p.csz = 3 || decide (p.base.toNat % 256 ≠ 0) || decide (p.map.toNat % 8 ≠ 0) || p.base.extractLsb' 57 7 ≠ 0
        || p.map.extractLsb' 57 7 ≠ 0 || decide (2 ^ 57 < p.base.toNat + p.count * p.size) || decide (2 ^ 32 < p.count)
        || (k = 0 && (p.csz ≠ 0 || decide (2 ^ 24 < p.count)))))

/-- A defined region names a pool. -/
def Device.poolBound (d : Device) (ctx k : Nat) : Bool :=
  match d.ctxs.get ctx with
  | some c => c.combs.any (fun p => p.2.config ≠ 0 && (p.2.config.extractLsb' 24 6).toNat = k)
  | none => false

/-- What PDEF makes of a pool and its status. -/
def Device.pdef (d : Device) (ctx k : Nat) (l : List W64) : Device × W32 :=
  let p := d.pool ctx k
  let new := Pool.ofWords l
  if pdefBad k l then (d, 2)
  else if p.live ≠ 0 || d.poolBound ctx k then (d, 1)
  else if new.count = 0 then (d.setPool ctx k { p with defd := false, gen := p.gen + 1 }, 0)
  else (d.setPool ctx k { new with bump := if k = 0 then 1 else 0, gen := p.gen + 1 }, 0)

/-- PDEF (R317). -/
def execPdef (f : FmtT) (s : State) :=
  s.poolOnce (.pdef f) f 64 (fun e r d x k =>
    match d.descRun e r.core x.g 32 32 (x.pair f.sa.toNat) with
    | .error (.fault code detail a ts) => .trap (d.retouch ts) x.sp { code, detail, addr := a, lanes := x.sp.e }
    | .error m => .stall m.stall
    | .ok (l, bytes) =>
      let q := (d.descTouch r.core x.g.ctx l).pdef x.g.ctx k (bytesToWords bytes)
      Res.view q.1 r.key ((x.setS f.sd.toNat q.2).next 8))

/-- PRESET (R318). -/
def execPreset (f : FmtT) (s : State) :=
  s.poolOnce (.preset f) f 64 (fun _ r d x k =>
    if k = 0 then .trap d x.sp { code := 0x11, lanes := x.sp.e }
    else
      Res.view (d.poolReset x.g.ctx k) r.key ((x.setS f.sd.toNat (if (d.pool x.g.ctx k).defd then 0 else 1)).next 8))

/-! ### PALLOC and PFREE (R319 to R322) -/

/-- Pool records a sealed group may hold (R322). -/
def poolLimit : Nat := 16

/-- Take room for the records of some lanes: SEALOVF past the limit (R322). -/
def poolRoom (d : Device) (x : View) (act : Mask) (go : View → Res) : Res :=
  match x.g.sealBuf with
  | none => go x
  | some b =>
    let n := b.poolN + (lanesOf act).length
    if poolLimit < n then .trap d x.sp { code := 0x08, lanes := x.sp.e }
    else go { x with g := { x.g with sealBuf := some { b with poolN := n } } }

/-- Record operations on cells in a sealed group (R322). -/
def View.poolNote (x : View) (free : Bool) (pool : Nat) (gen : W32) (cells : List Nat) : View :=
  match x.g.sealBuf with
  | none => x
  | some b => { x with g := { x.g with
      sealBuf := some { b with pool := b.pool ++ cells.map (fun c => { free, pool, cell := c, gen }) } } }

/-- The pool that PALLOC and PFREE name: BOUNDS for pool 0 and an undefined one. -/
def allocPool (d : Device) (x : View) (f : FmtT) (act : Mask) (go : Nat → Pool → Res) : Res :=
  let k := (x.s f.sb.toNat).toNat
  let p := d.pool x.g.ctx k
  if 64 ≤ k || k = 0 || !p.defd then everyLane x act 0x11 0 d else go k p

/-- One lane's PALLOC: the cell, zeroed under .z. -/
def Device.allocLane (d : Device) (e : Env) (ctx k : Nat) (z : Bool) : Except Miss (Device × Option Nat) :=
  match d.cellAlloc e ctx k with
  | .error m => .error m
  | .ok (d1, none) => .ok (d1, none)
  | .ok (d1, some c) =>
    let p := d1.pool ctx k
    if z then (d1.atomicStore e ctx Agent.unit (p.cellAt c) p.size 0).map (fun d => (d, some c)) else .ok (d1, some c)

/-- PALLOC (R319, R321). That BOUNDS of T comes before the SEALOVF of a sealed task (R322) is DESIGN CHOICE (log entry 55). -/
def execPalloc (f : FmtT) (s : State) :=
  s.access (.palloc f) 8 f.ms (fun e r d x act =>
    allocPool d x f act (fun k p =>
      let lanes := lanesOf act
      if f.t && decide (p.count - p.live < lanes.length) then .trap d x.sp { code := 0x11, detail := 1, lanes := x.sp.e }
      else poolRoom d x act (fun x =>
        match eachLane (fun d (_ : Unit) => laneOf (d.allocLane e x.g.ctx k (f.opt.getLsbD 0)))
            (lanes.map (fun l => (l, ()))) (d.order r.core .acq .dev) with
        | .error w => .delay w
        | .ok (d1, got, fs) =>
          let cells := got.filterMap Prod.snd
          let g1 := got.foldl (fun g q => g.setVpair f.va.toNat q.1 (match q.2 with
            | some c => p.cellAt c
            | none => 0)) x.g
          let y := ({ x with g := g1 } : View).poolNote false k p.gen cells
          match worstTrap fs with
          | some t => .trap (d1.commit r.key y) y.sp t
          | none =>
            let m := maskOfLanes ((got.filter (fun q => q.2.isSome)).map Prod.fst)
            Res.view d1 r.key ((if f.t then y else y.writeT act f.sd.toNat m).next 8))))

/-- The index of the cell at an address; none outside the pool or between cells (R320). -/
def Pool.index (p : Pool) (a : W64) : Option Nat :=
  if p.base.toNat ≤ a.toNat && decide (a.toNat < p.base.toNat + p.count * p.size)
      && decide ((a.toNat - p.base.toNat) % p.size = 0) then some ((a.toNat - p.base.toNat) / p.size)
  else none

/-- One lane's PFREE: whether the cell was allocated. A sealed task's cell is linked at its commit (R322). -/
def Device.freeLane (d : Device) (e : Env) (ctx k : Nat) (sealed_ : Bool) (c : Nat) : Except Miss (Device × Bool) :=
  if sealed_ then d.cellUnmap e ctx k c else d.cellFree e ctx k c

/-- PFREE (R320 to R322). That an address's BOUNDS comes before the SEALOVF of a sealed task is DESIGN CHOICE (log entry 55). -/
def execPfree (f : FmtT) (s : State) :=
  s.access (.pfree f) 8 f.ms (fun e r d x act =>
    allocPool d x f act (fun k p =>
      let lanes := lanesOf act
      let at_ (l : Nat) : W64 := x.g.vpair f.va.toNat l
      let idx := lanes.map (fun l => (l, p.index (at_ l)))
      if idx.any (fun q => q.2.isNone) then .trap d x.sp { code := 0x11, detail := 2, addr := at_ (lowLane act), lanes := act }
      else poolRoom d x act (fun x =>
        match eachLane (fun d (c : Nat) => laneOf ((d.freeLane e x.g.ctx k x.g.sealBuf.isSome c).map (fun q => (q.1, c, q.2))))
            (idx.map (fun q => (q.1, q.2.getD 0))) (d.order r.core .rel .dev) with
        | .error w => .delay w
        | .ok (d1, got, fs) =>
          let y := x.poolNote true k p.gen ((got.filter (fun q => q.2.2)).map (fun q => q.2.1))
          let dbl := (got.filter (fun q => !q.2.2)).map (fun q => (q.1, 0x0C, 0, at_ q.1))
          match worstTrap (fs ++ dbl) with
          | some t => .trap (d1.commit r.key y) y.sp t
          | none => Res.view d1 r.key (y.next 8))))

/-! ### REGDEF (R324, R325) -/

/-- Status 2 of R324. -/
def regdefBad (v : W64) : Bool :=
  let g := Region.ofConfig 0 v
  let fmt := (v.extractLsb' 12 4).toNat
  (v.extractLsb' 30 34 ≠ 0 || v.extractLsb' 19 5 ≠ 0 || v.extractLsb' 10 2 ≠ 0 || v.getLsbD 7) ||
    (g.e ≠ 0 && (decide (64 < g.rank * g.e) || fmt = 13 || fmt = 15 || (decide (3 ≤ fmt) && decide (g.vw * 8 % g.fmt.bits ≠ 0))))

/-- What REGDEF makes of a region and its status. -/
def Device.regdef (d : Device) (ctx id : Nat) (v : W64) : Device × W32 :=
  let g := Region.ofConfig id v
  let p := d.pool ctx g.pool
  if regdefBad v then (d, 2)
  else if g.e ≠ 0 && (g.pool = 0 || !p.defd || p.csz ≠ 1) then (d, 3)
  else if (d.comb ctx id).nent ≠ 0 then (d, 1)
  else (d.setComb ctx id { config := if g.e = 0 then 0 else v, nent := 0, root := 0 }, 0)

/-- REGDEF (R324). -/
def execRegdef (f : FmtT) (s : State) :=
  s.poolOnce (.regdef f) f 1024 (fun _ r d x id =>
    let q := d.regdef x.g.ctx id (x.pair f.sa.toNat)
    Res.view q.1 r.key ((x.setS f.sd.toNat q.2).next 8))

end Sys2Proof.Machine
end

