-- ==== Sys2Proof/Machine/SchedEvents.lean ====
section
/-! DEFINITION. Events of issue: the ends of YIELD and WATCH, CANCEL, the completion of instructions, page walks and
residency, seal-store stalls, boosts, spills and the spin detector (R33, R118, R119, R126, R214 to R219, R234, R385, R388),
and the timeout of a coalesced interrupt (R375). -/

namespace Sys2Proof.Machine

/-! ### YIELD and WATCH (R118, R119) -/

/-- YIELD_END: the others have issued or gone, 64 cycles have passed, or the cycles of a count have. -/
def execYieldEnd (core slot lane : Nat) (s : State) :=
  s.onSplit core slot lane (fun e x =>
    let now := e.plat.cycles.toNat
    match x.sp.park with
    | .yieldAll since others =>
      if x.yieldOver now since others then some { x.sp with park := .running } else none
    | .yieldUntil t => if t ≤ now then some { x.sp with park := .running } else none
    | _ => none)

/-- The monitor of a split. -/
def Device.monitorOf (d : Device) (r : SplitRef) (x : View) : Option Monitor :=
  d.monitors.find? (fun m => m.core = r.core && m.slot = r.slot && m.lane = x.sp.low)

/-- Disarm the monitor of a split. -/
def Device.disarm (d : Device) (r : SplitRef) (low : Nat) : Device :=
  { d with monitors := d.monitors.filter (fun m => !(m.core = r.core && m.slot = r.slot && m.lane = low)) }

/-- A split leaves WATCH with a status, which is a register write of its iteration (R218). -/
def watchEnd (r : SplitRef) (d : Device) (x : View) (sd : SReg) (status : W32) : Res :=
  let y := ({ x with sp := { x.sp with park := .running } }.setS sd.toNat status).next 4
  Res.view (d.disarm r x.sp.low) r.key { y with sp := y.sp.noteWrites false x.g y.g (changedExec x.sp.e y.sp.e) }

/-- WATCH_WAKE: the watched line has been written. -/
def execWatchWake (core slot lane : Nat) (s : State) :=
  s.onParked core slot lane (fun _ r d x =>
    match x.sp.park, d.monitorOf r x with
    | .watch sd _, some m => if m.hit then some (watchEnd r d x sd 0) else none
    | _, _ => none)

/-- WATCH_TIMEOUT: 4,096 cycles after parking. -/
def execWatchTimeout (core slot lane : Nat) (s : State) :=
  s.onParked core slot lane (fun e r d x =>
    match x.sp.park with
    | .watch sd since => if since + 4096 ≤ e.plat.cycles.toNat then some (watchEnd r d x sd 1) else none
    | _ => none)

/-! ### CANCEL (R126) -/

/-- A split that leaves its wait to a CANCEL: WATCH ends with its status unwritten, every other wait issues again. -/
def Split.withdrawn (sp : Split) : Split :=
  match sp.park with
  | .watch _ _ => { sp with park := .running, pc := sp.pc + 4 }
  | _ => { sp with park := .running }

/-- The union of the lanes of some splits. -/
def allLanes (l : List Split) : Mask := l.foldl (fun m sp => m ||| sp.l) 0

/-- CANCEL reaches an open group: its instructions complete, and the split with the lowest lane takes the trap. It alone leaves
its wait: a split parked by WATCH that does not take the trap stays parked, held while the handler runs (log entry 27). -/
def Device.deliverCancel (d : Device) (e : Env) (r : SplitRef) (g : Group) : Except Miss Device :=
  let g := { g.mergeFlags with cancelPend := false }
  match g.splits.foldr insertSplit [] with
  | [] => .ok (d.putGroup r.key g)
  | sp :: _ => (d.disarm r sp.low).raise e r.key g sp.withdrawn { code := 0x0E, lanes := allLanes g.splits }

/-- CANCEL_DELIVERY: at an instruction boundary of an open group that runs no handler. -/
def execCancelDelivery (core slot : Nat) (s : State) :=
  let own := s.dev.groups.get (slotKey core slot)
  s.onDev (own.elim 0 Group.ctx) core (fun e d =>
    match own with
    | none => none
    | some g =>
      if g.cancelDue then some (d.deliverCancel e { core, slot, lane := 0 } g) else none) (own.elim 0 Group.swarm)

/-! ### Completion (R33) -/

/-- INSTRUCTION_COMPLETE: the flags of the instruction longest in flight merge. -/
def execInstructionComplete (core slot : Nat) (s : State) :=
  s.onGroup core slot (fun _ _ g => if g.inflight.isEmpty then none else some g.mergeFirst)

/-! ### Translation (R385, R386, R388) -/

/-- PAGE_WALK_DONE: a cluster's walker holds the translation of a page. A walk that faults leaves nothing: the access that
asked walks to the same fault. -/
def execPageWalkDone (cluster ctx : Nat) (va : W64) (s : State) : Host.Outcome State Fault Refusal :=
  let d := s.dev
  match d.ctxs.get ctx with
  | none => Host.Outcome.next s
  | some c =>
    if 8 ≤ cluster || (d.tlbFind cluster ctx va.toNat).isSome then .next s
    else
      match d.walk s.plat.ready s.tick s.plat.part.capacity cluster ctx va.toNat 4 c.ptroot.toNat with
      | .error _ => .next s
      | .ok r =>
        let l := r.leaf
        .next (s.withDev (d.touch (Agent.engine cluster) ctx va .load
          { space := spaceOf (pteTgt l.entry), pa := pteAddr l.entry + va.toNat % l.size, cls := pteCls l.entry, seq := pteSeq l.entry
            leaf := l, path := r.path }))

/-- A page is mapped and not resident, as the tables stand. -/
def Device.absentPage (d : Device) (e : Env) (ctx : Nat) (va : W64) : Bool :=
  match d.ctxs.get ctx with
  | none => false
  | some c =>
    match walkFrom d.mem e.plat.part.capacity va.toNat 4 c.ptroot.toNat with
    | .ok l => !l.entry.getLsbD 1
    | .error _ => false

/-- A page is mapped no longer, as the tables stand. -/
def Device.removedPage (d : Device) (e : Env) (ctx : Nat) (va : W64) : Bool :=
  match d.ctxs.get ctx with
  | none => true
  | some c =>
    match walkFrom d.mem e.plat.part.capacity va.toNat 4 c.ptroot.toNat with
    | .ok _ => false
    | .error _ => true

/-- A split that waits for some pages waits no longer for those that have come; a removed one ends its wait, whatever it else
waits for: it issues again and meets PAGEFLT (R387, R388). -/
def Split.pageCame (came removed : W64 → Bool) (sp : Split) : Split :=
  match sp.park with
  | .stall (.page l) =>
    let left := l.filter (fun va => !came va)
    { sp with park := if left.isEmpty || l.any removed then .running else .stall (.page left) }
  | _ => sp

/-- RESIDENCY_WAIT_END: a page has become resident, or has been removed (R388). -/
def execResidencyWaitEnd (ctx : Nat) (va : W64) (s : State) :=
  s.whenDue (!s.dev.absentPage s.env ctx va) (fun e d =>
    let came : W64 → Bool := fun a => !d.absentPage e ctx a
    { d with
      pageReqs := d.pageReqs.filter (fun p => !(p.1 = ctx && came p.2))
      groups := d.groups.mapV (fun _ g =>
        if g.ctx = ctx then { g with splits := settleSplits (g.splits.map (Split.pageCame came (d.removedPage e ctx))) } else g) })

/-! ### The seal store (R234) -/

/-- Splits that wait for units go on when their units are free. -/
def Group.sealGo (free : Nat) (g : Group) : Group :=
  { g with splits := settleSplits (g.splits.map (fun sp => match sp.park with
      | .stall (.seal n) => if n ≤ free then { sp with park := .running } else sp
      | _ => sp)) }

/-- SEAL_STORE_STALL_END: enough units are free. -/
def execSealStoreStallEnd (core slot : Nat) (s : State) :=
  s.onGroup core slot (fun _ d g => if g.sealStalled then some (g.sealGo (sealUnits - d.sealUsed core)) else none)

/-! ### Boosts and fills (R214 to R216) -/

/-- STARVATION_BOOST: a ready group has issued nothing for 2,048 cycles. -/
def execStarvationBoost (core slot : Nat) (s : State) :=
  s.onGroup core slot (fun e d g =>
    if !g.boosted && g.starved e.plat.cycles.toNat && !(d.readySplits (slotKey core slot) g).isEmpty then
      some { g with boosted := true }
    else none)

/-- SPLIT_ELIGIBILITY_BOOST: a ready split that is not demoted has not been eligible for 1,024 cycles; while four splits hold
places until they issue there is none for it (R216). -/
def execSplitEligibilityBoost (core slot lane : Nat) (s : State) :=
  s.onParked core slot lane (fun e r d x =>
    if d.qualifies e.plat.cycles.toNat r.key x.g x.sp && decide (0 < x.g.freePlaces) then some (.done d { x.sp with boosted := true })
    else none)

/-- SPLIT_FILL_DONE: 16 cycles after the fill of a spilled entry began, it is on chip as its block holds it (R215, R397). -/
def execSplitFillDone (core slot lane : Nat) (s : State) :=
  s.onGroup core slot (fun e d g =>
    match g.splitAt lane with
    | none => none
    | some sp =>
      match sp.spilled with
      | some (c + 1) =>
        if c + 16 ≤ e.plat.cycles.toNat then
          (d.entryIn e g sp).map (fun t1 => { g with splits := g.splits.map (fun t => if t.low = sp.low then t1 else t) })
        else none
      | _ => none)

/-! ### The spin detector (R218, R219) -/

/-- SPIN_DEMOTE: the count has reached 64. -/
def execSpinDemote (core slot lane : Nat) (s : State) :=
  s.onSplit core slot lane (fun e x => if decide (64 ≤ x.sp.spin.n) then some (x.sp.demote e.plat.cycles.toNat) else none)

/-- SPIN_RESTORE: a noted line was written, or the split issued what makes its iteration not idle. -/
def execSpinRestore (core slot lane : Nat) (s : State) :=
  s.onSplit core slot lane (fun _ x => if x.sp.demoted && x.sp.notedHit then some x.sp.restored else none)

/-- SPIN_RESTORE_TIMEOUT: 4,096 cycles after the demotion. -/
def execSpinRestoreTimeout (core slot lane : Nat) (s : State) :=
  s.onSplit core slot lane (fun e x =>
    if x.sp.demoted && decide (x.sp.demotedAt + 4096 ≤ e.plat.cycles.toNat) then some x.sp.restoreSpin else none)

/-! ### Coalescing (R375) -/

/-- COALESCE_TIMEOUT: TUS µs after the request that raised a vector's pending count from 0. -/
def execCoalesceTimeout (vec : Nat) (s : State) :=
  let m := s.dev.msix
  let due : Bool := match m.pending.get vec with
    | some (n, t) => n ≠ 0 && m.tus vec ≠ 0 && decide (t.toNat + 1000 * m.tus vec ≤ s.plat.dtime.toNat)
    | none => false
  s.whenDue due (fun _ d => { d with msix := { d.msix.send vec with pending := d.msix.pending.erase vec } })

end Sys2Proof.Machine
end

