-- ==== Sys2Proof/Machine/Preempt.lean ====
section
/-! DEFINITION. Pre-emption: which team is saved and when, the group block and the team image in memory, the saving of a
team and its resumption (R397 to R405). -/

namespace Sys2Proof.Machine

/-! ### Which team (R401) -/

/-- The cores that check the head record of a queue: those whose candidate it is (R209, R267). -/
def Device.checkers (d : Device) (e : Env) (at_ : RecordAt) : List Nat :=
  (List.range 64).filter (fun c => (d.recordFor e.plat c).any (fun p => p.1 = at_))

/-- No ready core of some has room for a demand; a candidate that energy alone keeps out does not wait (R422). -/
def Device.crowded (d : Device) (p : Platform) (m : Demand) (cores : List Nat := List.range 64) : Bool :=
  (cores.filter (clusterReady p)).all (fun c => (d.fit 0 c m).isNone)

/-- It has waited for 10 µs. -/
def waitedLong (e : Env) (since : W64) : Bool := decide (since.toNat + 10000 ≤ e.now.toNat)

/-- Candidates that have passed no admission check for 10 µs, with their base priorities: teams, records, and saved teams, which
are candidates too (R403). -/
def Device.waiting (d : Device) (e : Env) : List (Cand × Nat) :=
  let teams := d.launches.filterMap (fun q => match q.2.head with
    | some h => if waitedLong e q.2.since && d.crowded e.plat q.2.demand then some (Cand.team q.1 h.1, q.2.prio) else none
    | none => none)
  let heads := d.local_.filterMap (fun p => (headOf p.2).map (fun q => (RecordAt.localQ p.1, q)))
    ++ d.ctxs.filterMap (fun p => (headOf p.2.backing).map (fun q => (RecordAt.backing p.1, q)))
  let tasks := heads.filterMap (fun p =>
    if waitedLong e p.2.since && p.2.r.valid && d.crowded e.plat p.2.r.demand (d.checkers e p.1) then
      some (Cand.task p.2, p.2.r.prio.toNat)
    else none)
  let saved := d.ctxs.flatMap (fun c => c.2.images.filterMap (fun i =>
    let now := d.imageNow e c.1 i.1 c.2 i.2
    if waitedLong e now.since && d.crowded e.plat now.demand (now.aff.elim (List.range 64) (fun a => [a])) then
      some (Cand.saved c.1 i.1, now.base)
    else none))
  teams ++ tasks ++ saved

/-- The candidate of the greatest priority. -/
def topCand : List (Cand × Nat) → Option (Cand × Nat)
  | [] => none
  | p :: l =>
    match topCand l with
    | none => some p
    | some q => if p.2 < q.2 then some q else some p

/-- A candidate still waits, at whatever level of its queue (R286). -/
def Device.candWaits (d : Device) : Cand → Bool
  | .team id idx => match d.launches.get id with
    | some l => match l.head with
      | some h => h.1 = idx
      | none => false
    | none => false
  | .task q =>
    let is (x : QRec) : Bool := x.ctx = q.ctx && x.r = q.r && x.since = q.since
    d.local_.any (fun p => p.2.any is) || d.ctxs.any (fun p => p.2.backing.any is)
  | .saved ctx m => ((d.ctxs.get ctx).bind (fun c => c.images.get m)).isSome

/-- Groups of a team, GROUPID rising. -/
def Device.teamGroups (d : Device) (team : Nat) : List (Nat × Group) :=
  (List.range 16).flatMap (fun k => d.groups.filter (fun p => p.2.team = team && p.2.gid = k))

/-- The greatest effective priority of a team's groups. -/
def Device.teamPrio (d : Device) (team : Nat) : Nat := (d.teamGroups team).foldl (fun a p => max a (d.effPrio p.1 p.2)) 0

/-- When a team was placed. -/
def Device.teamAge (d : Device) (team : Nat) : Nat := (d.teamGroups team).foldl (fun a p => max a p.2.placedAt) 0

/-- The victim among some teams: the least greatest effective priority, and the youngest among equals. -/
def Device.victim (d : Device) : List Nat → Option Nat
  | [] => none
  | t :: l =>
    match d.victim l with
    | none => some t
    | some u =>
      if d.teamPrio u < d.teamPrio t || (d.teamPrio u = d.teamPrio t && decide (d.teamAge t ≤ d.teamAge u)) then some u else some t

/-- Teams that hold groups. -/
def Device.liveTeams (d : Device) : List Nat := (d.teams.map Prod.fst).filter (fun t => !(d.teamGroups t).isEmpty)

/-! ### The group block (R398) -/

/-- Bytes padded with zeros. -/
def padTo (n : Nat) (l : List Byte) : List Byte := l ++ List.replicate (n - l.length) 0

/-- A waiting trap's entry. -/
def WaitingTrap.entry (w : WaitingTrap) : List Byte :=
  padTo 48 (natToBytes 8 w.trappc.toNat ++ natToBytes 8 w.resume.toNat ++ natToBytes 8 w.addr.toNat ++ natToBytes 8 w.code.toNat
    ++ natToBytes 12 w.lanes.toNat) ++ natToBytes 16 (w.lane % 128)

/-- The word at +0x088. -/
def Group.blockWord (g : Group) : Nat :=
  g.swarm % 2 ^ 16 * 2 ^ 48 + g.prio % 64 * 2 ^ 42 + (g.width / 32 - 1) % 4 * 2 ^ 40 + g.nreg / 32 % 256 * 2 ^ 32 + g.gid % 16 * 2 ^ 28
    + (if g.inHandler then 2 ^ 27 else 0) + g.splits.length % 128 * 2 ^ 20 + g.waiting.length % 32 * 2 ^ 15

/-- The entry of a split as its group's block takes it: one that lies off chip as it stands there (R397). -/
def Device.entryNow (d : Device) (e : Env) (g : Group) (sp : Split) : List Byte :=
  if sp.spilled.isNone || sp.home = [] then sp.entry
  else
    match d.entryPlaces e g sp.low with
    | .error _ => sp.entry
    | .ok l => entryOver sp.home sp.entry (l.flatMap (fun pa => readBytes d.mem pa 16))

/-- The block of a group with its split entries, from +0x080 on. -/
def Group.blockBytes (g : Group) (entries : List Byte) : List Byte :=
  let head := natToBytes 8 g.result.toNat ++ natToBytes 8 g.blockWord ++ natToBytes 8 g.seed.toNat
    ++ natToBytes 8 (g.rmode.toNat * 2 ^ 32 + g.fx.toNat) ++ natToBytes 8 g.tvec.toNat
  let sreg := (List.range 64).flatMap (fun k => natToBytes 4 (if k < 60 then (g.s.get k).toNat else 0))
  let hnd := (List.range 16).flatMap (fun k => natToBytes 32 (g.h.get k).toNat)
  let md := (List.range 8).flatMap (fun k => natToBytes 4 (g.wBase.get k).toNat ++ natToBytes 4 (g.wSize.get k).toNat)
  let cbk := (List.range 7).flatMap (fun k => natToBytes 32 (g.q.get (k + 1)).toNat)
  let rng := (List.range 96).flatMap (fun l => natToBytes 8 (g.rng.get l).toNat)
  let vreg := (List.range g.nreg).flatMap (fun k => (List.range g.width).flatMap (fun l => natToBytes 4 (g.vreg k l).toNat))
  padTo 0x580 (padTo 0x80 head ++ sreg ++ hnd ++ md ++ cbk) ++ rng ++ padTo 0x1200 entries
    ++ padTo 0x500 (g.waiting.flatMap WaitingTrap.entry) ++ vreg

/-- PC of an entry. -/
def entryPc (l : List Byte) : W64 := BitVec.ofNat 64 (entryField l (2, 55) * 4)

/-- The split entries of a block's bytes, which begin at +0x080. -/
def blockEntries (l : List Byte) : List (List Byte) :=
  (List.range (min (leField l 0x08 8 / 2 ^ 20 % 128) 96)).map (fun j => (l.drop (0x880 + 48 * j)).take 48)

/-- The split of an entry as it continues, over the split whose entry was saved there, which may be the handling one (R403); a
group holds no lane at or beyond GWIDTH (R11, R18), and a split that issues its wait again has issued it (R112). SD is that of the
WATCH at the entry's PC. -/
def splitOfEntry (width : Nat) (kept : Option Split) (l : List Byte) (sd : Option SReg) : Split × Option SReg :=
  let pc := entryPc l
  let again (k : Nat) (sp : Split) : Split := { sp with rewait := some (k, BitVec.ofNat 64 (leField l 32 8)), issued := some pc }
  let sp := { Split.start pc (entryMask width l 64) (entryMask width l 160) with handling := kept.elim false Split.handling }
  match entryField l (60, 4) with
  | 1 => ({ sp with park := .syncs }, none)
  | 2 => ({ sp with pc := pc + 4 }, sd)
  | 3 => (again 3 sp, none)
  | 4 => (again 4 sp, none)
  | _ => (sp, none)

/-- The SD of the WATCH at the PC of an entry in WATCH: that of the split saved there, or, where a program has written the entry,
that of the instruction that its PC names (R397, R403). An instruction that cannot be fetched names none. -/
def Device.sdAt (d : Device) (e : Env) (ctx core : Nat) (kept : Option Split) (l : List Byte) : Except Miss (Device × Option SReg) :=
  if entryField l (60, 4) ≠ 2 then .ok (d, none)
  else
    match kept.bind (fun sp => match sp.park with
      | .watch sd _ => if sp.pc = entryPc l then some sd else none
      | _ => none) with
    | some sd => .ok (d, some sd)
    | none =>
      match d.fetch e.plat e.tick ctx core (entryPc l) with
      | .ok (d1, ws) => .ok (d1, match decode ws with
          | .ok (.watch sd _) => some sd
          | _ => none)
      | .error (.fault _ _ _ ts) => .ok (d.retouch ts, none)
      | .error m => .error m

/-- The SDs of some entries. -/
def Device.sdsAt (d : Device) (e : Env) (ctx core : Nat) : List (Option Split × List Byte) → Except Miss (Device × List (Option SReg))
  | [] => .ok (d, [])
  | p :: rest =>
    match d.sdAt e ctx core p.1 p.2 with
    | .error m => .error m
    | .ok (d1, sd) =>
      match d1.sdsAt e ctx core rest with
      | .error m => .error m
      | .ok (d2, sds) => .ok (d2, sd :: sds)

/-- The entries of a block with the splits that were saved there: both stand in the order of the lowest lanes (R398). -/
def Group.savedEntries (kept : Group) (l : List Byte) : List (Option Split × List Byte) :=
  (blockEntries l).mapIdx (fun j b => (kept.splits[j]?, b))

/-- A waiting trap of an entry; the reserved bits of its CODE are loaded as zero (R6, R122). -/
def trapOfEntry (l : List Byte) : WaitingTrap :=
  { trappc := BitVec.ofNat 64 (leField l 0 8), resume := BitVec.ofNat 64 (leField l 8 8), addr := BitVec.ofNat 64 (leField l 16 8)
    code := BitVec.ofNat 64 (leField l 24 2), lanes := BitVec.ofNat 96 (leField l 32 12), lane := leField l 48 1 % 128 }

/-- A table of the words that are not zero. -/
def tableOf (w : Nat) (l : List (Nat × Nat)) : SMap w :=
  l.filterMap (fun p => if BitVec.ofNat w p.2 = 0 then none else some (p.1, BitVec.ofNat w p.2))

/-- Add a resumed split to a group; one that was in WATCH finds status 3 in its SD (R119, R403), and one whose trap waits for
the handler does not merge (R112). -/
def Group.addResumed (g : Group) (p : Split × Option SReg) : Group :=
  let sp := { p.1 with trapped := g.waiting.any (fun w => w.lane = p.1.low) }
  let x := match p.2 with
    | some sd => (View.mk g sp).setS sd.toNat 3
    | none => View.mk g sp
  { x.g with splits := x.g.splits ++ [x.sp] }

/-- The group that a block holds, over what the device keeps of it, with the SDs of its entries in WATCH; reserved bits of a
handle are loaded as zero (R6). -/
def Group.ofBlock (kept : Group) (l : List Byte) (sds : List (Option SReg)) : Group :=
  let w := leField l 0x08 8
  let rows := ((kept.savedEntries l).zip sds).map (fun p => splitOfEntry kept.width p.1.1 p.1.2 p.2)
  let g : Group := { kept with
    result := BitVec.ofNat 64 (leField l 0 8), swarm := w / 2 ^ 48, prio := w / 2 ^ 42 % 64, gid := w / 2 ^ 28 % 16
    inHandler := w / 2 ^ 27 % 2 = 1, seed := BitVec.ofNat 64 (leField l 0x10 8), fx := BitVec.ofNat 7 (leField l 0x18 4)
    rmode := BitVec.ofNat 3 (leField l 0x1C 1), tvec := BitVec.ofNat 64 (leField l 0x20 8)
    s := tableOf 32 ((List.range 60).map (fun k => (k, leField l (0x80 + 4 * k) 4)))
    h := tableOf 256 ((List.range 16).map (fun k => (k, (handleOf (BitVec.ofNat 256 (leField l (0x180 + 32 * k) 32))).toNat)))
    wBase := tableOf 32 ((List.range 8).map (fun k => (k, leField l (0x380 + 8 * k) 4)))
    wSize := tableOf 32 ((List.range 8).map (fun k => (k, leField l (0x384 + 8 * k) 4)))
    q := tableOf 256 ((List.range 7).map (fun k => (k + 1, leField l (0x3C0 + 32 * k) 32)))
    rng := tableOf 64 ((List.range kept.width).map (fun k => (k, leField l (0x580 + 8 * k) 8)))
    waiting := (List.range (min (w / 2 ^ 15 % 32) 16)).map (fun j => trapOfEntry ((l.drop (0x1A80 + 64 * j)).take 64))
    splits := []
    v := tableOf 32 ((List.range kept.nreg).flatMap (fun k => (List.range kept.width).map (fun n =>
      (k * 96 + n, leField l (0x1F80 + 4 * (kept.width * k + n)) 4)))) }
  let g1 := rows.foldl Group.addResumed g
  { g1 with splits := settleSplits g1.splits }

/-- Bytes of a group's block from +0x080 on. -/
def Group.blockSize (g : Group) : Nat := 0x1F80 + 4 * g.width * g.nreg

/-! ### The team image (R399, R400) -/

/-- A barrier's entry. -/
def Barrier.entry (b : Barrier) : List Byte :=
  natToBytes 16 (b.phase.toNat * 2 ^ 96 + (BitVec.ofInt 48 b.pend).toNat * 2 ^ 48 + b.arr % 2 ^ 16 * 2 ^ 32 + b.count.toNat * 2 ^ 16
    + b.detail % 4 * 4 + (if b.poison then 2 else 0) + (if b.init then 1 else 0))

/-- The barrier of an entry; which groups have arrived in its phase, the device keeps (R212). -/
def barrierOfEntry (who : List Nat) (l : List Byte) : Barrier :=
  let w := leField l 0 16
  { init := w % 2 = 1, poison := w / 2 % 2 = 1, detail := w / 4 % 4, count := BitVec.ofNat 16 (w / 2 ^ 16), arr := w / 2 ^ 32 % 2 ^ 16
    pend := (BitVec.ofNat 48 (w / 2 ^ 48)).toInt, phase := BitVec.ofNat 32 (w / 2 ^ 96), who }

/-- A team image from +0x000 to +0x800. The device's reference is a value of its own. -/
def Image.headBytes (i : Image) (tick : Nat) : List Byte :=
  let t := i.team
  let word := t.coord.1 % 2 ^ 16 + t.coord.2.1 % 2 ^ 16 * 2 ^ 16 + t.coord.2.2 % 2 ^ 16 * 2 ^ 32 + (t.tdim - 1) % 16 * 2 ^ 48
    + t.core % 64 * 2 ^ 52 + (if i.aff.isSome then 2 ^ 58 else 0)
  let blk := (List.range 16).flatMap (fun k => natToBytes 2 (((i.groups.find? (fun g => g.gid = k)).map Group.block).getD 0))
  padTo 0x800 (padTo 0x100 (natToBytes 8 (Config.freeNat tick 7 % 2 ^ 64) ++ natToBytes 8 word
    ++ natToBytes 8 (t.bars.length % 128 * 2 ^ 32 + t.spSize / 256 % 2 ^ 16 * 2 ^ 16) ++ natToBytes 8 i.copies.length ++ blk)
    ++ t.bars.flatMap Barrier.entry)

/-! ### Saving (R402) -/

/-- A copy that a save cancels and records: a scratchpad side, or a barrier. -/
def Copy.recorded (c : Copy) (team : Nat) : Bool :=
  c.inSpad team || (c.team = some team && (match c.kind with
    | .cpy k => k.ben
    | .dn k => k.ben))

/-- What the device keeps of a group outside its block. -/
def Group.kept (g : Group) : Group := { g with v := [], s := [], h := [], wBase := [], wSize := [], q := [], rng := [] }

/-- The lowest free team image. -/
def Ctx.freeImage (c : Ctx) : Option Nat := (List.range 256).find? (fun m => (c.images.get m).isNone)

/-- Groups a context has saved. -/
def Ctx.savedGroups (c : Ctx) : Nat := c.images.foldl (fun a p => a + p.2.groups.length) 0

/-- Write some runs of bytes at virtual addresses of a context. -/
def Device.writeRuns (d : Device) (e : Env) (ctx : Nat) : List (W64 × List Byte) → Except Miss Device
  | [] => .ok d
  | (a, l) :: rest =>
    match d.cpWrite e ctx false a l with
    | .error m => .error m
    | .ok d1 => d1.writeRuns e ctx rest

/-- Save an open team (steps 4 to 7); none when its save area cannot be written. -/
def Device.saveTeam (d : Device) (e : Env) (team m : Nat) (t : Team) (c : Ctx) : Option Device :=
  let gs := (d.teamGroups team).map (fun p => (p.1, { p.2.mergeFlags with splits := p.2.splits.foldr insertSplit [] }))
  let copies := (d.copiesOn t.core).filter (fun k => k.recorded team)
  let d1 := copies.foldl (fun d k => (d.copyPart e t.core k).dropCopy t.core k.id) d
  let sticky := ((d1.teams.get team).elim false Team.sticky) || gs.any (fun p => p.2.usedGq || p.2.touchedPriv)
  let i : Image := { id := team, team := t, aff := if sticky then some t.core else none, groups := gs.map (fun p => p.2.kept), copies
                     cancel := gs.any (fun p => p.2.cancelPend), prio := d.teamPrio team, since := e.now }
  let base := c.imageAt m
  let runs := gs.map (fun p => (d.blockAt p.2 + 0x80, p.2.blockBytes (p.2.splits.flatMap (d1.entryNow e p.2))))
    ++ [(base, i.headBytes e.tick), (base + 0x800, copies.flatMap (fun k => wordsToBytes k.raw)),
        (base + 0x10000, d1.spadRead (t.spadAt t.core 0) t.spSize)]
  match d1.writeRuns e t.ctx runs with
  | .error _ => none
  | .ok d2 =>
    let d3 := gs.foldl (fun d p => (d.removeGroup p.1 p.2).lendsKept p.1 p.2.guid) d2
    some { d3.updCtx t.ctx (fun c => { c with images := c.images.set m i }) with teams := d3.teams.erase team }

/-- A sealed task before its commit point aborts and is queued again on its core (step 3, R292). -/
def Device.saveSealed (d : Device) (e : Env) (team : Nat) (key : Nat) (g : Group) : Except Miss Device :=
  match d.abort e key g .requeued, g.task with
  | .error m, _ => .error m
  | .ok d1, some q => .ok ({ d1 with teams := d1.teams.erase team }.pushDevice e (some (key / 48)) { q with uncorr := 0, since := e.now })
  | .ok d1, none => .ok { d1 with teams := d1.teams.erase team }

/-- PREEMPT: the victim team, while a candidate waits that R401 serves; nothing starts while the save area cannot be written, for
a sealed victim as for an open one (R405). -/
def execPreempt (team : Nat) (s : State) :=
  s.onDev ((s.dev.teams.get team).elim 0 Team.ctx) ((s.dev.teams.get team).elim 0 Team.core) (fun e d =>
    match d.teams.get team, topCand (d.waiting e), d.victim d.liveTeams with
    | some t, some cand, some v =>
      let busy : Bool := match d.roomFor with
        | some c => d.candWaits c
        | none => false
      if v ≠ team || busy || decide (cand.2 < d.teamPrio team + 8) then none
      else
        let gs := d.teamGroups team
        if gs.any (fun p => p.2.phase = .committing || p.2.splits.any Split.inside) then none
        else
          let room (d : Device) : Device := { d with roomFor := some cand.1 }
          match (d.ctxs.get t.ctx).bind (fun c => c.freeImage.map (fun m => (c, m))) with
          | none => none
          | some (c, m) =>
            if decide (1024 < c.savedGroups + gs.length) then none
            else
              match gs.find? (fun p => p.2.sealBuf.isSome) with
              | some p => if (d.saveTeam e team m t c).isNone then none else some ((d.saveSealed e team p.1 p.2).map room)
              | none => (d.saveTeam e team m t c).map (fun d => .ok (room d))
    | _, _, _ => none)

/-! ### Resumption (R403) -/

/-- A saved group comes back into a slot, with what it has been lent (R404). -/
def Device.resumeGroup (d0 : Device) (e : Env) (core slot : Nat) (g : Group) (launch : Option Nat) : Device :=
  let d := d0.lendsBack (slotKey core slot) g.guid
  { d with
    groups := d.groups.set (slotKey core slot) { g with placedAt := e.tick, lastCycle := e.plat.cycles.toNat, usedGq := false, touchedPriv := false }
    drains := d.drains.set g.guid (match d.drains.get g.guid with
      | some r => { r with launch }
      | none => { issued := g.writes, core := g.writes, done := g.writes, launch }) }

/-- A recorded copy with the descriptor its record holds. -/
def Copy.again (c : Copy) (l : List Byte) : Copy :=
  let ws := bytesToWords l
  { c with raw := ws, kind := match c.kind with
      | .cpy _ => .cpy (CpyDesc.ofWords ws)
      | .dn k => .dn (DnDesc.ofWords k.region k.config ws), moved := [], seen := [] }

/-- The blocks of a saved team's groups, read in order for the core that resumes it. -/
def Device.readBlocks (d : Device) (e : Env) (ctx core : Nat) : List Group → Except Miss (Device × List Group)
  | [] => .ok (d, [])
  | g :: l =>
    match d.cpRead e ctx false (d.blockAt g + 0x80) g.blockSize with
    | .error m => .error m
    | .ok (d1, bytes) =>
      match d1.sdsAt e ctx core (g.savedEntries bytes) with
      | .error m => .error m
      | .ok (d2, sds) =>
        match d2.readBlocks e ctx core l with
        | .error m => .error m
        | .ok (d3, rest) => .ok (d3, g.ofBlock bytes sds :: rest)

/-- Read runs of bytes one after another. -/
def Device.readRuns (d : Device) (e : Env) (ctx : Nat) : List (W64 × Nat) → Except Miss (Device × List (List Byte))
  | [] => .ok (d, [])
  | (a, n) :: rest =>
    match d.cpRead e ctx false a n with
    | .error m => .error m
    | .ok (d1, l) => (d1.readRuns e ctx rest).map (fun r => (r.1, l :: r.2))

/-- Restore a saved team on a core: scratchpad and barriers, then copies, then groups; one saved with AFFV = 1 stays bound (R404).
What its groups did before the save
comes before what they do there (R260). -/
def Device.resumeTeam (d0 : Device) (e : Env) (ctx m core : Nat) (c : Ctx) (i : Image) (places : List Nat × Nat × Nat) : Except Miss Device :=
  let base := c.imageAt m
  let d := d0.order core .acq .dev
  let reads := (d.readRuns e ctx [(base, 0x800), (base + 0x800, 64 * i.copies.length), (base + 0x10000, i.team.spSize)]).bind
    (fun r => (r.1.readBlocks e ctx core i.groups).map (fun b => (b.1, r.2, b.2)))
  match reads with
  | .error x => .error x
  | .ok (d1, l, gs) =>
    let head := l.getD 0 []
    let recs := l.getD 1 []
    let spad := l.getD 2 []
    let t := i.team
    let t1 : Team := { t with
      core, sticky := i.aff.isSome, spBase := places.2.1, barBase := places.2.2
      bars := (List.range t.bars.length).map (fun k => barrierOfEntry (t.bars.getD k Barrier.blank).who ((head.drop (0x100 + 16 * k)).take 16)) }
    let d2 := ({ d1.wakeCore core with teams := d1.teams.set i.id t1 } : Device).spadWrite ctx (t1.spadAt core 0) spad
    let n := min (leField head 0x18 2 % 1024) i.copies.length
    let d3 := ((i.copies.zip (List.range n)).foldl (fun d p =>
      d.addCopy core { p.1.again ((recs.drop (64 * p.2)).take 64) with id := d.nextId }) d2)
    let d4 := (places.1.zip gs).foldl (fun d p => d.resumeGroup e core p.1
      { p.2 with cancelPend := p.2.cancelPend || (i.cancel && p.2.sealBuf.isNone) } t.launch) d3
    .ok (d4.updCtx ctx (fun c => { c with images := c.images.erase m }))

/-- TEAM_RESUME at a place: a saved team, numbered by context and image, is placed again on the core where R403 puts it,
unless a better candidate comes first there (R209). -/
def execTeamResume (image place : Nat) (s : State) :=
  let ctx := image / 256
  let m := image % 256
  let core := (coreOf place).1
  let slot := (coreOf place).2
  s.onDev ctx core (fun e d =>
    match (d.ctxs.get ctx).bind (fun c => (c.images.get m).map (fun i => (c, i))) with
    | none => none
    | some (c, saved) =>
      let i := s.dev.imageNow e ctx m c saved
      let team := match d.offered e.plat core with
        | some p => decide (i.prio < p.2.1.prio)
        | none => false
      let record := match d.recordFor e.plat core with
        | some (at_, q) => decide (i.prio < q.r.prio.toNat) && (d.popTask e slot core at_ q).isSome
        | none => false
      if d.resumeCore e.plat ctx i ≠ some core || team || record || decide ((d.savedPrio e core).getD 0 ≠ i.prio) then none
      else (d.fit slot core i.demand).map (fun places => d.resumeTeam e ctx m core c i places))

end Sys2Proof.Machine
end

