-- ==== Sys2Proof/Machine/Ranges.lean ====
section
/-! DEFINITION. PACKET_READ, and the RANGE packets: the leaves of a range, and the drain, the caches and the entries that
each operation acts on (R368, R394, R395). -/

namespace Sys2Proof.Machine

/-! ### The leaves of a range (R385, R394) -/

/-- A valid leaf that maps some byte of a range, with the virtual address of its first byte. -/
structure RangeLeaf where
  va : Nat
  leaf : Leaf
  deriving DecidableEq, Repr

/-- An entry's line as a search of the tables meets it: nothing outside the range, a wait for its channel (R415), or what
lies there. -/
def leafOr (ready : W64) (inRange : Bool) (at_ : Nat) (l : List (Option RangeLeaf)) : List (Option RangeLeaf) :=
  if !inRange then [] else if channelReady ready at_ then l else [none]

/-- The valid leaves below a table of a level that map a byte of [lo, hi); none for an entry on a channel that is not ready. -/
def leavesIn (m : Memory) (ready : W64) (cap lo hi : Nat) : Nat → Nat → Nat → List (Option RangeLeaf)
  | 0, t, base =>
    (List.range 512).flatMap (fun idx =>
      let va := base + idx * 4096
      let f := pteAt m t (idx / 16 * 16)
      let x := pteAt m t idx
      let group : Bool := f.getLsbD 0 && f.getLsbD 9 && idx % 16 = 0
      leafOr ready (decide (va < hi) && decide (lo < va + (if group then 65536 else 4096))) (t + 8 * idx)
        (if group then [some { va, leaf := { entry := f, at_ := t + 8 * idx, size := 65536 } }]
         else if f.getLsbD 0 && f.getLsbD 9 then []
         else if x.getLsbD 0 then [some { va, leaf := { entry := x, at_ := t + 8 * idx, size := 4096 } }]
         else []))
  | lvl + 1, t, base =>
    let size := 4096 * 512 ^ (lvl + 1)
    (List.range 512).flatMap (fun idx =>
      let va := base + idx * size
      let x := pteAt m t idx
      leafOr ready (decide (va < hi) && decide (lo < va + size)) (t + 8 * idx)
        (if !x.getLsbD 0 then []
         else if x.getLsbD 8 then (if 2 ≤ lvl then [] else [some { va, leaf := { entry := x, at_ := t + 8 * idx, size } }])
         else if cap ≤ pteAddr x then []
         else leavesIn m ready cap lo hi lvl (pteAddr x) va))

/-- The valid leaves of a context that map a byte of [lo, hi); none while a table of theirs is on a channel that is not ready. -/
def Device.rangeLeaves (d : Device) (p : Platform) (ctx lo hi : Nat) : Option (List RangeLeaf) :=
  match d.ctxs.get ctx with
  | none => some []
  | some c => (leavesIn d.mem p.ready p.part.capacity lo hi 4 c.ptroot.toNat 0).mapM id

/-- The spans of virtual addresses on which a range acts: itself, and every leaf of it whole (R394). -/
def spansOf (lo hi : Nat) (l : List RangeLeaf) : List (Nat × Nat) := (lo, hi) :: l.map (fun r => (r.va, r.va + r.leaf.size))

/-- First byte and end of a RANGE packet's range. -/
def rangeOf (ws : List W64) : Nat × Nat := ((ws.getD 2 0).toNat, (ws.getD 2 0).toNat + (ws.getD 3 0).toNat)

/-- OP of a RANGE packet. -/
def rangeOp (ws : List W64) : Nat := ((ws.getD 4 0).extractLsb' 0 4).toNat

/-- A CLASS that would make a leaf of the range malformed (R385, R394); none while a table of the range cannot be read. -/
def Device.classBad (d : Device) (p : Platform) (ctx : Nat) (ws : List W64) : Option Bool :=
  if pktType ws = 7 && rangeOp ws = 3 && ((ws.getD 4 0).extractLsb' 4 2).toNat ≠ 0 then
    (d.rangeLeaves p ctx (rangeOf ws).1 (rangeOf ws).2).map (fun l => l.any (fun x => decide (pteTgt x.leaf.entry ≠ 0)))
  else some false

/-! ### PACKET_READ (R368) -/

/-- PACKET_READ: the packet at RIDX of an ACTIVE queue. -/
def execPacketRead (ctx q : Nat) (s : State) :=
  s.onDev ctx 0 (fun e d =>
    match d.queue ctx q with
    | none => none
    | some c =>
      if c.st ≠ .active || c.dying || decide (c.widx ≤ c.ridx) then none
      else
        match d.cpRead e ctx c.qhost (c.slot c.ridx) 64 with
        | .error (.fault code det a ts) => some (.ok ((d.retouch ts).queueError e ctx q code det a))
        | .error m => some (.error m)
        | .ok (d1, bytes) =>
          let ws := bytesToWords bytes
          (d1.classBad e.plat ctx ws).map (fun bad => d1.takePacket e ctx q c ws bad))

/-! ### The steps of RANGE (R395) -/

/-- A physical byte of device memory lies on some leaf of a range. -/
def onLeaf (l : List RangeLeaf) (pa : Nat) : Bool :=
  l.any (fun r => pteTgt r.leaf.entry = 0 && decide (pteAddr r.leaf.entry ≤ pa) && decide (pa < pteAddr r.leaf.entry + r.leaf.size))

/-- A future that a buffered effect names. -/
def SealOp.future : SealOp → Option W64
  | .fres va _ => some va
  | .spawn r => if r.result = 0 then none else some r.result
  | .gqpush _ _ _ row => if row.fut then some row.tag else none
  | _ => none

/-- A group has buffered effects on the pages of a range. -/
def Group.buffersOn (spans : List (Nat × Nat)) (g : Group) : Bool :=
  match g.sealBuf with
  | some b => b.pages.any (fun k => meetsSpan spans (k * 4096) ((k + 1) * 4096))
      || (b.entries.filterMap SealOp.future).any (fun a => meetsSpan spans a.toNat (a.toNat + 16))
  | none => false

/-- Step 2: sealed tasks before their commit point that have buffered effects there abort and are queued again. -/
def Device.rangeAborts (d : Device) (e : Env) (ctx : Nat) (spans : List (Nat × Nat)) : Except Miss Device :=
  eachDo (fun d (p : Nat × Group) =>
    match d.abort e p.1 p.2 .requeued, p.2.task with
    | .error m, _ => .error m
    | .ok d1, some q => .ok (d1.pushDevice e (some (p.1 / 48)) { q with uncorr := 0, since := e.now })
    | .ok d1, none => .ok d1)
    (d.groups.filter (fun p => p.2.ctx = ctx && p.2.phase = .live && p.2.buffersOn spans)) d

/-- What a commit still names besides its entries lies on the pages of a range: its result future, and the cells that it is to
link (R258, R322). -/
def Device.settlesOn (d : Device) (spans : List (Nat × Nat)) (g : Group) : Bool :=
  (g.result ≠ 0 && meetsSpan spans g.result.toNat (g.result.toNat + 16))
    || g.poolRecs.any (fun r =>
      let p := d.pool g.ctx r.pool
      r.free && p.gen = r.gen && meetsSpan spans (p.cellAt r.cell).toNat ((p.cellAt r.cell).toNat + 8))

/-- Step 2 still waits: a commit that names the range is under way. -/
def Device.rangeCommits (d : Device) (ctx : Nat) (spans : List (Nat × Nat)) : Bool :=
  d.groups.any (fun p => p.2.ctx = ctx && p.2.phase = .committing && (p.2.buffersOn spans || d.settlesOn spans p.2))

/-- Step 2: the elements that the context's copies have read are written, and the bodies that its dynamics steps have begun to
write are written whole. -/
def Device.rangeSettle (d0 : Device) (e : Env) (ctx : Nat) : Device :=
  let d := d0.copies.foldl (fun d p => (p.2.filter (fun c => c.ctx = ctx)).foldl (fun d c =>
    let q := d.copyLand e p.1 c
    q.1.setCopy p.1 q.2) d) d0
  (d.entries.flatMap (fun p => (p.2.filter (fun t => t.ctx = ctx && !t.due.isEmpty)).map (fun t => (p.1, t)))).foldl (fun d p =>
    match p.2.work with
    | .colq _ _ => d
    | .dyns w =>
      let q := d.dynsSettle e (p.1 % 8) ctx w
      { q.1 with entries := q.1.entries.upd p.1 (fun l => l.map (fun t => if t.id = p.2.id then { t with work := .dyns q.2 } else t)) }) d

/-- The lines of a range leave every L1. -/
def Device.rangeLines (d : Device) (l : List RangeLeaf) : Device :=
  { d with l1Lines := d.l1Lines.filter (fun y => !onLeaf l (128 * y.line)) }

/-- Step 2: the stores that lie dirty in an L1 are performed at .sys; the sectors stay there. -/
def Device.rangeStores (d : Device) (l : List RangeLeaf) : Device := d.l1Clean (fun s => onLeaf l (16 * s.pa)) (fun _ => false)

/-- Step 3: dirty sectors of the range are written back, and its lines leave every L1. -/
def Device.rangeCaches (d : Device) (l : List RangeLeaf) : Device :=
  let mine : L1Sector → Bool := fun s => onLeaf l (16 * s.pa)
  (d.l1Clean mine mine).rangeLines l

/-- Step 3 of RELEASE: cached copies are dropped. -/
def Device.rangeDrop (d : Device) (l : List RangeLeaf) : Device :=
  { d with l1 := d.l1.filter (fun s => !onLeaf l (16 * s.pa)) }.rangeLines l

/-- Step 4: every leaf's entry is rewritten. -/
def Device.rangeEntries (d : Device) (f : W64 → W64) (l : List RangeLeaf) : Device :=
  l.foldl (fun d r => d.store .dev r.leaf.at_ (natToBytes 8 (f (BitVec.ofNat 64 (readNat d.mem r.leaf.at_ 8))).toNat)) d

/-- A RANGE of the context that overlaps a packet's started before it and is not done (R395). -/
def Device.rangeBehind (d : Device) (ctx : Nat) (p : Packet) : Bool :=
  let r := rangeOf p.words
  ((d.ctxs.get ctx).elim [] Ctx.queues).any (fun c => c.2.pkts.any (fun o =>
    o.st = .started && o.work = .begin && pktType o.words = 7 && decide (o.startedAt < p.startedAt)
      && decide ((rangeOf o.words).1 < r.2) && decide (r.1 < (rangeOf o.words).2)))

/-- The translations of a range leave every TLB and every walker (R391). -/
def Device.rangeTlbs (d : Device) (ctx lo hi : Nat) : Device :=
  (d.tlbDrop (fun t => t.ctx = ctx && decide (t.vpage * t.size < hi) && decide (lo < (t.vpage + 1) * t.size))).tablesDrop
    (fun t => t.ctx = ctx && decide (t.vpn * 2 ^ (12 + 9 * t.lvl) < hi) && decide (lo < (t.vpn + 1) * 2 ^ (12 + 9 * t.lvl)))

/-- A RANGE packet: translations held and dropped, the drain, then its own caches and entries. -/
def rangePacket (ctx q : Nat) (f : Device → List RangeLeaf → Device) (e : Env) (d : Device) (p : Packet) : Except Miss Device :=
  let r := rangeOf p.words
  match d.rangeLeaves e.plat ctx r.1 r.2 with
  | none => .error .channel
  | some l =>
    let spans := spansOf r.1 r.2 l
    if d.rangeCommits ctx spans || d.rangeBehind ctx p then .ok d
    else
      match d.rangeAborts e ctx spans with
      | .error m => .error m
      | .ok d0 =>
        let d1 := f (((d0.rangeSettle e ctx).rangeStores l).rangeTlbs ctx r.1 r.2) l
        .ok ((d1.updPacket ctx q p.n (fun p => { p with work := .none, spans })).tryEnd e ctx q p.n)

/-- A packet is a RANGE of an operation. -/
def ofRange (op : Nat) (ws : List W64) : Bool := pktType ws = 7 && rangeOp ws = op

/-- An entry without its reserved bits, which the device writes as zero (R6, R384). -/
def pteClean (x : W64) : W64 := x &&& ~~~0xC20#64

/-- OWN of an entry. -/
def withOwn (b : Bool) (x : W64) : W64 := pteClean (if b then x ||| (1#64 <<< 55) else x &&& ~~~(1#64 <<< 55))

/-- CLS, SEQ and PCORE of an entry, from the body of a CLASS packet. -/
def withClass (ws : List W64) (x : W64) : W64 :=
  let w := ws.getD 4 0
  let keep := pteClean x &&& ~~~((0x3F#64 <<< 58) ||| (0x7#64 <<< 52))
  keep ||| ((w.extractLsb' 8 6).setWidth 64 <<< 58) ||| ((w.extractLsb' 6 1).setWidth 64 <<< 54) ||| ((w.extractLsb' 4 2).setWidth 64 <<< 52)

/-- RANGE_INVAL. -/
def execRangeInval (ctx q : Nat) (s : State) := s.onPacket ctx q (ofRange 0) (rangePacket ctx q (fun d _ => d))

/-- RANGE_ACQUIRE: the host takes the range. -/
def execRangeAcquire (ctx q : Nat) (s : State) :=
  s.onPacket ctx q (ofRange 1) (rangePacket ctx q (fun d l => (d.rangeCaches l).rangeEntries (withOwn true) l))

/-- RANGE_RELEASE: the device takes the range. -/
def execRangeRelease (ctx q : Nat) (s : State) :=
  s.onPacket ctx q (ofRange 2) (rangePacket ctx q (fun d l => (d.rangeDrop l).rangeEntries (withOwn false) l))

/-- RANGE_CLASS: the class, the SEQ flag and the owner core change. -/
def execRangeClass (ctx q : Nat) (s : State) :=
  s.onPacket ctx q (ofRange 3) (fun e d p => rangePacket ctx q (fun d l => (d.rangeCaches l).rangeEntries (withClass p.words) l) e d p)

end Sys2Proof.Machine
end

