-- ==== Sys2Proof/Machine/Seal.lean ====
section
/-! DEFINITION. The commit of a sealed group: its buffered effects in the order of R258, the cells it freed, its result, and
the release of its slot and units (R222, R236, R292, R307, R322). -/

namespace Sys2Proof.Machine

/-- A buffered store, REDG or BESTMAX: what step 1 of R258 performs. -/
def SealOp.isStore : SealOp → Bool
  | .sector _ _ | .redg _ _ _ _ | .bestmax _ _ => true
  | _ => false

/-- A core's dirty sectors of the line of a place are written back and the line leaves its L1 before the home slice takes an
entry (R230). -/
def Device.sealClean (d : Device) (core key : Nat) : Device :=
  let p := unKey key
  if p.1 = .dev then d.l1Evict { core, line := p.2 / 128, urgent := none } else d

/-- Perform a buffered store, REDG or BESTMAX at home. -/
def Device.commitStore (d0 : Device) (core : Nat) (o : SealOp) : Device :=
  match o with
  | .sector key bytes =>
    let p := unKey key
    (d0.sealClean core key).storeSector p.1 p.2 (bytes.foldl (fun m b => m ||| (1#16 <<< b.1)) 0)
      (fun k => ((bytes.find? (fun b => b.1 = k)).map Prod.snd).getD 0)
  | .redg key op wide v =>
    let p := unKey key
    let n := if wide then 8 else 4
    let d := d0.sealClean core key
    d.store p.1 p.2 (natToBytes n (atomicOp op n (readNat (d.space p.1) p.2 n) v.toNat 0))
  | .bestmax key cell =>
    let p := unKey key
    (d0.sealClean core key).offer p.1 p.2 cell.toNat
  | _ => d0

/-- A buffered FRES, a release at .dev (R251, R253): one that is a duplicate is dropped with a record (R292). -/
def Device.commitFres (d : Device) (e : Env) (key : Nat) (g : Group) (va v : W64) : Except Miss Device :=
  match (d.order (key / 48) .rel .dev).resolve e (Agent.core (key / 48)) g va v with
  | .error (.fault code det a ts) => .ok ((d.retouch ts).reportFault e g.ctx code det a (g.who key))
  | .error m => .error m
  | .ok (d1, st, det) => .ok (if st = 1 then d1.reportFault e g.ctx 0x09 det va (g.who key) else d1)

/-- A buffered GQPUSH row: it enters the queue it was pushed to, waits for room, or is dropped when the queue has changed
(R307). -/
def Device.commitRow (d : Device) (e : Env) (key : Nat) (g : Group) (q fmt nk : Nat) (row : GqRow) : Except Miss (Option Device) :=
  let core := key / 48
  let same : Bool := match d.gqOf core q g.ctx with
    | some c => c.fmt = fmt && c.nk = nk
    | none => false
  if same then
    match d.pushRow e core q g.swarm { row with time := e.now, stamp := { guid := g.guid, count := g.writes } } with
    | .error (.fault code det a ts) => .ok (some ((d.retouch ts).reportFault e g.ctx code det a (g.who key)))
    | r => r
  else
    let d1 := d.report e { ErrRec.blank 1 e.now with code := 0x11, detail := q, ctx := g.ctx, core, slot := key % 48, swarm := g.swarm }
    if !row.fut then .ok (some d1)
    else
      match d1.futClaim e g.ctx (Agent.core core) row.tag (gqTag core) g.swarm with
      | .error (.fault code det a ts) => .ok (some ((d1.retouch ts).reportFault e g.ctx code det a (g.who key)))
      | .error m => .error m
      | .ok d2 => (d2.futSettle e g.ctx (Agent.core core) row.tag 4 0x11 none false (g.who key)).map some

/-- Perform one buffered effect; none when it waits for room. A SPAWN whose RESULT future faults at the commit is dropped with an
error record (DESIGN CHOICE, log entry 55). -/
def Device.commitOne (d : Device) (e : Env) (key : Nat) (g : Group) (o : SealOp) : Except Miss (Option Device) :=
  match o with
  | .fres va v => (d.commitFres e key g va v).map some
  | .spawn r =>
    match (d.order (key / 48) .rel .dev).place e (key / 48) g.ctx { r with stamp := g.writes, stampOf := g.guid } with
    | .error (.fault code det a ts) => .ok (some ((d.retouch ts).reportFault e g.ctx code det a (g.who key)))
    | .error m => .error m
    | .ok (d1, placed) => .ok (if placed then some d1 else none)
  | .gqpush q fmt nk row => d.commitRow e key g q fmt nk row
  | o => .ok (some (d.commitStore (key / 48) o))

/-- Perform buffered effects in order until one must wait: the device, what is left, and the page it waits for. -/
def Device.commitRun (d : Device) (e : Env) (key : Nat) (g : Group) : List SealOp → Device × List SealOp × Option Miss
  | [] => (d, [], none)
  | o :: l =>
    match d.commitOne e key g o with
    | .ok (some d1) => d1.commitRun e key g l
    | .ok none => (d, o :: l, none)
    | .error m => (d, o :: l, some m)

/-- Link the cells that the task freed into their pools (R322): the device, what is left, and the page it waits for. A cell whose
link faults is dropped with an error record, LIVE and the free list as they were (DESIGN CHOICE, log entry 55). -/
def Device.commitPool (d : Device) (e : Env) (ctx : Nat) (who : Who) : List PoolRec → Device × List PoolRec × Option Miss
  | [] => (d, [], none)
  | r :: l =>
    if !r.free || (d.pool ctx r.pool).gen ≠ r.gen then d.commitPool e ctx who l
    else
      match d.cellLink e ctx r.pool r.cell with
      | .ok d1 => d1.commitPool e ctx who l
      | .error (.fault code det a ts) => ((d.retouch ts).reportFault e ctx code det a who).commitPool e ctx who l
      | .error m => (d, r :: l, some m)

/-- Step 1 of R258, then step 2. -/
def SealBuf.ordered (b : SealBuf) : List SealOp := b.entries.filter SealOp.isStore ++ b.entries.filter (fun o => !o.isStore)

/-- What precedes the first effect of a commit: the core's dirty SWC sectors are written back where a buffered effect releases
at .dev or .sys (R251), and the pages that the commit writes have D set (R259, R386). -/
def Device.commitOpen (d : Device) (key : Nat) (b : SealBuf) : Device :=
  b.writes.foldl (fun d t => d.touch t.ag t.ctx t.va t.kind t.x) (if b.rel then d.order (key / 48) .rel .dev else d)

/-- A commit goes on as far as it can; when every effect is performed, the result settles and the group is gone. Its units are
free once its last entry has been accepted (R236), also where the pool links or the result still wait. -/
def Device.commitGroup (d : Device) (e : Env) (key : Nat) (g : Group) (b : SealBuf) : Except Miss Device :=
  let r := (d.commitOpen key b).commitRun e key g b.ordered
  let q : Device × List PoolRec × Option Miss := if r.2.1.isEmpty then r.1.commitPool e g.ctx (g.who key) b.pool else (r.1, b.pool, r.2.2)
  let stay (d : Device) : Device := d.putGroup key { g with sealBuf := some { b with
    entries := r.2.1, pool := q.2.1, units := if r.2.1.isEmpty then 0 else b.units, rel := false, writes := [] } }
  match q.2.2 with
  | some (.page vas) => .ok ((stay q.1).pageRequests e g.ctx (key / 48) (key % 48) g.swarm vas)
  | some _ => .ok (stay q.1)
  | none =>
    if r.2.1.isEmpty then
      let done := { q.1 with drains := q.1.drains.upd g.guid (fun t => { t with done := g.writes, issued := g.writes }) }
      match done.endGroup e key g .normal with
      | .ok d1 => .ok d1
      | .error (.page vas) => .ok ((stay q.1).pageRequests e g.ctx (key / 48) (key % 48) g.swarm vas)
      | .error _ => .ok (stay q.1)
    else .ok (stay q.1)

/-- SEAL_COMMIT_DONE: the commit of a sealed group past its commit point (R222, R236, R258). -/
def execSealCommitDone (core slot : Nat) (s : State) :=
  s.onDev 0 core (fun e d =>
    match d.groups.get (slotKey core slot) with
    | none => none
    | some g =>
      match g.phase, g.sealBuf with
      | .committing, some b => some (d.commitGroup e (slotKey core slot) g b)
      | _, _ => none)

end Sys2Proof.Machine
end

