-- ==== Sys2Proof/Machine/TaskEvents.lean ====
section
/-! DEFINITION. Events of tasks, futures and swarms: join decrements, records held for want of room, retries of SPAWN,
re-checks of FWAIT, deadlines, the end of a cancellation, the end of a swarm, drain stamps (R255, R267, R270 to R272,
R284, R289, R290, R292). -/

namespace Sys2Proof.Machine

/-! ### Joins (R271, R272) -/

/-- The level at which a parked record is queued: PRIO, or what was lent through its result if that is more (R286). -/
def Device.parkedLevel (d : Device) (ctx cell : Nat) (r : TaskRec) : Nat :=
  ((d.parkedLends.filter (fun y => y.ctx = ctx && y.cell = cell)).map ParkedLend.prio).foldl max r.prio.toNat

/-- A parked record whose JOIN has come to 0 is queued with STAMP 0, or discarded with its swarm, or held in its cell for
want of room (R264, R271). -/
def Device.parkedRuns (d : Device) (e : Env) (ctx cell core : Nat) (ws : List W64) : Except Miss Device :=
  let r := TaskRec.ofWords ws
  let q : QRec := { QRec.mk' ctx r e.now with level := d.parkedLevel ctx cell r }
  let d := { d.unparked ctx cell with joinFired := d.joinFired.erase (firedKey ctx cell) }
  if !d.swarmOpen ctx r.swarm.toNat then
    match d.discardRec e Agent.unit q with
    | .error m => .error m
    | .ok d1 => d1.freeParked e ctx cell r.swarm.toNat
  else
    match d.pushLocal e core q with
    | .ok (some d1) => d1.freeParked e ctx cell r.swarm.toNat
    | _ => .ok { d with heldPush := d.heldPush ++ [{ core := some core, q, cell := some cell }] }

/-- One decrement of JOIN in a parked cell; the last one also writes STAMP 0 over the registration. -/
def Device.joinStep (d : Device) (e : Env) (j : Join) : Except Miss Device :=
  let a := (d.pool j.ctx 0).cellAt j.cell
  match d.atomicLoad e j.ctx Agent.unit a 64 with
  | .error (.fault code det at_ ts) => .ok ((d.retouch ts).reportFault e j.ctx code det at_)
  | .error m => .error m
  | .ok (d1, n) =>
    let ws := bytesToWords (natToBytes 64 n)
    let w4 := ws.getD 4 0
    let join := (w4.extractLsb' 16 16).toNat
    if join = 0 then .ok d1
    else
      match d1.atomicStore e j.ctx Agent.unit (a + 34) (if join = 1 then 6 else 2) (join - 1) with
      | .error (.fault code det at_ ts) => .ok ((d1.retouch ts).reportFault e j.ctx code det at_)
      | .error m => .error m
      | .ok d2 =>
        let k := firedKey j.ctx j.cell
        if join = 1 then d2.parkedRuns e j.ctx j.cell (w4.extractLsb' 48 6).toNat (ws.set 4 (w4 &&& 0xFFFF#64))
        else .ok { d2 with joinFired := d2.joinFired.set k ((d2.joinFired.get k).getD 0 + 1) }

/-- JOIN_DECREMENT: the decrement at an index, once its stamp is performed (R272). -/
def execJoinDecrement (idx : Nat) (s : State) :=
  match s.dev.joins[idx]? with
  | none => Host.Outcome.next s
  | some j =>
    s.onDev j.ctx 0 (fun e d =>
      if (match j.stamp with
        | some t => d.reached t
        | none => true) then some ({ d with joins := d.joins.eraseIdx idx }.joinStep e j) else none)

/-- DEVICE_PUSH_RETRY: a held record enters a queue that has room and can be written (R267, R271, R415). -/
def execDevicePushRetry (idx : Nat) (s : State) :=
  match s.dev.heldPush[idx]? with
  | none => Host.Outcome.next s
  | some h =>
    s.onDev h.q.ctx 0 (fun e d =>
      let d0 := { d with heldPush := d.heldPush.eraseIdx idx }
      match d0.pushOwn e h.core h.q with
      | .ok (some d1) => some (match h.cell with
        | some c => d1.freeParked e h.q.ctx c h.q.r.swarm.toNat
        | none => .ok d1)
      | _ => none)

/-! ### Retries and re-checks (R270, R284) -/

/-- SPAWN_RETRY: once its yield is over, the lanes that were not placed are pushed again (R270). -/
def execSpawnRetry (core slot lane : Nat) (s : State) :=
  s.onParked core slot lane (fun e r d x =>
    match x.sp.park with
    | .spawn f left placed since others =>
      if !x.yieldOver e.plat.cycles.toNat since others then none
      else
      let q := (anyOrder e.tick left).foldl (fun (p : Device × List (Nat × TaskRec)) t =>
        match p.1.pushLocal e r.core (QRec.mk' x.g.ctx t.2 e.now) with
        | .ok (some d1) => (d1, p.2)
        | _ => (p.1, p.2 ++ [t])) (d, [])
      if q.2 = [] then some (Res.view q.1 r.key ({ x with sp := { x.sp with park := .running } }.next 8))
      else
        let now := placed ||| maskOfLanes ((left.filter (fun t => !q.2.any (fun u => u.1 = t.1))).map Prod.fst)
        some (.done q.1 { x.sp with park := .spawn f q.2 now e.plat.cycles.toNat x.others })
    | _ => none)

/-- A parked FWAIT checks its futures again: it ends, or parks on (R284). -/
def fwaitAgain (e : Env) (r : SplitRef) (d : Device) (x : View) (f : FmtT) (poll : Bool) : Res :=
  let act := x.active f.ms
  futLanes e r d x f act (futReport e r.core x) (fun d l =>
    if l.all (fun p => !p.2.2.unsettled) then futEndWait e r d x f l
    else .done d { x.sp with park := .fwait f poll false e.plat.cycles.toNat })

/-- FWAIT_RECHECK: a wake reference has fired (R279, R284). -/
def execFwaitRecheck (core slot lane : Nat) (s : State) :=
  s.onParked core slot lane (fun e r d x =>
    match x.sp.park with
    | .fwait f poll true _ => some (fwaitAgain e r d x f poll)
    | _ => none)

/-- FWAIT_POLL_TIMEOUT: 256 cycles after the last check, for a wait without a wake reference (R284). -/
def execFwaitPollTimeout (core slot lane : Nat) (s : State) :=
  s.onParked core slot lane (fun e r d x =>
    match x.sp.park with
    | .fwait f true _ since => if since + 256 ≤ e.plat.cycles.toNat then some (fwaitAgain e r d x f true) else none
    | _ => none)

/-! ### Swarms (R289, R290) -/

/-- DEADLINE_EXPIRY: DTIME has passed a LIVE swarm's effective deadline (R289). -/
def execDeadlineExpiry (ctx swarm : Nat) (s : State) :=
  s.onDev ctx 0 (fun e d =>
    match d.swarm ctx swarm with
    | none => none
    | some w =>
      let t := d.deadlineOf ctx 4097 swarm
      if w.st = .live && t ≠ 0 && decide (t ≤ e.now.toNat) then some (d.cancelSwarm e ctx swarm 1) else none)

/-- No group of some swarms runs or stands saved, and no copy or engine operation of theirs remains (R290, step 7). -/
def Device.quiet (d : Device) (ctx : Nat) (ws : List Nat) : Bool :=
  (d.swarmGroups ctx ws).isEmpty && (d.swarmImages ctx ws).isEmpty && (d.swarmCopies ctx ws).isEmpty
    && (d.swarmEntries ctx ws).isEmpty

/-- Steps 7 and 8: the arenas of the swarms that a cancellation took are reset, they become CANCELLED, and the continuation of the
one it names is queued. The RESULT futures of the continuations that are discarded stay as they are (DESIGN CHOICE, log entry 55). -/
def Device.endCancel (d : Device) (e : Env) (ctx w : Nat) (s : Swarm) (ws : List Nat) : Except Miss Device :=
  let d1 := ws.foldl (fun d k => match d.swarm ctx k with
    | some t =>
      if t.st = .cancelling && t.root = w then
        (if t.aval && t.arst then d.poolReset ctx t.arena else d).updSwarm ctx k (fun t => { t with st := .cancelled, expiry := none })
      else d
    | none => d) d
  d1.queueContinuation e ctx w s s.cause

/-- SWARM_CANCEL_COMPLETE of the swarm that a cancellation names: no group and no operation of it or its descendants is left
(R289, R290). -/
def execSwarmCancelComplete (ctx swarm : Nat) (s : State) :=
  s.onDev ctx 0 (fun e d =>
    match d.swarm ctx swarm with
    | none => none
    | some w =>
      let ws := d.treeOf ctx swarm
      if w.st = .cancelling && w.root = swarm && d.quiet ctx ws then some (d.endCancel e ctx swarm w ws) else none)

/-- Return the cells of a chain to pool 0. -/
def Device.freeChain (d : Device) (e : Env) (ctx : Nat) : Nat → Nat → Except Miss Device
  | 0, _ => .ok d
  | fuel + 1, c =>
    if c = 0 then .ok d
    else
      match d.atomicLoad e ctx Agent.unit ((d.pool ctx 0).cellAt c + 56) 8 with
      | .error (.fault code det a ts) => .ok ((d.retouch ts).reportFault e ctx code det a)
      | .error m => .error m
      | .ok (d1, n) =>
        match d1.cellFree e ctx 0 c with
        | .error (.fault code det a ts) => .ok ((d1.retouch ts).reportFault e ctx code det a)
        | .error m => .error m
        | .ok r => r.1.freeChain e ctx fuel (n % 2 ^ 24)

/-- SWARM_FREE: the last member and the last child of a CLOSED or CANCELLED swarm have gone (R289). -/
def execSwarmFree (ctx swarm : Nat) (s : State) :=
  s.onDev ctx 0 (fun e d =>
    match d.swarm ctx swarm with
    | none => none
    | some w =>
      if (w.st = .closed || w.st = .cancelled) && d.members ctx swarm = 0 && !d.hasChild ctx swarm then
        some ((d.updCtx ctx (fun c => { c with swarms := c.swarms.erase swarm })).freeChain e ctx chainFuel w.watch)
      else none)

/-- SEALED_REQUEUE: a sealed task's record whose page a RANGE has covered is pushed once to its core's queue, or discarded
with its swarm (R264, R292). -/
def execSealedRequeue (idx : Nat) (s : State) :=
  match s.dev.heldSealed[idx]? with
  | none => Host.Outcome.next s
  | some h =>
    s.onDev h.q.ctx h.core (fun e d =>
      if h.freed then
        let d1 := { d with heldSealed := d.heldSealed.eraseIdx idx }
        some (if d1.swarmOpen h.q.ctx h.q.r.swarm.toNat then .ok (d1.pushDevice e (some h.core) h.q)
          else d1.discardRec e (Agent.core h.core) h.q)
      else none)

/-! ### Drain stamps (R255) -/

/-- DRAIN_STAMP_REACHED of twice a group's identity: every write that it has issued is performed at .core; of one more: at
.dev and so at .core too, and a group that has gone needs no count then. -/
def execDrainStampReached (stamp : Nat) (s : State) :=
  let guid := stamp / 2
  let atDev := decide (stamp % 2 = 1)
  s.whenDue (s.dev.drains.get guid).isSome (fun _ d =>
    match d.groups.find? (fun p => p.2.guid = guid) with
    | some p => { d with drains := d.drains.upd guid (fun r =>
        { r with core := p.2.writes, done := if atDev then p.2.writes else r.done, issued := p.2.writes }) }
    | none =>
      if atDev then
        { d with
          drains := d.drains.erase guid
          futStamps := d.futStamps.filter (fun t => t.stamp.guid ≠ guid) }
      else { d with drains := d.drains.upd guid (fun r => { r with core := r.issued }) })

end Sys2Proof.Machine
end

