-- ==== Sys2Proof/Machine/Dispatch.lean ====
section
/-! DEFINITION. The dispatcher: one arm for every row of the table of operations and events. -/

namespace Sys2Proof.Machine

/-- The meaning of every instruction and event. -/
def exec (i : Instr) (s : State) : Host.Outcome State Fault Refusal :=
  match i with
  | .nop => Sys2Proof.Machine.execNop s
  | .smov d a => Sys2Proof.Machine.execSmov d a s
  | .smovPair d a => Sys2Proof.Machine.execSmovPair d a s
  | .smovImm d imm => Sys2Proof.Machine.execSmovImm d imm s
  | .sli f => Sys2Proof.Machine.execSli f s
  | .sadd d a b => Sys2Proof.Machine.execSadd d a b s
  | .saddImm d a imm => Sys2Proof.Machine.execSaddImm d a imm s
  | .ssub d a b => Sys2Proof.Machine.execSsub d a b s
  | .ssubImm d a imm => Sys2Proof.Machine.execSsubImm d a imm s
  | .smul d a b => Sys2Proof.Machine.execSmul d a b s
  | .smulImm d a imm => Sys2Proof.Machine.execSmulImm d a imm s
  | .smulhs d a b => Sys2Proof.Machine.execSmulhs d a b s
  | .smulhsImm d a imm => Sys2Proof.Machine.execSmulhsImm d a imm s
  | .smulhn d a b => Sys2Proof.Machine.execSmulhn d a b s
  | .smulhnImm d a imm => Sys2Proof.Machine.execSmulhnImm d a imm s
  | .sand d a b => Sys2Proof.Machine.execSand d a b s
  | .sandImm d a imm => Sys2Proof.Machine.execSandImm d a imm s
  | .sor d a b => Sys2Proof.Machine.execSor d a b s
  | .sorImm d a imm => Sys2Proof.Machine.execSorImm d a imm s
  | .sxor d a b => Sys2Proof.Machine.execSxor d a b s
  | .sxorImm d a imm => Sys2Proof.Machine.execSxorImm d a imm s
  | .sandn d a b => Sys2Proof.Machine.execSandn d a b s
  | .sandnImm d a imm => Sys2Proof.Machine.execSandnImm d a imm s
  | .sshl d a b => Sys2Proof.Machine.execSshl d a b s
  | .sshlImm d a imm => Sys2Proof.Machine.execSshlImm d a imm s
  | .sshr d a b => Sys2Proof.Machine.execSshr d a b s
  | .sshrImm d a imm => Sys2Proof.Machine.execSshrImm d a imm s
  | .ssar d a b => Sys2Proof.Machine.execSsar d a b s
  | .ssarImm d a imm => Sys2Proof.Machine.execSsarImm d a imm s
  | .smin d a b => Sys2Proof.Machine.execSmin d a b s
  | .sminImm d a imm => Sys2Proof.Machine.execSminImm d a imm s
  | .smax d a b => Sys2Proof.Machine.execSmax d a b s
  | .smaxImm d a imm => Sys2Proof.Machine.execSmaxImm d a imm s
  | .sminn d a b => Sys2Proof.Machine.execSminn d a b s
  | .sminnImm d a imm => Sys2Proof.Machine.execSminnImm d a imm s
  | .smaxn d a b => Sys2Proof.Machine.execSmaxn d a b s
  | .smaxnImm d a imm => Sys2Proof.Machine.execSmaxnImm d a imm s
  | .sdivn d a b => Sys2Proof.Machine.execSdivn d a b s
  | .sdivnImm d a imm => Sys2Proof.Machine.execSdivnImm d a imm s
  | .sremn d a b => Sys2Proof.Machine.execSremn d a b s
  | .sremnImm d a imm => Sys2Proof.Machine.execSremnImm d a imm s
  | .scmp f => Sys2Proof.Machine.execScmp f s
  | .sadd64 d a b => Sys2Proof.Machine.execSadd64 d a b s
  | .sadd64Imm d a imm => Sys2Proof.Machine.execSadd64Imm d a imm s
  | .ssub64 d a b => Sys2Proof.Machine.execSsub64 d a b s
  | .ssub64Imm d a imm => Sys2Proof.Machine.execSsub64Imm d a imm s
  | .slea fn d a b => Sys2Proof.Machine.execSlea fn d a b s
  | .sleaImm d a imm => Sys2Proof.Machine.execSleaImm d a imm s
  | .spopc d a => Sys2Proof.Machine.execSpopc d a s
  | .spopcL d a => Sys2Proof.Machine.execSpopcL d a s
  | .sclz d a => Sys2Proof.Machine.execSclz d a s
  | .sclzL d a => Sys2Proof.Machine.execSclzL d a s
  | .sbfx f => Sys2Proof.Machine.execSbfx f s
  | .sbfi f => Sys2Proof.Machine.execSbfi f s
  | .smask fn d a b => Sys2Proof.Machine.execSmask fn d a b s
  | .br f => Sys2Proof.Machine.execBr f s
  | .brs f => Sys2Proof.Machine.execBrs f s
  | .brv f => Sys2Proof.Machine.execBrv f s
  | .bway f => Sys2Proof.Machine.execBway f s
  | .brany f => Sys2Proof.Machine.execBrany f s
  | .jmp a => Sys2Proof.Machine.execJmp a s
  | .call f => Sys2Proof.Machine.execCall f s
  | .calli d a => Sys2Proof.Machine.execCalli d a s
  | .ret a => Sys2Proof.Machine.execRet a s
  | .syncs => Sys2Proof.Machine.execSyncs s
  | .exit => Sys2Proof.Machine.execExit s
  | .exitAll => Sys2Proof.Machine.execExitAll s
  | .yield => Sys2Proof.Machine.execYield s
  | .yieldImm imm => Sys2Proof.Machine.execYieldImm imm s
  | .trap n => Sys2Proof.Machine.execTrap n s
  | .smovr f => Sys2Proof.Machine.execSmovr f s
  | .smovw f => Sys2Proof.Machine.execSmovw f s
  | .watch d a => Sys2Proof.Machine.execWatch d a s
  | .tret => Sys2Proof.Machine.execTret s
  | .vmov f => Sys2Proof.Machine.execVmov f s
  | .vli f => Sys2Proof.Machine.execVli f s
  | .vadd f => Sys2Proof.Machine.execVadd f s
  | .vsub f => Sys2Proof.Machine.execVsub f s
  | .vmul f => Sys2Proof.Machine.execVmul f s
  | .vmulh f => Sys2Proof.Machine.execVmulh f s
  | .vmad f => Sys2Proof.Machine.execVmad f s
  | .vand f => Sys2Proof.Machine.execVand f s
  | .vor f => Sys2Proof.Machine.execVor f s
  | .vxor f => Sys2Proof.Machine.execVxor f s
  | .vandn f => Sys2Proof.Machine.execVandn f s
  | .vshl f => Sys2Proof.Machine.execVshl f s
  | .vshr f => Sys2Proof.Machine.execVshr f s
  | .vsar f => Sys2Proof.Machine.execVsar f s
  | .vmin f => Sys2Proof.Machine.execVmin f s
  | .vmax f => Sys2Proof.Machine.execVmax f s
  | .vabs f => Sys2Proof.Machine.execVabs f s
  | .vcmp f => Sys2Proof.Machine.execVcmp f s
  | .vsel f => Sys2Proof.Machine.execVsel f s
  | .vpopc f => Sys2Proof.Machine.execVpopc f s
  | .vclz f => Sys2Proof.Machine.execVclz f s
  | .vshuf f => Sys2Proof.Machine.execVshuf f s
  | .vbcst f => Sys2Proof.Machine.execVbcst f s
  | .vlane f => Sys2Proof.Machine.execVlane f s
  | .vscan f => Sys2Proof.Machine.execVscan f s
  | .vrowmap f => Sys2Proof.Machine.execVrowmap f s
  | .vpack f => Sys2Proof.Machine.execVpack f s
  | .vunpk f => Sys2Proof.Machine.execVunpk f s
  | .vbfx f => Sys2Proof.Machine.execVbfx f s
  | .vv2s f => Sys2Proof.Machine.execVv2s f s
  | .vfadd f => Sys2Proof.Machine.execVfadd f s
  | .vfsub f => Sys2Proof.Machine.execVfsub f s
  | .vfmul f => Sys2Proof.Machine.execVfmul f s
  | .vfma f => Sys2Proof.Machine.execVfma f s
  | .vfms f => Sys2Proof.Machine.execVfms f s
  | .vfmin f => Sys2Proof.Machine.execVfmin f s
  | .vfmax f => Sys2Proof.Machine.execVfmax f s
  | .vfabs f => Sys2Proof.Machine.execVfabs f s
  | .vfneg f => Sys2Proof.Machine.execVfneg f s
  | .vfcmp f => Sys2Proof.Machine.execVfcmp f s
  | .vfdiv f => Sys2Proof.Machine.execVfdiv f s
  | .vfsqrt f => Sys2Proof.Machine.execVfsqrt f s
  | .vfclass f => Sys2Proof.Machine.execVfclass f s
  | .vfadda f => Sys2Proof.Machine.execVfadda f s
  | .vfdot2 f => Sys2Proof.Machine.execVfdot2 f s
  | .vfscale f => Sys2Proof.Machine.execVfscale f s
  | .vfrnd f => Sys2Proof.Machine.execVfrnd f s
  | .vcvt f => Sys2Proof.Machine.execVcvt f s
  | .vcvts f => Sys2Proof.Machine.execVcvts f s
  | .vrcp f => Sys2Proof.Machine.execVrcp f s
  | .vrsq f => Sys2Proof.Machine.execVrsq f s
  | .vexp2 f => Sys2Proof.Machine.execVexp2 f s
  | .vlog2 f => Sys2Proof.Machine.execVlog2 f s
  | .vsin f => Sys2Proof.Machine.execVsin f s
  | .vcos f => Sys2Proof.Machine.execVcos f s
  | .vtanh f => Sys2Proof.Machine.execVtanh f s
  | .vsigm f => Sys2Proof.Machine.execVsigm f s
  | .vrand f => Sys2Proof.Machine.execVrand f s
  | .vseed f => Sys2Proof.Machine.execVseed f s
  | .qld f => Sys2Proof.Machine.execQld f s
  | .vmkabs f => Sys2Proof.Machine.execVmkabs f s
  | .visabs f => Sys2Proof.Machine.execVisabs f s
  | .mma f => Sys2Proof.Machine.execMma f s
  | .mmas f => Sys2Proof.Machine.execMmas f s
  | .aclr f => Sys2Proof.Machine.execAclr f s
  | .adrain f => Sys2Proof.Machine.execAdrain f s
  | .amerge f => Sys2Proof.Machine.execAmerge f s
  | .vdot8 f => Sys2Proof.Machine.execVdot8 f s
  | .vdot4 f => Sys2Proof.Machine.execVdot4 f s
  | .vred f => Sys2Proof.Machine.execVred f s
  | .mtrans f => Sys2Proof.Machine.execMtrans f s
  | .ldg f => Sys2Proof.Machine.execLdg f s
  | .stg f => Sys2Proof.Machine.execStg f s
  | .lds f => Sys2Proof.Machine.execLds f s
  | .sts f => Sys2Proof.Machine.execSts f s
  | .ldsm f => Sys2Proof.Machine.execLdsm f s
  | .stsm f => Sys2Proof.Machine.execStsm f s
  | .ldfrag f => Sys2Proof.Machine.execLdfrag f s
  | .ldu f => Sys2Proof.Machine.execLdu f s
  | .stsc f => Sys2Proof.Machine.execStsc f s
  | .atomg f => Sys2Proof.Machine.execAtomg f s
  | .atoms f => Sys2Proof.Machine.execAtoms f s
  | .redg f => Sys2Proof.Machine.execRedg f s
  | .bestmax f => Sys2Proof.Machine.execBestmax f s
  | .tld f => Sys2Proof.Machine.execTld f s
  | .tst f => Sys2Proof.Machine.execTst f s
  | .hld f => Sys2Proof.Machine.execHld f s
  | .citer f => Sys2Proof.Machine.execCiter f s
  | .ccount f => Sys2Proof.Machine.execCcount f s
  | .fence f => Sys2Proof.Machine.execFence f s
  | .cache f => Sys2Proof.Machine.execCache f s
  | .disc f => Sys2Proof.Machine.execDisc f s
  | .spawn f => Sys2Proof.Machine.execSpawn f s
  | .jrec f => Sys2Proof.Machine.execJrec f s
  | .fnew f => Sys2Proof.Machine.execFnew f s
  | .fres f => Sys2Proof.Machine.execFres f s
  | .fwait f => Sys2Proof.Machine.execFwait f s
  | .fpoll f => Sys2Proof.Machine.execFpoll f s
  | .freg f => Sys2Proof.Machine.execFreg f s
  | .fcan f => Sys2Proof.Machine.execFcan f s
  | .swnew f => Sys2Proof.Machine.execSwnew f s
  | .swdl f => Sys2Proof.Machine.execSwdl f s
  | .swcan f => Sys2Proof.Machine.execSwcan f s
  | .swendClose f => Sys2Proof.Machine.execSwendClose f s
  | .swendRun f => Sys2Proof.Machine.execSwendRun f s
  | .barInit f => Sys2Proof.Machine.execBarInit f s
  | .barArrive f => Sys2Proof.Machine.execBarArrive f s
  | .barWait f => Sys2Proof.Machine.execBarWait f s
  | .barExpect f => Sys2Proof.Machine.execBarExpect f s
  | .barTest f => Sys2Proof.Machine.execBarTest f s
  | .cpy f => Sys2Proof.Machine.execCpy f s
  | .cpydn f => Sys2Proof.Machine.execCpydn f s
  | .colqQpoint f => Sys2Proof.Machine.execColqQpoint f s
  | .colqQsphere f => Sys2Proof.Machine.execColqQsphere f s
  | .colqQseg f => Sys2Proof.Machine.execColqQseg f s
  | .dyns f => Sys2Proof.Machine.execDyns f s
  | .gqcfg f => Sys2Proof.Machine.execGqcfg f s
  | .gqpush f => Sys2Proof.Machine.execGqpush f s
  | .gqpop f => Sys2Proof.Machine.execGqpop f s
  | .gqflush f => Sys2Proof.Machine.execGqflush f s
  | .pdef f => Sys2Proof.Machine.execPdef f s
  | .palloc f => Sys2Proof.Machine.execPalloc f s
  | .pfree f => Sys2Proof.Machine.execPfree f s
  | .preset f => Sys2Proof.Machine.execPreset f s
  | .regdef f => Sys2Proof.Machine.execRegdef f s
  | .hstw f => Sys2Proof.Machine.execHstw f s
  | .sigdec f => Sys2Proof.Machine.execSigdec f s
  | .fetchFault code detail addr => Sys2Proof.Machine.execFetchFault code detail addr s
  | .createQueue ctx q => Sys2Proof.Machine.execCreateQueue ctx q s
  | .qwidxWrite ctx q width v => Sys2Proof.Machine.execQwidxWrite ctx q width v s
  | .sridxWrite ctx k width v => Sys2Proof.Machine.execSridxWrite ctx k width v s
  | .registerWrite space off width v => Sys2Proof.Machine.execRegisterWrite space off width v s
  | .packetRead ctx q => Sys2Proof.Machine.execPacketRead ctx q s
  | .nopPacket ctx q => Sys2Proof.Machine.execNopPacket ctx q s
  | .launch ctx q => Sys2Proof.Machine.execLaunch ctx q s
  | .tasks ctx q => Sys2Proof.Machine.execTasks ctx q s
  | .copyPacket ctx q => Sys2Proof.Machine.execCopyPacket ctx q s
  | .signalPacket ctx q => Sys2Proof.Machine.execSignalPacket ctx q s
  | .waitPacket ctx q => Sys2Proof.Machine.execWaitPacket ctx q s
  | .graph ctx q => Sys2Proof.Machine.execGraph ctx q s
  | .rangeInval ctx q => Sys2Proof.Machine.execRangeInval ctx q s
  | .rangeAcquire ctx q => Sys2Proof.Machine.execRangeAcquire ctx q s
  | .rangeRelease ctx q => Sys2Proof.Machine.execRangeRelease ctx q s
  | .rangeClass ctx q => Sys2Proof.Machine.execRangeClass ctx q s
  | .stream ctx q => Sys2Proof.Machine.execStream ctx q s
  | .packetComplete ctx q n => Sys2Proof.Machine.execPacketComplete ctx q n s
  | .graphNodeComplete ctx q n node => Sys2Proof.Machine.execGraphNodeComplete ctx q n node s
  | .teamAdmit place => Sys2Proof.Machine.execTeamAdmit place s
  | .yieldEnd core slot lane => Sys2Proof.Machine.execYieldEnd core slot lane s
  | .watchWake core slot lane => Sys2Proof.Machine.execWatchWake core slot lane s
  | .watchTimeout core slot lane => Sys2Proof.Machine.execWatchTimeout core slot lane s
  | .cancelDelivery core slot => Sys2Proof.Machine.execCancelDelivery core slot s
  | .instructionComplete core slot => Sys2Proof.Machine.execInstructionComplete core slot s
  | .drainStampReached stamp => Sys2Proof.Machine.execDrainStampReached stamp s
  | .pageWalkDone cluster ctx va => Sys2Proof.Machine.execPageWalkDone cluster ctx va s
  | .sealStoreStallEnd core slot => Sys2Proof.Machine.execSealStoreStallEnd core slot s
  | .sealCommitDone core slot => Sys2Proof.Machine.execSealCommitDone core slot s
  | .teamFree team => Sys2Proof.Machine.execTeamFree team s
  | .copyComplete core id => Sys2Proof.Machine.execCopyComplete core id s
  | .copyFault core id => Sys2Proof.Machine.execCopyFault core id s
  | .barWaitTimeout core slot lane => Sys2Proof.Machine.execBarWaitTimeout core slot lane s
  | .gqTimeout core q => Sys2Proof.Machine.execGqTimeout core q s
  | .gqTileDeliver core q => Sys2Proof.Machine.execGqTileDeliver core q s
  | .gqpushRetry core slot lane => Sys2Proof.Machine.execGqpushRetry core slot lane s
  | .joinDecrement idx => Sys2Proof.Machine.execJoinDecrement idx s
  | .spawnRetry core slot lane => Sys2Proof.Machine.execSpawnRetry core slot lane s
  | .fwaitRecheck core slot lane => Sys2Proof.Machine.execFwaitRecheck core slot lane s
  | .fwaitPollTimeout core slot lane => Sys2Proof.Machine.execFwaitPollTimeout core slot lane s
  | .deadlineExpiry ctx swarm => Sys2Proof.Machine.execDeadlineExpiry ctx swarm s
  | .engineEntryStart cluster kind => Sys2Proof.Machine.execEngineEntryStart cluster kind s
  | .colqQueryDone cluster id lane => Sys2Proof.Machine.execColqQueryDone cluster id lane s
  | .dynsBodyStep cluster id => Sys2Proof.Machine.execDynsBodyStep cluster id s
  | .hstwResume core slot lane => Sys2Proof.Machine.execHstwResume core slot lane s
  | .bar2Access a => Sys2Proof.Machine.execBar2Access a s
  | .thermtrip k t => Sys2Proof.Machine.execThermtrip k t s
  | .linkTraining high => Sys2Proof.Machine.execLinkTraining high s
  | .ppsctlWrite v => Sys2Proof.Machine.execPpsctlWrite v s
  | .functionReady bit => Sys2Proof.Machine.execFunctionReady bit s
  | .destroyContext ctx => Sys2Proof.Machine.execDestroyContext ctx s
  | .destroyQueue ctx q => Sys2Proof.Machine.execDestroyQueue ctx q s
  | .queueFree ctx q => Sys2Proof.Machine.execQueueFree ctx q s
  | .erridxWrite width v => Sys2Proof.Machine.execErridxWrite width v s
  | .pcapWrite width v => Sys2Proof.Machine.execPcapWrite width v s
  | .waitSatisfied ctx q n => Sys2Proof.Machine.execWaitSatisfied ctx q n s
  | .coalesceTimeout vec => Sys2Proof.Machine.execCoalesceTimeout vec s
  | .streamTimeout ctx k => Sys2Proof.Machine.execStreamTimeout ctx k s
  | .starvationBoost core slot => Sys2Proof.Machine.execStarvationBoost core slot s
  | .splitEligibilityBoost core slot lane => Sys2Proof.Machine.execSplitEligibilityBoost core slot lane s
  | .splitFillDone core slot lane => Sys2Proof.Machine.execSplitFillDone core slot lane s
  | .spinDemote core slot lane => Sys2Proof.Machine.execSpinDemote core slot lane s
  | .spinRestore core slot lane => Sys2Proof.Machine.execSpinRestore core slot lane s
  | .spinRestoreTimeout core slot lane => Sys2Proof.Machine.execSpinRestoreTimeout core slot lane s
  | .residencyWaitEnd ctx va => Sys2Proof.Machine.execResidencyWaitEnd ctx va s
  | .sealedRequeue idx => Sys2Proof.Machine.execSealedRequeue idx s
  | .devicePushRetry idx => Sys2Proof.Machine.execDevicePushRetry idx s
  | .swarmCancelComplete ctx swarm => Sys2Proof.Machine.execSwarmCancelComplete ctx swarm s
  | .swarmFree ctx swarm => Sys2Proof.Machine.execSwarmFree ctx swarm s
  | .preempt team => Sys2Proof.Machine.execPreempt team s
  | .teamResume image place => Sys2Proof.Machine.execTeamResume image place s
  | .energyCharge r => Sys2Proof.Machine.execEnergyCharge r s
  | .clockControl temps => Sys2Proof.Machine.execClockControl temps s
  | .coreGateDecide core => Sys2Proof.Machine.execCoreGateDecide core s
  | .coreGateCommit core => Sys2Proof.Machine.execCoreGateCommit core s
  | .engineGate cluster kind => Sys2Proof.Machine.execEngineGate cluster kind s
  | .coreWake core => Sys2Proof.Machine.execCoreWake core s
  | .correctedError loc => Sys2Proof.Machine.execCorrectedError loc s
  | .uncorrectableError loc => Sys2Proof.Machine.execUncorrectableError loc s
  | .controlParityError cluster => Sys2Proof.Machine.execControlParityError cluster s
  | .reset => Sys2Proof.Machine.execReset s
  | .resetRelease => Sys2Proof.Machine.execResetRelease s
  | .ppsEdge => Sys2Proof.Machine.execPpsEdge s
  | .ppsEdgeMissed => Sys2Proof.Machine.execPpsEdgeMissed s
  | .ppscaploRead => Sys2Proof.Machine.execPpscaploRead s
  | .attctlGo => Sys2Proof.Machine.execAttctlGo s
  | .attestationReport => Sys2Proof.Machine.execAttestationReport s
  | .boot => Sys2Proof.Machine.execBoot s
  | .createContext => Sys2Proof.Machine.execCreateContext s
  | .erdropRead => Sys2Proof.Machine.execErdropRead s
  | .illop => Sys2Proof.Machine.execIllop s
  | .refclkEdge => Sys2Proof.Machine.execRefclkEdge s
  | .ppsSeenExpiry => Sys2Proof.Machine.execPpsSeenExpiry s

end Sys2Proof.Machine
end

