-- ==== Sys2Proof/Machine/Issue.lean ====
section
/-! DEFINITION. One turn of the machine: an event, or the issue of one instruction by a split; and a machine made ready
to issue a given instruction. -/

namespace Sys2Proof.Machine

/-- What the device does of itself with each step: what it attends to, and how far its engines have gone. -/
def Device.pass (d : Device) (e : Env) : Device := ((d.attend e).copiesDrift e).enginesDrift e

/-- Begin a step: the turns still to come, the step's number, the core cycles that pass with it (R29, R81), and what the device
does of itself. -/
def State.begin (s : State) (rest : List Turn) : State :=
  let plat := { s.plat with cycles := s.plat.cycles + BitVec.ofNat 64 (Config.cyclesPerStep s.tick) }
  { s with agenda := rest, tick := s.tick + 1, plat, dev := s.dev.pass { plat, tick := s.tick + 1 } }

/-- A split whose wait is over runs, restored first where an event of R219 has reached it; it keeps its place among those
that wait for an engine (R337). -/
def Split.unstalled (sp : Split) : Split :=
  { sp.restored with park := .running, queued := match sp.park with
      | .stall (.engine _ since) => some since
      | _ => none }

/-- The issuing split's wait is over. -/
def State.unstall (s : State) (x : View) : State :=
  s.withDev (s.dev.putGroup s.cur.key { x.g with
    splits := x.g.splits.map (fun sp => if sp.low = x.sp.low then sp.unstalled else sp) })

/-- The wait that a fetch asks for, before the instruction issues: a page not resident aborts a sealed task (R388). -/
def State.fetchWait (s : State) (x : View) (why : Stall) : Host.Outcome State Fault Refusal :=
  match why with
  | .page (va :: l) =>
    if x.g.sealBuf.isSome then s.close x (s.dev.abortPages s.env s.cur.key x.g va l)
    else .next (s.stalledAs x x.sp.issued why)
  | _ => .next (s.stalledAs x x.sp.issued why)

/-- Issue one instruction from a split; a split that may not issue leaves the state as it is. -/
def State.issueAt (s : State) (r : SplitRef) : Host.Outcome State Fault Refusal :=
  let s0 : State := { s with cur := r }
  match s0.issuer with
  | none => .next s
  | some x0 =>
    if !s0.mayIssue x0 then .next s
    else
      let s1 := s0.unstall x0
      let x : View := { x0 with sp := x0.sp.unstalled }
      match s1.fetch x with
      | .wait why => s1.fetchWait x why
      | .instr d i =>
        match exec i (s1.withDev d) with
        | .next t => .next (State.noteIssued i s1 t)
        | o => o

/-- One turn: the next of the agenda, or the choice of R211 to R217 when nothing is due, or a step of time alone. -/
def State.turn (s : State) : Host.Outcome State Fault Refusal :=
  match s.agenda with
  | .event i :: rest => if isEvent i then exec i (s.begin rest) else .next (s.begin rest)
  | .issue c k l :: rest => (s.begin rest).issueAt { core := c, slot := k, lane := l }
  | [] =>
    let s1 := s.begin []
    match s1.choose with
    | some r => s1.issueAt r
    | none => .next s1

/-! ### A machine about to issue one instruction -/

/-- Bytes of the three words of an instruction. -/
def wordBytes (w : Nat) : List Byte := natToBytes 12 w

/-- Page tables that map the lowest 1 GiB onto itself with every permission (R384, R385). -/
def identityTables (m : Memory) : Memory :=
  writeBytes (writeBytes (writeBytes m 0x1000 (natToBytes 8 0x2001)) 0x2000 (natToBytes 8 0x3001)) 0x3000 (natToBytes 8 0x1DF)

/-- A context whose tables are `identityTables` and whose save area is the upper 768 MiB of the mapped range. -/
def fetchCtx : Ctx :=
  { ptroot := 0x1000, ctxmem := 0x800000, bqbase := 0x400000, bqsize := 256, ttvec := 0, save := 0x10000000
    queues := [], swarms := [], lastSwarm := 0, pools := [], combs := [], streams := [], backing := [], images := []
    dying := false }

/-- A team of one group. -/
def fetchTeam : Team :=
  { ctx := 0, core := 0, launch := none, coord := (0, 0, 0), grid := (1, 1, 1), tdim := 1, spBase := 0, spSize := 4096
    barBase := 0, bars := [], relaunch := 0, faulted := false }

/-- The state with an instruction's words at the program counter of the one split of a group of 32 lanes on core 0, which
issues next. -/
def State.fetchReady (s : State) (w : Nat) : State :=
  { s with
    plat := { s.plat with inReset := false, ready := 0x8000FFFFFFFFFFFF }
    dev := { s.dev with
      mem := writeBytes (identityTables s.dev.mem) 0x10000 (wordBytes w)
      ctxs := s.dev.ctxs.set 0 fetchCtx
      teams := s.dev.teams.set 0 fetchTeam
      groups := s.dev.groups.set 0 (Group.fresh 0 0 0 0 32 320 0x10000 32 [] 0 0 0)
      icache := [], tlb := [], old := [] }
    agenda := [.issue 0 0 0] }

end Sys2Proof.Machine
end

