-- ==== Sys2Proof/Machine/Step.lean ====
section
/-! DEFINITION. The step of the machine. -/

namespace Sys2Proof.Machine

/-- One step: one event of the device or the world, or one instruction. -/
def step (s : State) : Host.Outcome State Fault Refusal := s.turn

/-- The state with an instruction placed where the next step fetches it. -/
def State.withFetchWord (s : State) (_nbits w : Nat) : State := s.fetchReady w

end Sys2Proof.Machine
end

