-- ==== Sys2Proof/Safety.lean ====
section
/-! DEFINITION. The terms the statements use: the state after an instruction whose split goes on, after one that waits or
traps, after an event of one split, and what it is for a step to go on and to leave bytes and registers alone. -/

namespace Sys2Proof.Machine

/-- The state after an instruction of the issuing view `x` that leaves the view `y`: its group's registers are those of
`y`, and its split is replaced by that of `y`; nothing else changes. -/
def State.after (s : State) (x y : View) : State :=
  s.withDev (s.dev.putGroup s.cur.key (y.g.put x.sp.low [y.sp]))

/-- The state after an instruction of the issuing view `x` that leaves the device as `d` and the view `y`: the splits of
the group that the device holds, with the issuing one replaced. -/
def State.afterOn (s : State) (d : Device) (x y : View) : State :=
  s.withDev (d.putGroup s.cur.key (({ y.g with splits := d.splitsAt s.cur.key y } : Group).put x.sp.low [y.sp]))

/-- The state after an event of a split of a group slot that leaves the device as it is and the split as `sp`. -/
def State.afterSplit (s : State) (core slot : Nat) (x : View) (sp : Split) : State :=
  s.withDev (s.dev.putGroup (slotKey core slot) (x.g.put x.sp.low [sp]))

/-- The state after an event of a split that leaves the device as `d` and the view `y`. -/
def State.afterParked (s : State) (core slot : Nat) (d : Device) (x y : View) : State :=
  s.withDev (d.putGroup (slotKey core slot)
    (({ y.g with splits := d.splitsAt (slotKey core slot) y } : Group).put x.sp.low [y.sp]))

end Sys2Proof.Machine

namespace Sys2Proof.Safety

open Sys2Proof.Machine

/-- A step that answers a next state. -/
def GoesOn (s : State) : Prop := ∃ t, step s = .next t

/-- Nothing of the machine has changed but the group of one slot: every byte of every memory, every other group, team and
context, and the platform are as before. -/
def OnlyGroup (key : Nat) (s t : State) : Prop :=
  t.plat = s.plat ∧ t.cur = s.cur ∧ t.agenda = s.agenda ∧ t.tick = s.tick ∧
    t.dev = { s.dev with groups := t.dev.groups } ∧ ∀ k, k ≠ key → t.dev.groups.get k = s.dev.groups.get k

/-- Every byte of every memory and of every scratchpad reads as before. -/
def SameBytes (s t : State) : Prop :=
  (∀ sp a, SMap.get (t.dev.space sp) a = SMap.get (s.dev.space sp) a) ∧ ∀ a, t.dev.spad.get a = s.dev.spad.get a

/-- Every vector register of a group reads in every lane as before, except where `p` holds of register and lane. -/
def SameVectors (p : Nat → Nat → Prop) (g h : Group) : Prop := ∀ r l, l < 96 → ¬ p r l → h.vreg r l = g.vreg r l

/-- Every stored scalar register of a group holds what it held, except those `p` picks. -/
def SameScalars (p : Nat → Prop) (g h : Group) : Prop := ∀ k, ¬ p k → h.s.get k = g.s.get k

/-- What a group holds beside its vector and scalar registers, its splits and its flags is as before: tensor handles,
modulo descriptors, codebooks, RNG states, rounding mode, seed, handler, priority and seal buffer. -/
def SameSpecials (g h : Group) : Prop :=
  h = { g with v := h.v, s := h.s, splits := h.splits, fx := h.fx, inflight := h.inflight }

end Sys2Proof.Safety
end

