-- ==== Sys2Proof/Certificates/Slice0/Obligations.lean ====
section
/-! DEFINITION. The statements for the provers. The namespace Sys2Proof.Spec holds what they are stated with: for each
family of instructions what the specification says it leaves, as a function of the issuing view. -/

open Sys2Proof Sys2Proof.Machine Sys2Proof.Safety

/-! ### Encoding -/

/-- Every well-formed instruction, an event of the device having no words, decodes back from its words, whatever follows them
(R58 to R76). -/
def Obligations.DecodeEncode : Prop :=
  ∀ (i : Instr) (rest : List W32), i.wf = true → encode i ≠ [] → decode (encode i ++ rest) = .ok i

/-- Whatever words decode are the words the encoder gives: the decoder leaves no bit unread (R61, R62). -/
def Obligations.EncodeDecode : Prop :=
  ∀ (ws : List W32) (i : Instr), decode ws = .ok i →
    i.wf = true ∧ encode i = ws.take (encode i).length ∧ encode i ≠ []

/-- Words written out from the encodings of R63, R65, R67, R71 and R74: NOP, `sadd s3, s1, s2`, `vadd.n32 v3, v1, v2`,
`ldg.w32 v3, [s10:11]`, `br -4`. -/
def Obligations.DecodeWords : Prop :=
  decode [0x0FFFFC00] = .ok .nop ∧
  decode [0x00810C0C] = .ok (.sadd 3 1 2) ∧
  decode [0x00080D09, 0x01000002] =
    .ok (.vadd { s := false, rm := .dflt, ty := .n32, ms := .none, vc := 0, vb := 2, md := 0, va := 1, vd := 3 }) ∧
  decode [0x00000F01, 0x0000008A] =
    .ok (.ldg { off := 0, ms := .none, scope := .grp, ord := .plain, xi := false, sc := 0, w := .w32, sa := 10, md := 0, vx := 0, vd := 3 }) ∧
  decode [0x00000081, 0x00FFFFFF] =
    .ok (.br { tsel := 0, off := 0xFFFFFF, all := false, cnd := 0, sb := 0, sa := 0, sd := 0 })

/-! ### The step -/

/-- The state in which a split takes its turn: time has moved, the split is the current one. -/
def Sys2Proof.Spec.turnOf (s : State) (rest : List Turn) (r : SplitRef) : State := { s.begin rest with cur := r }

/-- A step whose agenda begins with the issue of a split that may issue, and whose words at the program counter decode to
`i`, is `exec i` on the device the fetch leaves, then the record of the issue. A word that decodes to nothing runs the
instruction `illop`. The model's choices in it: log entry 3. -/
def Obligations.StepRunsDecoded : Prop :=
  ∀ (s : State) (core slot lane : Nat) (rest : List Turn) (x : View) (d : Device) (ws : List W32),
    let s0 := Sys2Proof.Spec.turnOf s rest { core, slot, lane }
    let s1 := s0.unstall x
    s.agenda = .issue core slot lane :: rest → s0.issuer = some x → s0.mayIssue x = true →
    s1.dev.fetch s1.plat s1.tick x.g.ctx core x.sp.pc = .ok (d, ws) →
    let i := match decode ws with
      | .ok i => i
      | .error _ => .illop
    step s = match exec i (s1.withDev d) with
      | .next t => .next (State.noteIssued i s1 t)
      | o => o

/-- A step whose agenda begins with an event is that event, once time has moved; with nothing due it issues the split that the
choice of R211 to R217 gives, or moves time alone. The model's choices in it: log entries 3, 4 and 54. -/
def Obligations.StepFollowsAgenda : Prop :=
  (∀ (s : State) (i : Instr) (rest : List Turn), s.agenda = .event i :: rest → isEvent i = true →
    step s = exec i (s.begin rest)) ∧
  (∀ (s : State), s.agenda = [] →
    (∀ r, s.choose = some r → step s = (s.begin []).issueAt r) ∧
    (s.choose = none → step s = .next (s.begin [])))

/-- No instruction and no event is refused in any state. -/
def Obligations.NothingRefused : Prop :=
  ∀ (i : Instr) (s : State) (r : Refusal), exec i s ≠ .refused r

/-- No word of erased or zero-filled memory runs: 0xFFFF_FFFF, and every word with OPC 0x00 and LEN 0b00 but 0x0FFF_FC00, which
is NOP, raise ILLOP when a split issues them, whatever follows; and no instruction has OPC 0xFF (R63). -/
def Obligations.ErasedMemoryIsIllop : Prop :=
  decode [0x0FFFFC00] = .ok .nop ∧
  (∀ (w : W32) (rest : List W32) (i : Instr), w.extractLsb' 2 8 = 0xFF → decode (w :: rest) ≠ .ok i) ∧
  ∀ (s : State) (core slot lane : Nat) (agenda : List Turn) (x y : View) (d : Device) (w : W32) (rest : List W32),
    let s1 := (Sys2Proof.Spec.turnOf s agenda { core, slot, lane }).unstall x
    s.agenda = .issue core slot lane :: agenda → (Sys2Proof.Spec.turnOf s agenda { core, slot, lane }).issuer = some x →
    (Sys2Proof.Spec.turnOf s agenda { core, slot, lane }).mayIssue x = true →
    s1.dev.fetch s1.plat s1.tick x.g.ctx core x.sp.pc = .ok (d, w :: rest) → (s1.withDev d).issuer = some y →
    (w = 0xFFFFFFFF ∨ (w.extractLsb' 2 8 = 0 ∧ w.extractLsb' 0 2 = 0 ∧ w ≠ 0x0FFFFC00)) →
    step s = match (s1.withDev d).close y ((d.raise s1.env s1.cur.key y.g y.sp { code := 0x01, lanes := y.sp.e })) with
      | .next t => .next (State.noteIssued .illop s1 t)
      | o => o

/-! ### Invariants -/

/-- The fuses of the package never change, part number, die revision and unique identity, and the minimum security version
never falls (R1, R412, R414). -/
def Obligations.FusesFixed : Prop :=
  ∀ (s t : State), step s = .next t →
    t.plat.part = s.plat.part ∧ t.plat.dieRev = s.plat.dieRev ∧ t.plat.uid = s.plat.uid ∧
      s.plat.svnMin.toNat ≤ t.plat.svnMin.toNat

/-- What every state of the platform keeps: a tripped device is held in reset, LOCK is set only under EN, the DTIME
increment lies in 9.9 to 10.1, no function is ready without an image that runs or before CP, none while a BOOT is under way,
and STATUS of attestation is a code. -/
def Sys2Proof.Spec.PlatformOk (p : Platform) : Prop :=
  (p.tripped = true → p.inReset = true) ∧ (p.pps.lock = true → p.pps.en = true) ∧
    42520176231 ≤ p.inc ∧ p.inc ≤ 43379169689 ∧ (p.fw = none → p.ready = 0) ∧
    (p.ready.getLsbD 63 = false → p.ready = 0) ∧ (p.booting.isSome = true → p.ready = 0) ∧ p.attStatus ≤ 3

/-- Every step keeps the platform's invariant (R410 to R417). -/
def Obligations.PlatformKept : Prop :=
  ∀ (s t : State), Sys2Proof.Spec.PlatformOk s.plat → step s = .next t → Sys2Proof.Spec.PlatformOk t.plat

/-- The lanes of a group's splits: E lies within L and L within the group's lanes, and no lane is in two splits. -/
def Sys2Proof.Spec.LanesOk (d : Device) : Prop :=
  ∀ p ∈ d.groups, (∀ sp ∈ p.2.splits, sp.e &&& ~~~sp.l = 0 ∧ sp.l &&& ~~~laneMask p.2.width = 0) ∧
    p.2.splits.Pairwise (fun a b => a.l &&& b.l = 0)

/-- Every step keeps the lanes of the splits within their groups, apart from each other, and each split's E within its L, where no
program has written over a split entry that lies off chip, and but for the two events that read splits back from memory: the end
of an entry's fill and the resumption of a saved team (R18, R22, R108, R112, R117, R123). -/
def Obligations.LanesKept : Prop :=
  ∀ (s t : State), Sys2Proof.Spec.LanesOk s.dev → (∀ e : Env, s.dev.entriesBack e = s.dev) →
    (∀ core slot lane rest, s.agenda ≠ .event (.splitFillDone core slot lane) :: rest) →
    (∀ image place rest, s.agenda ≠ .event (.teamResume image place) :: rest) →
    step s = .next t → Sys2Proof.Spec.LanesOk t.dev

/-- The platform's invariant holds after reset, and that of the splits' lanes.
The model's choices in it: log entry 2. -/
def Obligations.PlatformAtReset : Prop :=
  Sys2Proof.Spec.PlatformOk State.reset.plat ∧ Sys2Proof.Spec.LanesOk State.reset.dev

/-! ### Memory -/

/-- Bytes written are the bytes read, little-endian words included, and every byte outside them is unchanged; a store in a
space does the same however many lines it spans, touches no other space, and keeps every memory's canonical form (R3). -/
def Obligations.BytesReadBack : Prop :=
  (∀ (m : SMap 8) (a : Nat) (l : List Byte),
    readBytes (writeBytes m a l) a l.length = l ∧
    (∀ b, (b < a ∨ a + l.length ≤ b) → SMap.get (writeBytes m a l) b = SMap.get m b) ∧
    (∀ n x, readNat (writeBytes m a (natToBytes n x)) a n = x % 2 ^ (8 * n)) ∧
    (SMap.wf m = true → SMap.wf (writeBytes m a l) = true)) ∧
  (∀ (d : Device) (t : Space) (pa : Nat) (l : List Byte),
    let d' := d.storeLong t pa l (l.length / 128 + 2)
    readBytes (d'.space t) pa l.length = l ∧
    (∀ u b, (u ≠ t ∨ b < pa ∨ pa + l.length ≤ b) → SMap.get (d'.space u) b = SMap.get (d.space u) b) ∧
    (∀ u, SMap.wf (d.space u) = true → SMap.wf (d'.space u) = true))

/-! ### Scalar instructions (class 0) -/

namespace Sys2Proof.Spec

/-- SD := op(SA, SB). -/
def bin (op : W32 → W32 → W32) (d a b : SReg) : Option (Nat × (View → View)) :=
  some (4, fun x => x.setS d.toNat (op (x.s a.toNat) (x.s b.toNat)))

/-- SD := op(SA, immediate). -/
def imm (op : W32 → W32 → W32) (d a : SReg) (i : W32) : Option (Nat × (View → View)) :=
  some (4, fun x => x.setS d.toNat (op (x.s a.toNat) i))

/-- SD pair := op(SA pair, operand). -/
def bin64 (op : W64 → W64 → W64) (d a : SReg) (b : View → W64) : Option (Nat × (View → View)) :=
  some (4, fun x => x.setPair d.toNat (op (x.pair a.toNat) (b x)))

/-- The length of a scalar instruction in bytes, and what it does to the view (R63, R97 to R106); none for the others. -/
def scalarView : Instr → Option (Nat × (View → View))
  | .nop => some (4, id)
  | .smov d a => some (4, fun x => x.setS d.toNat (x.s a.toNat))
  | .smovPair d a => some (4, fun x => x.setPair d.toNat (x.pair a.toNat))
  | .smovImm d i => some (4, fun x => x.setS d.toNat (i.signExtend 32))
  | .sli f => some (12, fun x =>
      if f.fn = 0 then x.setS f.sd.toNat f.lit
      else if f.fn = 1 then x.setPair f.sd.toNat (f.lit.signExtend 64)
      else if f.fn = 2 then x.setPair f.sd.toNat (f.lit.setWidth 64)
      else x.setS (f.sd.toNat + 1) f.lit)
  | .sadd d a b => bin (· + ·) d a b
  | .saddImm d a i => imm (· + ·) d a (i.signExtend 32)
  | .ssub d a b => bin (· - ·) d a b
  | .ssubImm d a i => imm (· - ·) d a (i.signExtend 32)
  | .smul d a b => bin (· * ·) d a b
  | .smulImm d a i => imm (· * ·) d a (i.signExtend 32)
  | .smulhs d a b => bin mulHS d a b
  | .smulhsImm d a i => imm mulHS d a (i.signExtend 32)
  | .smulhn d a b => bin mulHN d a b
  | .smulhnImm d a i => imm mulHN d a (i.setWidth 32)
  | .sand d a b => bin (· &&& ·) d a b
  | .sandImm d a i => imm (· &&& ·) d a (i.signExtend 32)
  | .sor d a b => bin (· ||| ·) d a b
  | .sorImm d a i => imm (· ||| ·) d a (i.signExtend 32)
  | .sxor d a b => bin (· ^^^ ·) d a b
  | .sxorImm d a i => imm (· ^^^ ·) d a (i.signExtend 32)
  | .sandn d a b => bin (fun p q => p &&& ~~~q) d a b
  | .sandnImm d a i => imm (fun p q => p &&& ~~~q) d a (i.signExtend 32)
  | .sshl d a b => bin shl32 d a b
  | .sshlImm d a i => imm shl32 d a (i.setWidth 32)
  | .sshr d a b => bin shr32 d a b
  | .sshrImm d a i => imm shr32 d a (i.setWidth 32)
  | .ssar d a b => bin sar32 d a b
  | .ssarImm d a i => imm sar32 d a (i.setWidth 32)
  | .smin d a b => bin minS d a b
  | .sminImm d a i => imm minS d a (i.signExtend 32)
  | .smax d a b => bin maxS d a b
  | .smaxImm d a i => imm maxS d a (i.signExtend 32)
  | .sminn d a b => bin minN d a b
  | .sminnImm d a i => imm minN d a (i.setWidth 32)
  | .smaxn d a b => bin maxN d a b
  | .smaxnImm d a i => imm maxN d a (i.setWidth 32)
  | .sdivn d a b => bin divN d a b
  | .sdivnImm d a i => imm divN d a (i.setWidth 32)
  | .sremn d a b => bin remN d a b
  | .sremnImm d a i => imm remN d a (i.setWidth 32)
  | .scmp f => some (12, fun x => x.setS f.sd.toNat (boolWord (
      if f.xf.getLsbD 4 then
        cmpCond (f.xf.extractLsb' 0 4).toNat (x.pair f.sa.toNat) (if f.i then f.lit.signExtend 64 else x.pair f.sb.toNat)
      else cmpCond (f.xf.extractLsb' 0 4).toNat (x.s f.sa.toNat) (if f.i then f.lit else x.s f.sb.toNat))))
  | .sadd64 d a b => bin64 (· + ·) d a (fun x => x.pair b.toNat)
  | .sadd64Imm d a i => bin64 (· + ·) d a (fun _ => i.signExtend 64)
  | .ssub64 d a b => bin64 (· - ·) d a (fun x => x.pair b.toNat)
  | .ssub64Imm d a i => bin64 (· - ·) d a (fun _ => i.signExtend 64)
  | .slea fn d a b => bin64 (· + ·) d a (fun x => (x.s b.toNat).signExtend 64 <<< fn.toNat)
  | .sleaImm d a i => bin64 (· + ·) d a (fun _ => i.signExtend 64)
  | .spopc d a => some (4, fun x => x.setS d.toNat (BitVec.ofNat 32 (popcount 32 (x.s a.toNat).toNat)))
  | .spopcL d a => some (4, fun x => x.setS d.toNat (BitVec.ofNat 32 (popcount 64 (x.pair a.toNat).toNat)))
  | .sclz d a => some (4, fun x => x.setS d.toNat (BitVec.ofNat 32 (leadingZeros 32 (x.s a.toNat).toNat)))
  | .sclzL d a => some (4, fun x => x.setS d.toNat (BitVec.ofNat 32 (leadingZeros 64 (x.pair a.toNat).toNat)))
  | .sbfx f => some (12, fun x => x.setS f.sd.toNat
      (bitField (x.s f.sa.toNat) (f.xf.extractLsb' 0 5).toNat ((f.xf.extractLsb' 8 5).toNat + 1) (f.xf.getLsbD 15)))
  | .sbfi f => some (12, fun x => x.setS f.sd.toNat
      (bitInsert (x.s f.sd.toNat) (x.s f.sa.toNat) (f.xf.extractLsb' 0 5).toNat ((f.xf.extractLsb' 8 5).toNat + 1)))
  | .smask fn d a b => some (4, fun x => x.setTriple d.toNat (maskOp fn.toNat (x.triple a.toNat) (x.triple b.toNat)))
  | _ => none

/-- The scalar registers that a scalar instruction names as its destination: the first, and how many. -/
def scalarDest : Instr → Nat × Nat
  | .smov d _ | .smovImm d _ | .sadd d _ _ | .saddImm d _ _ | .ssub d _ _ | .ssubImm d _ _ | .smul d _ _
  | .smulImm d _ _ | .smulhs d _ _ | .smulhsImm d _ _ | .smulhn d _ _ | .smulhnImm d _ _ | .sand d _ _ | .sandImm d _ _
  | .sor d _ _ | .sorImm d _ _ | .sxor d _ _ | .sxorImm d _ _ | .sandn d _ _ | .sandnImm d _ _ | .sshl d _ _
  | .sshlImm d _ _ | .sshr d _ _ | .sshrImm d _ _ | .ssar d _ _ | .ssarImm d _ _ | .smin d _ _ | .sminImm d _ _
  | .smax d _ _ | .smaxImm d _ _ | .sminn d _ _ | .sminnImm d _ _ | .smaxn d _ _ | .smaxnImm d _ _ | .sdivn d _ _
  | .sdivnImm d _ _ | .sremn d _ _ | .sremnImm d _ _ | .spopc d _ | .spopcL d _ | .sclz d _ | .sclzL d _ => (d.toNat, 1)
  | .smovPair d _ | .sadd64 d _ _ | .sadd64Imm d _ _ | .ssub64 d _ _ | .ssub64Imm d _ _ | .slea _ d _ _ | .sleaImm d _ _ =>
    (d.toNat, 2)
  | .scmp f | .sbfx f | .sbfi f => (f.sd.toNat, 1)
  | .sli f => if f.fn = 0 then (f.sd.toNat, 1) else if f.fn = 3 then (f.sd.toNat + 1, 1) else (f.sd.toNat, 2)
  | .smask _ d _ _ => (3 * d.toNat, 3)
  | _ => (0, 0)

end Sys2Proof.Spec

/-- Every scalar instruction goes on, whatever E holds, with the view that the specification's operation gives and the
program counter past its words (R97 to R106). -/
def Obligations.ScalarCompletes : Prop :=
  ∀ (i : Instr) (n : Nat) (f : View → View) (s : State) (x : View),
    Sys2Proof.Spec.scalarView i = some (n, f) → s.issuer = some x → exec i s = .next (s.after x ((f x).next n))

namespace Sys2Proof.Spec

/-- A word of format S with I = 0 (R65): FN, SB, SA, SD and the opcode, LEN 0. -/
def wordR (opc : Nat) (fn : BitVec 3) (sb sa sd : SReg) : W32 := 0#1 ++ fn ++ sb ++ sa ++ sd ++ BitVec.ofNat 10 (4 * opc)

/-- A word of format S with I = 1 (R65). -/
def wordI (opc : Nat) (imm : BitVec 9) (sa sd : SReg) : W32 := 1#1 ++ imm ++ sa ++ sd ++ BitVec.ofNat 10 (4 * opc)

/-- How an entry of R99 reads imm9 (R98). -/
inductive ImmKind where
  | sext
  | zext
  | count
  deriving DecidableEq, Repr

/-- The immediate as operand B, where the entry takes it (R98). -/
def ImmKind.value (k : ImmKind) (i : BitVec 9) : Option W32 :=
  match k with
  | .sext => some (i.signExtend 32)
  | .zext => some (i.setWidth 32)
  | .count => if i.toNat < 32 then some (i.setWidth 32) else none

/-- The table of R99: opcode, immediate, and what SD is of SA and B. -/
def twoOperand : List (Nat × ImmKind × (W32 → W32 → W32 → Prop)) :=
  [ (0x03, .sext, fun a b r => r.toNat = (a.toNat + b.toNat) % 2 ^ 32),
    (0x04, .sext, fun a b r => (r.toNat : Int) = ((a.toNat : Int) - b.toNat) % 2 ^ 32),
    (0x05, .sext, fun a b r => r.toNat = a.toNat * b.toNat % 2 ^ 32),
    (0x06, .sext, fun a b r => r.toInt = a.toInt * b.toInt / 2 ^ 32),
    (0x07, .zext, fun a b r => r.toNat = a.toNat * b.toNat / 2 ^ 32),
    (0x08, .sext, fun a b r => ∀ k, k < 32 → r.getLsbD k = (a.getLsbD k && b.getLsbD k)),
    (0x09, .sext, fun a b r => ∀ k, k < 32 → r.getLsbD k = (a.getLsbD k || b.getLsbD k)),
    (0x0A, .sext, fun a b r => ∀ k, k < 32 → r.getLsbD k = (a.getLsbD k != b.getLsbD k)),
    (0x0B, .sext, fun a b r => ∀ k, k < 32 → r.getLsbD k = (a.getLsbD k && !b.getLsbD k)),
    (0x0C, .count, fun a b r => r.toNat = if 32 ≤ b.toNat then 0 else a.toNat * 2 ^ b.toNat % 2 ^ 32),
    (0x0D, .count, fun a b r => r.toNat = if 32 ≤ b.toNat then 0 else a.toNat / 2 ^ b.toNat),
    (0x0E, .count, fun a b r =>
      r.toInt = if 32 ≤ b.toNat then (if a.toInt < 0 then -1 else 0) else a.toInt / 2 ^ b.toNat),
    (0x0F, .sext, fun a b r => r.toInt = min a.toInt b.toInt),
    (0x10, .sext, fun a b r => r.toInt = max a.toInt b.toInt),
    (0x11, .zext, fun a b r => r.toNat = min a.toNat b.toNat),
    (0x12, .zext, fun a b r => r.toNat = max a.toNat b.toNat),
    (0x1B, .zext, fun a b r => r.toNat = if b.toNat = 0 then 0xFFFFFFFF else a.toNat / b.toNat),
    (0x1C, .zext, fun a b r => r.toNat = if b.toNat = 0 then a.toNat else a.toNat % b.toNat) ]

/-- The word `w` runs, whatever follows it, as an instruction that goes on past it with `f` done to the view. -/
def Runs (w : W32) (f : View → View → Prop) : Prop :=
  ∀ rest : List W32, ∃ i, decode (w :: rest) = .ok i ∧
    ∀ (s : State) (x : View), s.issuer = some x → ∃ y, f x y ∧ exec i s = .next (s.after x (y.next 4))

/-- The word `w` is no instruction, whatever follows it: a split that issues it raises ILLOP. -/
def IsIllop (w : W32) : Prop := ∀ (rest : List W32) (i : Instr), decode (w :: rest) ≠ .ok i

end Sys2Proof.Spec

/-- The two-operand scalar instructions from their words: each word of the table's opcode with I = 0 and FN = 0 takes B from
SB, each with I = 1 takes B from imm9, and SD becomes the table's result in integers; every other FN, and a count of 32 or
more, is no instruction (R98, R99). SMOV moves a register, a pair read before it is written, or imm9, and any other form of
its word is no instruction (R100). -/
def Obligations.ScalarOperations : Prop :=
  (∀ p ∈ Sys2Proof.Spec.twoOperand, ∀ (sd sa sb : SReg),
    Sys2Proof.Spec.Runs (Sys2Proof.Spec.wordR p.1 0 sb sa sd)
      (fun x y => ∃ r, p.2.2 (x.s sa.toNat) (x.s sb.toNat) r ∧ y = x.setS sd.toNat r) ∧
    (∀ fn, fn ≠ 0 → Sys2Proof.Spec.IsIllop (Sys2Proof.Spec.wordR p.1 fn sb sa sd)) ∧
    (∀ imm b, p.2.1.value imm = some b → Sys2Proof.Spec.Runs (Sys2Proof.Spec.wordI p.1 imm sa sd)
      (fun x y => ∃ r, p.2.2 (x.s sa.toNat) b r ∧ y = x.setS sd.toNat r)) ∧
    (∀ imm, p.2.1.value imm = none → Sys2Proof.Spec.IsIllop (Sys2Proof.Spec.wordI p.1 imm sa sd))) ∧
  (∀ (sd sa sb : SReg) (fn : BitVec 3) (imm : BitVec 9),
    Sys2Proof.Spec.Runs (Sys2Proof.Spec.wordR 0x01 0 0 sa sd) (fun x y => y = x.setS sd.toNat (x.s sa.toNat)) ∧
    (sd.toNat % 2 = 0 → sa.toNat % 2 = 0 → Sys2Proof.Spec.Runs (Sys2Proof.Spec.wordR 0x01 1 0 sa sd)
      (fun x y => y = (x.setS sd.toNat (x.s sa.toNat)).setS (sd.toNat + 1) (x.s (sa.toNat + 1)))) ∧
    Sys2Proof.Spec.Runs (Sys2Proof.Spec.wordI 0x01 imm 0 sd) (fun x y => y = x.setS sd.toNat (imm.signExtend 32)) ∧
    ((sd.toNat % 2 = 1 ∨ sa.toNat % 2 = 1 ∨ sb ≠ 0) → Sys2Proof.Spec.IsIllop (Sys2Proof.Spec.wordR 0x01 1 sb sa sd)) ∧
    (sb ≠ 0 → Sys2Proof.Spec.IsIllop (Sys2Proof.Spec.wordR 0x01 0 sb sa sd)) ∧
    (2 ≤ fn.toNat → Sys2Proof.Spec.IsIllop (Sys2Proof.Spec.wordR 0x01 fn sb sa sd)) ∧
    (sa ≠ 0 → Sys2Proof.Spec.IsIllop (Sys2Proof.Spec.wordI 0x01 imm sa sd)))

/-- The frame of the scalar instructions: nothing of the machine changes but the issuing group; of the group no vector
register, flag or special register, and no scalar register but the destination; the split keeps its lanes, and its exec mask
unless the destination falls on s60 to s62 (R17, R18, R97). -/
def Obligations.ScalarFrame : Prop :=
  ∀ (i : Instr) (n : Nat) (f : View → View) (s t : State) (x : View),
    Sys2Proof.Spec.scalarView i = some (n, f) → i.wf = true → s.issuer = some x → exec i s = .next t →
    OnlyGroup s.cur.key s t ∧ SameBytes s t ∧
    ∃ y : View, t = s.after x y ∧ y.g.v = x.g.v ∧ SameSpecials x.g y.g ∧ y.g.fx = x.g.fx ∧ y.g.inflight = x.g.inflight ∧
      SameScalars (fun k => (Sys2Proof.Spec.scalarDest i).1 ≤ k ∧
        k < (Sys2Proof.Spec.scalarDest i).1 + (Sys2Proof.Spec.scalarDest i).2) x.g y.g ∧
      y.sp.l = x.sp.l ∧ (y.sp.e ≠ x.sp.e → 60 ≤ (Sys2Proof.Spec.scalarDest i).1 + (Sys2Proof.Spec.scalarDest i).2 - 1)

/-- s60 to s62 read the split's own exec mask E, 32 lanes each. A write to one of them, also as a word of a pair or of t20, is
ANDed with the split's lanes L; it touches the group, and so the other splits, in nothing. With E and L within the group's
lanes, the bits at and beyond GWIDTH read zero after it. A scalar instruction makes it with E = 0 too. A write of the pair
s62:63 keeps its low word alone (R18). s63 reads zero and ignores writes; any other scalar register reads back what was
written, and no other one changes (R17). -/
def Obligations.ScalarRegisters : Prop :=
  (∀ (x : View) (v : W32) (u : W64) (m : Mask),
    (∀ j, j < 3 → x.s (60 + j) = maskWord x.sp.e j ∧
      (x.setS (60 + j) v).s (60 + j) = v &&& maskWord x.sp.l j ∧
      (x.setS (60 + j) v).g = x.g ∧ { (x.setS (60 + j) v).sp with e := x.sp.e } = x.sp ∧
      (x.sp.e &&& ~~~x.sp.l = 0 → ∀ q, q < 3 → q ≠ j → (x.setS (60 + j) v).s (60 + q) = x.s (60 + q)) ∧
      (x.sp.e &&& ~~~laneMask x.g.width = 0 → x.sp.l &&& ~~~laneMask x.g.width = 0 →
        (x.setS (60 + j) v).sp.e &&& ~~~laneMask x.g.width = 0)) ∧
    (x.sp.e &&& ~~~x.sp.l = 0 → (x.setPair 60 u).s 60 = u.extractLsb' 0 32 &&& maskWord x.sp.l 0 ∧
      (x.setPair 60 u).s 61 = u.extractLsb' 32 32 &&& maskWord x.sp.l 1 ∧ (x.setPair 60 u).s 62 = x.s 62) ∧
    x.setPair 62 u = x.setS 62 (u.extractLsb' 0 32) ∧
    (x.sp.l &&& ~~~laneMask x.g.width = 0 → x.setTriple 20 m = { x with sp := { x.sp with e := m &&& x.sp.l } }) ∧
    x.s 63 = 0 ∧ x.setS 63 v = x ∧
    (∀ k, k < 60 → (x.setS k v).s k = v ∧ (x.setS k v).sp = x.sp ∧ ∀ q, q < 60 → q ≠ k → (x.setS k v).s q = x.s q)) ∧
  (∀ (s : State) (x : View) (j : Nat) (a : SReg), s.issuer = some x → x.sp.e = 0 → j < 3 →
    exec (.smov (BitVec.ofNat 6 (60 + j)) a) s = .next (s.after x ((x.setS (60 + j) (x.s a.toNat)).next 4)))

/-! ### Control (class 1) -/

namespace Sys2Proof.Spec

/-- Whether a branch of format B is taken (R110). -/
def taken (x : View) : Instr → Option (FmtB × Bool)
  | .br f => some (f, true)
  | .brs f => some (f, brsCond f.cnd.toNat (x.s f.sa.toNat) (x.s f.sb.toNat))
  | .brany f => some (f, if f.all then decide (x.sp.e ≠ 0 ∧ x.sp.e &&& ~~~x.triple f.tsel.toNat = 0)
      else decide (x.sp.e &&& x.triple f.tsel.toNat ≠ 0))
  | _ => none

/-- An indirect transfer: the target, and the view with the link written (R114). -/
def indirectTo (x : View) : Instr → Option (W64 × View)
  | .jmp a => some (x.pair a.toNat, x)
  | .ret a => some (x.pair a.toNat, x)
  | .calli d a => some (x.pair a.toNat, x.setPair d.toNat (x.sp.pc + 4))
  | _ => none

/-- The ways of a routing branch, and its fall-through (R108, R110, R111). -/
def waysOf (x : View) : Instr → Option (List (W64 × Nat) × W64)
  | .brv f => some ([(relTarget x.sp.pc f.off, f.tsel.toNat)], x.sp.pc + 8)
  | .bway f => some (FmtW.ways f x.sp.pc, x.sp.pc + 12)
  | _ => none

end Sys2Proof.Spec

/-- BR, BRS, BRANY and CALL go on at the target pc + 4·off when taken, else past their words; CALL writes its link first.
JMP, CALLI and RET go on at the pair's address when it is a multiple of 4; else they raise MISALIGN with the target as ADDR
and nothing written (R59, R74, R110, R114). -/
def Obligations.BranchCompletes : Prop :=
  (∀ (s : State) (x : View), s.issuer = some x →
    (∀ i f b, Sys2Proof.Spec.taken x i = some (f, b) →
      exec i s = .next (s.after x (x.goto (if b then x.sp.pc + (f.off.signExtend 64 <<< 2) else x.sp.pc + 8)))) ∧
    (∀ f, exec (.call f) s =
      .next (s.after x ((x.setPair f.sd.toNat (x.sp.pc + 8)).goto (x.sp.pc + (f.off.signExtend 64 <<< 2)))))) ∧
  (∀ (s : State) (x y : View) (i : Instr) (a : W64), s.issuer = some x → Sys2Proof.Spec.indirectTo x i = some (a, y) →
    (a.toNat % 4 = 0 → exec i s = .next (s.after x (y.goto a))) ∧
    (a.toNat % 4 ≠ 0 → exec i s =
      s.close x (s.dev.raise s.env s.cur.key x.g x.sp { code := 0x03, addr := a, lanes := x.sp.e })))

/-- BRV and BWAY go on with the split routed: every way's lanes are the active ones of its triple that no lower way took,
the lane sets of the new splits are disjoint and together the old one, and each split's exec mask lies in its lanes
(R108, R111). The model's choices in it: log entry 45. -/
def Obligations.RoutingCompletes : Prop :=
  ∀ (s : State) (x : View) (i : Instr) (ways : List (W64 × Nat)) (ft : W64),
    s.issuer = some x → Sys2Proof.Spec.waysOf x i = some (ways, ft) → x.sp.e &&& ~~~x.sp.l = 0 →
    exec i s = .next (s.withDev (s.dev.putGroup s.cur.key (x.g.put x.sp.low (x.route ways ft)))) ∧
    (x.route ways ft).foldl (fun m sp => m ||| sp.l) 0 = x.sp.l ∧
    (x.route ways ft).foldl (fun m sp => m ||| sp.e) 0 = x.sp.e ∧
    List.Pairwise (fun a b : Split => a.l &&& b.l = 0 ∧ a.pc ≠ b.pc) (x.route ways ft) ∧
    (∀ sp ∈ x.route ways ft, sp.e &&& ~~~sp.l = 0 ∧ ∀ l, sp.e.getLsbD l = true →
      sp.pc = ((ways.find? (fun w => (x.triple w.2).getLsbD l)).map Prod.fst).getD ft)

/-- SYNCS parks its split; YIELD parks it past its words, until the others have issued or 64 cycles have passed, or until a
count of cycles. EXIT takes the active lanes out of the split and EXIT.ALL every lane; the rest go on past it; a group whose
last split has gone ends, or, sealed, begins its commit; a handling split that ends gives its scalars and the group back
(R116 to R118, R123, R223). The model's choices in it: log entry 45. -/
def Obligations.ParkAndExitComplete : Prop :=
  (∀ (s : State) (x : View), s.issuer = some x →
    exec .syncs s = .next (s.after x { x with sp := { x.sp with park := .syncs } }) ∧
    exec .yield s = .next (s.after x { (x.next 4) with
      sp := { (x.next 4).sp with park := .yieldAll s.plat.cycles.toNat x.others } }) ∧
    (∀ n : BitVec 9, n ≠ 0 → exec (.yieldImm n) s = .next (s.after x { (x.next 4) with
      sp := { (x.next 4).sp with park := .yieldUntil (s.plat.cycles.toNat + n.toNat) } })) ∧
    exec (.yieldImm 0) s = exec .yield s) ∧
  (∀ (s : State) (x : View), s.issuer = some x →
    (x.sp.l &&& ~~~x.sp.e ≠ 0 → exec .exit s = .next (s.after x { x with
      sp := { x.sp with l := x.sp.l &&& ~~~x.sp.e, e := 0, pc := x.sp.pc + 4 } })) ∧
    (∀ i, (i = .exit ∧ x.sp.l &&& ~~~x.sp.e = 0) ∨ i = .exitAll → x.sp.handling = false →
      (∃ y ∈ x.g.splits, y.low ≠ x.sp.low) →
      exec i s = .next (s.withDev (s.dev.putGroup s.cur.key (x.g.put x.sp.low [])))) ∧
    (∀ i d1 l d, (i = .exit ∧ x.sp.l &&& ~~~x.sp.e = 0) ∨ i = .exitAll → x.sp.handling = true →
      (∃ y ∈ x.g.splits, y.low ≠ x.sp.low) → s.dev.frameRead s.env s.cur.key (x.g.put x.sp.low []) 64 32 = .ok (d1, l) →
      d1.released s.env s.cur.key ((x.g.put x.sp.low []).restore (savedWords l)) = .ok d → exec i s = .next (s.withDev d)) ∧
    (∀ i d, (i = .exit ∧ x.sp.l &&& ~~~x.sp.e = 0) ∨ i = .exitAll →
      (∀ y ∈ x.g.splits, y.low = x.sp.low) → x.g.sealBuf = none →
      s.dev.endGroup s.env s.cur.key (x.g.put x.sp.low []) .normal = .ok d → exec i s = .next (s.withDev d)) ∧
    (∀ i, (i = .exit ∧ x.sp.l &&& ~~~x.sp.e = 0) ∨ i = .exitAll →
      (∀ y ∈ x.g.splits, y.low = x.sp.low) → x.g.sealBuf.isSome = true →
      exec i s = .next (s.withDev (s.dev.putGroup s.cur.key { x.g.put x.sp.low [] with phase := .committing, splits := [] }))))

/-- SMOVR moves a special register to a scalar, and SMOVW a scalar or a literal to a special register. What they read: lanes
per group, the group's place in its team and the team's in its grid, the sizes of both, the number of lane 0, core and cluster, the split's lanes, context, swarm and its deadline, the two
priorities, flags with those still in flight, rounding mode, seed, the clock words and the words of handles, the fixed words
of q0 among those of the codebooks; FX, RMODE, SEED, the modulo descriptors and the words of q1 to q7 read back what was
written, and a write of one of those words leaves the others (R29 to R34, R39, R120). -/
def Obligations.SpecialRegisters : Prop :=
  (∀ (s : State) (x : View) (f : FmtSI), s.issuer = some x →
    exec (.smovr f) s = .next (s.after x
      (((readSpecial s.plat s.cur s.dev x f.index).1.setS f.sd.toNat (readSpecial s.plat s.cur s.dev x f.index).2).next 12)) ∧
    exec (.smovw f) s = .next (s.after x
      (({ x with g := writeSpecial x.g f.index (if f.i then f.lit else x.s f.sa.toNat) } : View).next 12))) ∧
  (∀ (p : Platform) (r : SplitRef) (d : Device) (x : View) (w : W32),
    (readSpecial p r d x 0x000).2 = BitVec.ofNat 32 x.g.width ∧
    (readSpecial p r d x 0x002).2 = BitVec.ofNat 32 x.g.gid ∧
    (let t := d.teamOf x.g;
      (readSpecial p r d x 0x003).2 = BitVec.ofNat 32 t.coord.1 ∧ (readSpecial p r d x 0x004).2 = BitVec.ofNat 32 t.coord.2.1 ∧
      (readSpecial p r d x 0x005).2 = BitVec.ofNat 32 t.coord.2.2 ∧ (readSpecial p r d x 0x006).2 = BitVec.ofNat 32 t.tdim ∧
      (readSpecial p r d x 0x007).2 = BitVec.ofNat 32 t.grid.1 ∧ (readSpecial p r d x 0x008).2 = BitVec.ofNat 32 t.grid.2.1 ∧
      (readSpecial p r d x 0x009).2 = BitVec.ofNat 32 t.grid.2.2) ∧
    (readSpecial p r d x 0x00A).2 = BitVec.ofNat 32 r.core ∧
    (readSpecial p r d x 0x00B).2 = BitVec.ofNat 32 (r.core / 8) ∧
    (readSpecial p r d x 0x010).2 = p.cycles.extractLsb' 0 32 ∧
    (readSpecial p r d (readSpecial p r d x 0x010).1 0x011).2 = p.cycles.extractLsb' 32 32 ∧
    (readSpecial p r d x 0x012).2 = p.dtime.extractLsb' 0 32 ∧
    (readSpecial p r d (readSpecial p r d x 0x012).1 0x013).2 = p.dtime.extractLsb' 32 32 ∧
    (readSpecial p r d x 0x014).2 = BitVec.ofNat 32 x.g.swarm ∧
    (readSpecial p r d x 0x019).2 = BitVec.ofNat 32 x.g.ctx ∧
    (readSpecial p r d x 0x020).2 = (x.g.fx ||| orFlags x.g.inflight).setWidth 32 ∧
    (readSpecial p r d { x with g := writeSpecial x.g 0x020 w } 0x020).2 = w &&& 0x7F ∧
    (readSpecial p r d { x with g := writeSpecial x.g 0x021 w } 0x021).2 = w &&& 7 ∧
    (readSpecial p r d { x with g := writeSpecial x.g 0x022 w } 0x022).2 = w ∧
    (readSpecial p r d { x with g := writeSpecial x.g 0x023 w } 0x023).2 = w ∧
    (readSpecial p r d x 0x001).2 = BitVec.ofNat 32 (x.g.gid * x.g.width) ∧
    (∀ k, k < 3 → (readSpecial p r d x (0x00C + k)).2 = x.sp.l.extractLsb' (32 * k) 32) ∧
    (d.deadlineOf x.g.ctx 4097 x.g.swarm = 0 →
      (readSpecial p r d x 0x016).2 = 0xFFFFFFFF ∧ (readSpecial p r d x 0x017).2 = 0xFFFFFFFF) ∧
    (∀ t : W64, t ≠ 0 → d.deadlineOf x.g.ctx 4097 x.g.swarm = t.toNat →
      (readSpecial p r d x 0x017).2 ++ (readSpecial p r d x 0x016).2 = t) ∧
    (readSpecial p r d x 0x018).2 = BitVec.ofNat 32 (x.g.prio % 64 + d.effPrio r.key x.g % 64 * 256) ∧
    (∀ m, (0x040 ≤ m ∧ m < 0x050) ∨ (0x068 ≤ m ∧ m < 0x0A0) →
      (readSpecial p r d { x with g := writeSpecial x.g m w } m).2 = w ∧
      (∀ n, (0x040 ≤ n ∧ n < 0x050) ∨ (0x060 ≤ n ∧ n < 0x0A0) ∨ (0x100 ≤ n ∧ n < 0x180) → n ≠ m →
        (readSpecial p r d { x with g := writeSpecial x.g m w } n).2 = (readSpecial p r d x n).2)) ∧
    (∀ k, k < 8 → (readSpecial p r d x (0x060 + k)).2 = ([0x3F000000, 0x3FC03F80, 0x40404000, 0x40C04080, 0xBF00FFFF, 0xBFC0BF80,
      0xC040C000, 0xC0C0C080] : List W32).getD k 0) ∧
    (∀ k j, k < 16 → j < 8 → (readSpecial p r d x (0x100 + 8 * k + j)).2 = (x.g.h.get k).extractLsb' (32 * j) 32))

/-! ### Traps (R79, R121 to R124) -/

/-- Taking a trap in a group with a handler: the frame holds the trap's addresses, its code, the lanes that met it, the exec
mask and s52 to s59; the handling split runs on at TVEC with the frame's address in s52:53, ADDR in s54:55, the CODE word in
s56 and LANES in t19; the group is marked in-handler. TRAP, a word that is no instruction, a failed fetch and an instruction with a
vector register that its group does not hold (code 0x02, LANES = E) go on at the
handler so, with no other register written and nothing stored but the frame, when the group has one and its frame can be written (R13, R14, R61,
R121, R122). The model's choices in it: log entries 16 and 43. -/
def Obligations.TrapEnters : Prop :=
  (∀ (d : Device) (e : Env) (key : Nat) (g : Group) (sp : Split) (t : TrapReq) (d1 : Device),
    t.code ≠ 0x0D → g.sealBuf = none → g.inHandler = false → g.tvec ≠ 0 →
    d.write e.plat e.tick g.ctx (Agent.copier (key / 48)) false (d.blockAt g)
      (frameBytes sp.pc (if 0x80 ≤ t.code then sp.pc + 4 else sp.pc) t.addr
        (BitVec.ofNat 64 (t.code % 256 + t.detail % 256 * 256)) t.lanes sp.e g.saved) = .ok d1 →
    ∃ h : View, d.raise e key g sp t = .ok (d1.putGroup key (h.g.put sp.low [h.sp])) ∧
      h.g.inHandler = true ∧ h.sp.handling = true ∧ h.sp.pc = g.tvec ∧ h.sp.l = sp.l ∧ h.sp.e = sp.e ∧
      h.pair 52 = d.blockAt g ∧ h.pair 54 = t.addr ∧
      h.s 56 = BitVec.ofNat 32 (t.code % 256 + t.detail % 256 * 256) ∧
      h.triple 19 = t.lanes &&& laneMask g.width ∧
      h.g.v = g.v ∧ SameScalars (fun k => 52 ≤ k ∧ k < 60) g h.g) ∧
  (∀ (s : State) (x : View) (i : Instr) (t : TrapReq) (d1 : Device), s.issuer = some x →
    ((∃ k : BitVec 7, i = .trap k ∧ t = { code := 0x80 + k.toNat, lanes := x.sp.e }) ∨
      (i = .illop ∧ t = { code := 0x01, lanes := x.sp.e }) ∨
      (∃ c det a, c ≠ 0x0D ∧ i = .fetchFault c det a ∧ t = { code := c, detail := det, addr := a, lanes := x.sp.e }) ∨
      (x.g.inRange i.spans = false ∧ t = { code := 0x02, lanes := x.sp.e })) →
    x.g.sealBuf = none → x.g.inHandler = false → x.g.tvec ≠ 0 →
    s.dev.write s.plat s.tick x.g.ctx (Agent.copier (s.cur.key / 48)) false (s.dev.blockAt x.g)
      (frameBytes x.sp.pc (if 0x80 ≤ t.code then x.sp.pc + 4 else x.sp.pc) t.addr
        (BitVec.ofNat 64 (t.code % 256 + t.detail % 256 * 256)) t.lanes x.sp.e x.g.saved) = .ok d1 →
    ∃ h : View, exec i s = .next (s.withDev (d1.putGroup s.cur.key (h.g.put x.sp.low [h.sp]))) ∧
      h.g.inHandler = true ∧ h.sp.pc = x.g.tvec ∧ h.pair 52 = s.dev.blockAt x.g ∧ h.pair 54 = t.addr ∧
      h.s 56 = BitVec.ofNat 32 (t.code % 256 + t.detail % 256 * 256) ∧ h.triple 19 = t.lanes &&& laneMask x.g.width ∧
      h.g.v = x.g.v ∧ SameScalars (fun k => 52 ≤ k ∧ k < 60) x.g h.g)

/-- A trap raised by a split while another handles one waits, and the split waits with it. A trap of the handling split, or
any trap with TVEC zero, ends the group: for a grid group with an error record and a faulted launch, for a task with its
future FAULTED; CANCEL with TVEC zero ends it as cancelled (R121, R124). The model's choices in it: log entry 43. -/
def Obligations.TrapsElsewhere : Prop :=
  (∀ (d : Device) (e : Env) (key : Nat) (g : Group) (sp : Split) (t : TrapReq),
    t.code ≠ 0x0D → g.sealBuf = none → g.inHandler = true → sp.handling = false →
    d.raise e key g sp t =
      .ok (d.putGroup key { g.put sp.low [{ sp with park := .running, trapped := true }] with waiting := g.waiting ++ [t.waiting sp] })) ∧
  (∀ (d : Device) (e : Env) (key : Nat) (g : Group) (sp : Split) (t : TrapReq),
    t.code ≠ 0x0D → g.sealBuf = none → (g.inHandler = true → sp.handling = true) →
    (g.tvec = 0 ∨ g.inHandler = true) →
    d.raise e key g sp t =
      (if t.code = 0x0E ∧ g.tvec = 0 then d.endGroup e key g .cancelled
      else match g.task with
        | some _ => d.endGroup e key g (.faulted (faultValue t.code sp.pc false))
        | none => ((d.faultLaunch g).report e { ErrRec.blank 1 e.now with
            code := t.code, detail := t.detail, ctx := g.ctx, slot := key % 48, core := key / 48, addr := t.addr, pc := sp.pc }).endGroup
              e key g .requeued))

/-- TRET in a handler, with no trap waiting: s52 to s59, the exec mask (ANDed with the split's lanes) and the program counter
come from the frame, the mark goes, and every split is released; outside a handler it raises ILLOP (R123).
The model's choices in it: log entry 43. -/
def Obligations.TrapReturns : Prop :=
  ∀ (s : State) (x : View), s.issuer = some x →
    (x.g.inHandler = false →
      exec .tret s = s.close x (s.dev.raise s.env s.cur.key x.g x.sp { code := 0x01, lanes := x.sp.e })) ∧
    (∀ d1 bytes, x.g.inHandler = true → x.g.waiting = [] →
      s.dev.frameRead s.env s.cur.key x.g 0 96 = .ok (d1, bytes) →
      let at_ (o n : Nat) : Nat := bytesToNat ((bytes.drop o).take n)
      at_ 8 8 % 4 = 0 →
      exec .tret s = .next (s.withDev (d1.putGroup s.cur.key { x.g with
        s := (x.g.restore ((List.range 8).map (fun k => BitVec.ofNat 32 (at_ (64 + 4 * k) 4)))).s
        inHandler := false
        splits := settleSplits ((x.g.splits.map (fun y => if y.low = x.sp.low then
            { x.sp with e := BitVec.ofNat 96 (at_ 48 12) &&& x.sp.l, pc := BitVec.ofNat 64 (at_ 8 8), handling := false }
          else y)).map (fun y => { y with handling := false })) })))

/-! ### Vector instructions (classes 2 to 4) -/

namespace Sys2Proof.Spec

/-- The word and flags that each active lane of an instruction of format V writes to VD, each computed from that lane
alone or from the registers as they stood (R133 to R167); none for the instructions of another shape. -/
def laneResult : Instr → Option (FmtV × (View → Nat → W32 × Flags))
  | .vmov f => some (f, fun x l => (if f.s then x.s f.vb.toNat else x.v f.va.toNat l, 0))
  | .vadd f => some (f, fun x l => map2 f.ty (intBin f.ty (· + ·) (· + ·)) (x.v f.va.toNat l) (x.opB f l))
  | .vsub f => some (f, fun x l => map2 f.ty (intBin f.ty (· - ·) (· - ·)) (x.v f.va.toNat l) (x.opB f l))
  | .vmul f => some (f, fun x l => map2 f.ty (intBin f.ty (· * ·) (· * ·)) (x.v f.va.toNat l) (x.opB f l))
  | .vmulh f => some (f, fun x l => (if f.ty = .n32 then mulHN (x.v f.va.toNat l) (x.opB f l) else mulHS (x.v f.va.toNat l) (x.opB f l), 0))
  | .vmad f => some (f, fun x l => map3 f.ty (intMad f.ty) (x.v f.va.toNat l) (x.opB f l) (x.v f.vc.toNat l))
  | .vand f => some (f, fun x l => (x.v f.va.toNat l &&& x.opB f l, 0))
  | .vor f => some (f, fun x l => (x.v f.va.toNat l ||| x.opB f l, 0))
  | .vxor f => some (f, fun x l => (x.v f.va.toNat l ^^^ x.opB f l, 0))
  | .vandn f => some (f, fun x l => (x.v f.va.toNat l &&& ~~~x.opB f l, 0))
  | .vshl f => some (f, fun x l => (shl32 (x.v f.va.toNat l) (x.opB f l), 0))
  | .vshr f => some (f, fun x l => (shr32 (x.v f.va.toNat l) (x.opB f l), 0))
  | .vsar f => some (f, fun x l => (sar32 (x.v f.va.toNat l) (x.opB f l), 0))
  | .vmin f => some (f, fun x l => map2 f.ty (fun a b => (intPick f.ty false a b, 0)) (x.v f.va.toNat l) (x.opB f l))
  | .vmax f => some (f, fun x l => map2 f.ty (fun a b => (intPick f.ty true a b, 0)) (x.v f.va.toNat l) (x.opB f l))
  | .vabs f => some (f, fun x l => map1 f.ty (fun a => (intAbs f.ty a, 0)) (x.v f.va.toNat l))
  | .vsel f => some (f, fun x l => (if (x.triple f.vc.toNat).getLsbD l then x.v f.va.toNat l else x.opB f l, 0))
  | .vpopc f => some (f, fun x l => (BitVec.ofNat 32 (popcount 32 (x.v f.va.toNat l).toNat), 0))
  | .vclz f => some (f, fun x l => (BitVec.ofNat 32 (leadingZeros 32 (x.v f.va.toNat l).toNat), 0))
  | .vshuf f => some (f, fun x l => (x.v f.va.toNat ((shufLane f.md.toNat x.g.width l (x.opB f l).toNat).getD l), 0))
  | .vbcst f => some (f, fun x _ =>
      (x.laneValue f.va.toNat (if f.md = 1 then lowLane (x.active f.ms) else (x.s f.vb.toNat).toNat), 0))
  | .vlane f => some (f, fun x l => (BitVec.ofNat 32 (if f.md = 0 then l else if f.md = 1 then x.g.gid * x.g.width + l
      else ((lanesOf (x.active f.ms)).filter (fun k => decide (k < l))).length), 0))
  | .vscan f => some (f, fun x l => scanOf f.ty f.md.toNat (x.mode f.rm)
      (((lanesOf (x.active f.ms)).filter (fun k => if f.md = 1 then decide (k < l) else decide (k ≤ l))).map
        (fun k => x.v f.va.toNat k)))
  | .vpack f => some (f, fun x l =>
      (packWord f.ty (packHalf f.ty (f.md = 1) (x.v f.va.toNat l) ++ packHalf f.ty (f.md = 1) (x.opB f l)), 0))
  | .vunpk f => some (f, fun x l =>
      (bitField (x.v f.va.toNat l) (f.ty.bits * (f.md.toNat % 8)) f.ty.bits (f.md.getLsbD 3), 0))
  | .vfadd f => some (f, fun x l =>
      map2 f.ty (floatBin f.ty (x.mode f.rm) (addX (x.mode f.rm))) (x.v f.va.toNat l) (x.opB f l))
  | .vfsub f => some (f, fun x l =>
      map2 f.ty (floatBin f.ty (x.mode f.rm) (fun a b => addX (x.mode f.rm) a b.negate)) (x.v f.va.toNat l) (x.opB f l))
  | .vfmul f => some (f, fun x l => map2 f.ty (floatBin f.ty (x.mode f.rm) XVal.mul) (x.v f.va.toNat l) (x.opB f l))
  | .vfdiv f => some (f, fun x l => map2 f.ty (floatBin f.ty (x.mode f.rm) XVal.div) (x.v f.va.toNat l) (x.opB f l))
  | .vfma f => some (f, fun x l =>
      map3 f.ty (floatFma f.ty (x.mode f.rm) false) (x.v f.va.toNat l) (x.opB f l) (x.v f.vc.toNat l))
  | .vfms f => some (f, fun x l =>
      map3 f.ty (floatFma f.ty (x.mode f.rm) true) (x.v f.va.toNat l) (x.opB f l) (x.v f.vc.toNat l))
  | .vfmin f => some (f, fun x l => map2 f.ty (fun a b => (floatPick f.ty false a b, 0)) (x.v f.va.toNat l) (x.opB f l))
  | .vfmax f => some (f, fun x l => map2 f.ty (fun a b => (floatPick f.ty true a b, 0)) (x.v f.va.toNat l) (x.opB f l))
  | .vfabs f => some (f, fun x l => map1 f.ty (fun a => (floatSign f.ty false a, 0)) (x.v f.va.toNat l))
  | .vfneg f => some (f, fun x l => map1 f.ty (fun a => (floatSign f.ty true a, 0)) (x.v f.va.toNat l))
  | .vfsqrt f => some (f, fun x l => map1 f.ty (floatSqrt f.ty (x.mode f.rm)) (x.v f.va.toNat l))
  | .vfclass f => some (f, fun x l => map1 f.ty (fun a => (floatClass f.ty a, 0)) (x.v f.va.toNat l))
  | .vfadda f => some (f, fun x l => map2 f.ty (floatAdda f.ty (x.mode f.rm)) (x.v f.va.toNat l) (x.opB f l))
  | .vfdot2 f => some (f, fun x l => reduce (x.mode f.rm) (some (x.v f.vc.toNat l))
      (List.zipWith XVal.mul ((subs f.ty (x.v f.va.toNat l)).map f.ty.value) ((subs f.ty (x.opB f l)).map f.ty.value)))
  | .vfscale f => some (f, fun x l =>
      map1 f.ty (fun a => deliver f.ty (x.mode f.rm) (scaleX (x.opB f l).toInt (f.ty.value a))) (x.v f.va.toNat l))
  | .vfrnd f => some (f, fun x l => map1 f.ty (floatRnd f.ty (x.mode f.rm) (f.md = 1)) (x.v f.va.toNat l))
  | .vrcp f => some (f, fun x l => x.special .rcp f l)
  | .vrsq f => some (f, fun x l => x.special .rsq f l)
  | .vexp2 f => some (f, fun x l => x.special .exp2 f l)
  | .vlog2 f => some (f, fun x l => x.special .log2 f l)
  | .vsin f => some (f, fun x l => x.special .sin f l)
  | .vcos f => some (f, fun x l => x.special .cos f l)
  | .vtanh f => some (f, fun x l => x.special .tanh f l)
  | .vsigm f => some (f, fun x l => x.special .sigm f l)
  | .vmkabs f => some (f, fun _ _ => (packWord f.ty ((List.range f.ty.lanes).map (fun _ => f.ty.absentCode.getD 0)), 0))
  | _ => none

/-- The bit and flags that each active lane of an instruction of format V writes to the triple VD (R136, R154, R167). -/
def laneBit : Instr → Option (FmtV × (View → Nat → Bool × Flags))
  | .vcmp f => some (f, fun x l => (intCmp f.ty f.md.toNat (x.v f.va.toNat l).toNat (x.opB f l).toNat, 0))
  | .vfcmp f => some (f, fun x l =>
      floatCmp f.md.toNat (Ty.f32.value (x.v f.va.toNat l).toNat) (Ty.f32.value (x.opB f l).toNat))
  | .visabs f => some (f, fun x l =>
      (if f.md = 0 then (subs f.ty (x.v f.va.toNat l)).any (fun c => !(x.g.elem f.ty f.vb.toNat c).present)
        else (subs f.ty (x.v f.va.toNat l)).all (fun c => !(x.g.elem f.ty f.vb.toNat c).present), 0))
  | _ => none

/-- The word, flags and RNG state that each active lane of a conversion or VRAND leaves (R156 to R158, R163). -/
def laneDraw : Instr → Option (FmtV × (View → Nat → W32 × Flags × W64))
  | .vcvt f => (Ty.ofCode f.md.toNat).map (fun src => (f, fun x l => x.cvtLane f src l))
  | .vcvts f => some (f, fun x l => x.cvtsLane f l)
  | .vrand f => some (f, fun x l => (randWord f.ty (rngStep (x.g.rngOf l)), 0, rngStep (x.g.rngOf l)))
  | _ => none

/-- The flags in flight of `h` are those of `g` with `f` raised (R33). -/
def Raised (f : Flags) (g h : Group) : Prop := h.fx = g.fx ∧ h.inflight = g.inflight ++ (if f = 0 then [] else [f])

end Sys2Proof.Spec

/-- A vector instruction of format V goes on past its words; each active lane of VD holds the lane's result and every other
register, lane, scalar and special register what it held; the lanes' flags are raised (R127, R128, R133 to R167).
The model's choices in it: log entries 7, 15 and 52. -/
def Obligations.VectorCompletes : Prop :=
  ∀ (i : Instr) (f : FmtV) (r : View → Nat → W32 × Flags) (s : State) (x : View),
    Sys2Proof.Spec.laneResult i = some (f, r) → s.issuer = some x → x.g.inRange i.spans = true →
    ∃ y : View, exec i s = .next (s.after x (y.next 8)) ∧ y.sp = x.sp ∧ y.g.s = x.g.s ∧ SameSpecials x.g y.g ∧
      (∀ l, l < 96 → (x.active f.ms).getLsbD l = true → y.v f.vd.toNat l = (r x l).1) ∧
      SameVectors (fun q l => q = f.vd.toNat ∧ (x.active f.ms).getLsbD l = true) x.g y.g ∧
      Sys2Proof.Spec.Raised (orFlags ((lanesOf (x.active f.ms)).map (fun l => (r x l).2))) x.g y.g

/-- VCMP, VFCMP and VISABS go on with the triple VD written in the active lanes alone, zero at and beyond GWIDTH; with no
lane active nothing is written (R128, R130, R136, R154, R167). The model's choices in it: log entry 52. -/
def Obligations.CompareCompletes : Prop :=
  ∀ (i : Instr) (f : FmtV) (r : View → Nat → Bool × Flags) (s : State) (x : View),
    Sys2Proof.Spec.laneBit i = some (f, r) → i.wf = true → s.issuer = some x → x.g.inRange i.spans = true →
    ∃ y : View, exec i s = .next (s.after x (y.next 8)) ∧ y.g.v = x.g.v ∧ SameSpecials x.g y.g ∧
      (x.active f.ms = 0 → y = x) ∧ (f.vd.toNat ≠ 20 → y.sp = x.sp) ∧
      (∀ l, l < 96 → x.active f.ms ≠ 0 → f.vd.toNat ≠ 20 →
        (y.triple f.vd.toNat).getLsbD l = ((laneMask x.g.width).getLsbD l &&
          (if (x.active f.ms).getLsbD l then (r x l).1 else (x.triple f.vd.toNat).getLsbD l))) ∧
      (∀ l, l < 96 → x.active f.ms ≠ 0 → f.vd.toNat = 20 →
        y.sp.e.getLsbD l = (x.sp.l.getLsbD l && (laneMask x.g.width).getLsbD l &&
          (if (x.active f.ms).getLsbD l then (r x l).1 else x.sp.e.getLsbD l))) ∧
      SameScalars (fun k => 3 * f.vd.toNat ≤ k ∧ k < 3 * f.vd.toNat + 3) x.g y.g ∧
      Sys2Proof.Spec.Raised (orFlags ((lanesOf (x.active f.ms)).map (fun l => (r x l).2))) x.g y.g

/-- VCVT, VCVTS and VRAND go on with each active lane's word in VD and its RNG state advanced as it draws (R51, R156 to
R158, R163). -/
def Obligations.ConvertCompletes : Prop :=
  ∀ (i : Instr) (f : FmtV) (r : View → Nat → W32 × Flags × W64) (s : State) (x : View),
    Sys2Proof.Spec.laneDraw i = some (f, r) → s.issuer = some x → x.g.inRange i.spans = true →
    ∃ y : View, exec i s = .next (s.after x (y.next 8)) ∧ y.sp = x.sp ∧ y.g.s = x.g.s ∧
      SameSpecials { x.g with rng := y.g.rng } y.g ∧
      (∀ l, l < 96 → (x.active f.ms).getLsbD l = true →
        y.v f.vd.toNat l = (r x l).1 ∧ y.g.rngOf l = (r x l).2.2) ∧
      SameVectors (fun q l => q = f.vd.toNat ∧ (x.active f.ms).getLsbD l = true) x.g y.g ∧
      (∀ l, (x.active f.ms).getLsbD l = false → y.g.rngOf l = x.g.rngOf l) ∧
      Sys2Proof.Spec.Raised (orFlags ((lanesOf (x.active f.ms)).map (fun l => (r x l).2.1))) x.g y.g

/-- VLI and VBFX go on past their three words, with the literal, or the literal's field of VA, in every active lane of VD.
VSEED goes on with every active lane's RNG state set, from VB:VA or from the pair's seed and the lane's number in the team,
never to zero. VV2S moves one lane's value to a scalar, with no lane active none, and VROWMAP writes each active lane its row or its offset in the row,
all ones where no row holds it, raising RP on a row pointer that falls or a count past GWIDTH − 1 (R138, R143, R145, R147,
R164). -/
def Obligations.LaneMovesComplete : Prop :=
  (∀ (i : Instr) (f : FmtVI) (r : View → Nat → W32) (s : State) (x : View),
    ((i = .vli f ∧ r = fun _ _ => f.lit) ∨
      (i = .vbfx f ∧ r = fun x l => bitField (x.v f.v.va.toNat l) (f.lit.extractLsb' 0 5).toNat
        ((f.lit.extractLsb' 8 5).toNat + 1) (f.lit.getLsbD 16))) →
    s.issuer = some x → x.g.inRange i.spans = true →
    ∃ y : View, exec i s = .next (s.after x (y.next 12)) ∧ y.sp = x.sp ∧ y.g = { x.g with v := y.g.v } ∧
      (∀ l, l < 96 → (x.active f.v.ms).getLsbD l = true → y.v f.v.vd.toNat l = r x l) ∧
      SameVectors (fun q l => q = f.v.vd.toNat ∧ (x.active f.v.ms).getLsbD l = true) x.g y.g) ∧
  (∀ (f : FmtV) (s : State) (x : View), s.issuer = some x → x.g.inRange (Instr.vseed f).spans = true →
    ∃ y : View, exec (.vseed f) s = .next (s.after x (y.next 8)) ∧ y.sp = x.sp ∧ y.g = { x.g with rng := y.g.rng } ∧
      (∀ l, l < 96 → (x.active f.ms).getLsbD l = true →
        y.g.rngOf l = nonzeroState (if f.md = 0 then x.v f.vb.toNat l ++ x.v f.va.toNat l
          else seedMix (x.pair f.vb.toNat) (x.g.gid * x.g.width + l)) ∧ y.g.rngOf l ≠ 0) ∧
      (∀ l, (x.active f.ms).getLsbD l = false → y.g.rngOf l = x.g.rngOf l)) ∧
  (∀ (f : FmtV) (s : State) (x : View), s.issuer = some x →
    (x.g.inRange (Instr.vv2s f).spans = true → exec (.vv2s f) s =
      .next (s.after x ((if x.active f.ms = 0 then x else x.setS f.vd.toNat
        (x.laneValue f.va.toNat (if f.md = 1 then lowLane (x.active f.ms) else f.vb.toNat))).next 8))) ∧
    (x.g.inRange (Instr.vrowmap f).spans = true →
      let rc := min (x.s f.vc.toNat).toNat (x.g.width - 1)
      let p : Nat → Nat := fun r => (x.v f.va.toNat r).toNat
      ∃ y : View, exec (.vrowmap f) s = .next (s.after x (y.next 8)) ∧ y.sp = x.sp ∧ y.g.s = x.g.s ∧
        SameSpecials x.g y.g ∧
        (∀ l, l < 96 → (x.active f.ms).getLsbD l = true →
          y.v f.vd.toNat l = match rowOf p rc (x.s f.vb.toNat + BitVec.ofNat 32 l).toNat with
            | some r => BitVec.ofNat 32 (if f.md = 0 then r else (x.s f.vb.toNat + BitVec.ofNat 32 l).toNat - p r)
            | none => 0xFFFFFFFF) ∧
        SameVectors (fun q l => q = f.vd.toNat ∧ (x.active f.ms).getLsbD l = true) x.g y.g ∧
        Sys2Proof.Spec.Raised (if x.active f.ms ≠ 0 ∧ (x.g.width - 1 < (x.s f.vc.toNat).toNat ∨
          ∃ r, r < rc ∧ p (r + 1) < p r) then fRP else 0) x.g y.g))

/-! ### Matrix instructions (class 5) -/

namespace Sys2Proof.Spec

/-- What an instruction of class 5 does to the view in a group whose split has every lane active, or, for those with no mask
rule, in any (R190 to R200). -/
def matrixView : Instr → Option (Bool × (View → View))
  | .mma f => some (true, fun x => x.writeRows f.xd.toNat 8 (x.product f false))
  | .mmas f => some (true, fun x => x.writeRows f.xd.toNat 8 (x.product f true))
  | .mtrans f => some (true, fun x => { x with
      g := (x.transposed f).foldl (fun g p => g.setRunElem f.ty f.vd.toNat p.1 p.2.1 p.2.2) x.g })
  | .aclr f => some (false, fun x => x.writeRows f.xd.toNat 8 (x.eachRow (fun i l =>
      { row := i, lane := l, value := if f.xop = 4 then 0 else 0xFFFFFFFF, count := 0, flags := 0 })))
  | .amerge f => some (false, fun x => x.merged f)
  | .adrain f => some (false, fun x =>
      ({ x with g := (lanesOf x.sp.e).foldl (fun g l => (g.writeRun f.ta f.xa.toNat l (x.drainLane f l).1).setRng l
        (x.drainLane f l).2.2) x.g } : View).raiseFlags (orFlags ((lanesOf x.sp.e).map (fun l => (x.drainLane f l).2.1))))
  | .vdot8 f => some (false, fun x => x.writeRows f.vd.toNat 2 ((lanesOf (x.active f.ms)).map (x.dotLane f)))
  | .vdot4 f => some (false, fun x => x.writeRows f.vd.toNat 2 ((lanesOf (x.active f.ms)).map (x.dotLane f)))
  | .vred f => some (false, fun x =>
      let r := if f.md.getLsbD 0 then 1 else 0
      let p := (x.redTerms f (x.active f.ms)).filter (fun t => t.1.present)
      x.writeRows f.vd.toNat 2 ((lanesOf (x.active f.ms)).map (fun l =>
        let u := accumulate (x.mode f.rm) (x.g.rowValue f.vd.toNat r l) (x.g.rowCount f.vd.toNat 2 r l)
          (p.map (fun t => (t.1, 0))) ((p.map Prod.snd).foldl (· + ·) 0)
        { row := r, lane := l, value := u.1, count := u.2.1, flags := u.2.2 })))
  | _ => none

end Sys2Proof.Spec

/-- Every instruction of class 5 goes on with its effect; MMA, MMAS and MTRANS need every lane of the group active: with none
they have no effect, and with some but not all they raise PARTMASK (R190, R191, R195 to R200).
The model's choices in it: log entry 52. -/
def Obligations.MatrixCompletes : Prop :=
  ∀ (i : Instr) (full : Bool) (f : View → View) (s : State) (x : View),
    Sys2Proof.Spec.matrixView i = some (full, f) → s.issuer = some x → x.g.inRange i.spans = true →
    (full = false ∨ (x.sp.e = laneMask x.g.width ∧ x.sp.e ≠ 0) → exec i s = .next (s.after x ((f x).next 8))) ∧
    (full = true → x.sp.e = 0 → exec i s = .next (s.after x (x.next 8))) ∧
    (full = true → x.sp.e ≠ 0 → x.sp.e ≠ laneMask x.g.width →
      exec i s = s.close x (s.dev.raise s.env s.cur.key x.g x.sp { code := 0x06, lanes := x.sp.e }))

/-- The reduction of R47: with no present term the accumulator stays bit for bit and no flag is raised; an ABSENT term
counts for nothing, wherever it stands. -/
def Obligations.AbsentIsIdentity : Prop :=
  ∀ (mode : RMode) (c : W32) (l m : List (XVal × Flags)) (f : Flags),
    reduce mode (some c) [] = (c, 0) ∧
    reduce mode (some c) (l ++ (.absent, f) :: m) = reduce mode (some c) (l ++ m) ∧
    ∀ a b : XVal, (a = .absent ∨ b = .absent) → (a.mul b).1 = .absent ∧ (addX mode a b) = (.absent, 0)

/-! ### Memory instructions (class 6 and QLD) -/

namespace Sys2Proof.Spec

/-- A global load: its order and scope, the alignment and length of each lane's access, the lanes' addresses, and what the
bytes make of the view (R171, R175, R176, R180). -/
structure Load where
  ord : MemOrd
  scope : Scope
  align : Nat
  n : Nat
  reqs : List (Nat × Int)
  put : View → List (Nat × List Byte) → View

/-- The global loads. -/
def loadOf (x : View) : Instr → Option Load
  | .ldg f => some { ord := f.ord, scope := f.scope, align := widthBytes f.w, n := widthBytes f.w
                     reqs := x.globalReqs f (widthBytes f.w) (x.active f.ms)
                     put := fun y l => y.putLanes f.vd.toNat (f.md = 1) l }
  | .ldu f => some { ord := f.ord, scope := f.scope, align := widthBytes f.w, n := widthBytes f.w
                     reqs := [(lowLane (x.active f.ms), (x.pair f.sa.toNat).toNat + f.off.toInt * widthBytes f.w)]
                     put := fun y l =>
                       let v := bytesToNat ((l.map Prod.snd).headD [])
                       if f.w = .w64 then y.setPair f.vd.toNat (BitVec.ofNat 64 v) else y.setS f.vd.toNat (BitVec.ofNat 32 v) }
  | .ldfrag f => if f.md.getLsbD 3 then none else some
                   { ord := f.ord, scope := f.scope, align := 16, n := if f.md.getLsbD 0 then 64 else 16
                     reqs := (lanesOf (x.active f.ms)).map (fun l =>
                       (l, fragAddr f (x.pair f.sa.toNat).toNat (x.s (f.sa.toNat + 2)).toNat l))
                     put := fun y l => y.putLanes f.vd.toNat false l }
  | .hld f => some { ord := f.ord, scope := f.scope, align := 32, n := 32
                     reqs := [(lowLane (x.active f.ms), x.descAddr f)]
                     put := fun y l => { y with g := { y.g with
                       h := y.g.h.set f.md.toNat (handleOf (BitVec.ofNat 256 (bytesToNat ((l.map Prod.snd).headD [])))) } } }
  | .qld f => if x.g.sealBuf.isSome then none else some
                   { ord := f.ord, scope := f.scope, align := 32, n := 32
                     reqs := [(lowLane (x.active f.ms), x.descAddr f)]
                     put := fun y l => { y with g := { y.g with
                       q := y.g.q.set f.md.toNat (BitVec.ofNat 256 (bytesToNat ((l.map Prod.snd).headD []))) } } }
  | .tld f =>
    match denseOf (x.g.h.get f.md.toNat) with
    | none => none
    | some t =>
      if (x.g.h.get f.md.toNat).getLsbD 57 || widthBits f.w ≠ max 8 t.fmt.bits
          || !((lanesOf (x.active f.ms)).map (x.coord f)).all t.inside
          || (t.fmt.bits = 4 && (lanesOf (x.active f.ms)).any (fun l => t.linear (x.coord f l) % 2 ≠ 0)) then none
      else some { ord := f.ord, scope := f.scope, align := widthBytes f.w, n := widthBytes f.w
                  reqs := (lanesOf (x.active f.ms)).map (fun l =>
                    (l, t.base + (t.linear (x.coord f l) * t.fmt.bits) / 8))
                  put := fun y l => y.putLanes f.vd.toNat false l }
  | _ => none

/-- The predicate of a memory instruction, and its length in bytes. -/
def predOf : Instr → Pred × Nat
  | .ldg f | .stg f | .lds f | .sts f | .ldsm f | .stsm f | .ldfrag f | .ldu f | .stsc f | .bestmax f | .tld f | .tst f
  | .hld f | .qld f | .ccount f | .fence f | .cache f | .disc f => (f.ms, 8)
  | .atomg f | .atoms f | .redg f | .citer f => (f.m.ms, 12)
  | _ => (.none, 8)

/-- The checks of a load's lanes (R168, R169). -/
def Load.checks (L : Load) (s : State) (x : View) : Checked Run :=
  sumChecks (L.reqs.map (fun p =>
    (p.1, s.dev.laneRun s.env x.g.ctx (Agent.core s.cur.core) .load true L.align L.n p.2)))

/-- The device once a load's order has acted and its pages are touched. -/
def Load.touched (L : Load) (s : State) (x : View) (l : List (Nat × Run)) : Device :=
  l.foldl (fun d p => d.touchAll (Agent.core s.cur.core) x.g.ctx .load p.2)
    (s.dev.order s.cur.core (if isAcq L.ord then .acq else .plain) L.scope)

/-- An address lies in the page table entry through which a lane of some checked accesses translates. -/
def InLeaf (l : List (Nat × Run)) (a : Nat) : Prop := ∃ p ∈ l, ∃ t ∈ p.2, t.1.leaf.at_ ≤ a ∧ a < t.1.leaf.at_ + 8

/-- An address of a space lies in the bytes that a lane of some checked accesses covers. -/
def InRun (l : List (Nat × Run)) (sp : Space) (a : Nat) : Prop :=
  ∃ p ∈ l, ∃ t ∈ p.2, t.1.space = sp ∧ t.1.pa ≤ a ∧ a < t.1.pa + t.2.1

end Sys2Proof.Spec

/-- A lane's address of a global access that is not a multiple of the alignment is MISALIGN, and one with a bit of [63:57]
set is PROT, in that order, with the lane's address, exact before it is cut to 64 bits. On a page the TLB does not hold: an unmapped page is PAGEFLT; a missing
permission PROT; OWN, HOSTOWN; a PRIV page of another core, PRIVMISS; a page not resident waits; else the access goes to the
page's place (R168, R384, R385, R387). The model's choices in it: log entry 16. -/
def Obligations.AddressChecks : Prop :=
  (∀ (d : Device) (e : Env) (ctx : Nat) (ag : Agent) (k : Access) (linkOk : Bool) (align n : Nat) (a : Int),
    (a % align ≠ 0 → d.laneRun e ctx ag k linkOk align n a = .error (.fault 0x03 0 (BitVec.ofInt 64 a) d.touches)) ∧
    (a % align = 0 → (a < 0 ∨ 2 ^ 57 ≤ a) → d.laneRun e ctx ag k linkOk align n a = .error (.fault 0x05 0 (BitVec.ofInt 64 a) d.touches)) ∧
    (a % align = 0 → 0 ≤ a → a < 2 ^ 57 →
      d.laneRun e ctx ag k linkOk align n a = d.probeN e.plat e.tick ctx ag k linkOk (BitVec.ofInt 64 a) n)) ∧
  (∀ (d : Device) (p : Platform) (tick ctx : Nat) (ag : Agent) (linkOk : Bool) (va : W64) (c : Ctx),
    va.extractLsb' 57 7 = 0 → d.ctxs.get ctx = some c → (∀ u ∈ ag.tlbs, d.tlbFind u ctx va.toNat = none) →
    (∀ y ∈ d.tables, y.ctx ≠ ctx) → d.poison = [] → p.ready.extractLsb' 0 32 = 0xFFFFFFFF#32 →
    (∀ det, walkFrom d.mem p.part.capacity va.toNat 4 c.ptroot.toNat = .error det →
      ∀ k, d.probe p tick ctx ag k linkOk va = .fault 0x04 det) ∧
    (∀ l, walkFrom d.mem p.part.capacity va.toNat 4 c.ptroot.toNat = .ok l →
      (l.entry.getLsbD 2 = false → d.probe p tick ctx ag .load linkOk va = .fault 0x05 0) ∧
      (l.entry.getLsbD 3 = false → d.probe p tick ctx ag .store linkOk va = .fault 0x05 0) ∧
      (l.entry.getLsbD 4 = false → d.probe p tick ctx ag .fetch linkOk va = .fault 0x05 0) ∧
      (l.entry.getLsbD 2 = true → pteTgt l.entry = 0 →
        (pteOwn l.entry = true → d.probe p tick ctx ag .load linkOk va = .fault 0x12 0) ∧
        (pteOwn l.entry = false → pteCls l.entry = 2 → ag.own ≠ some (pteCore l.entry) →
          d.probe p tick ctx ag .load linkOk va = .fault 0x0F 0) ∧
        (pteOwn l.entry = false → pteCls l.entry ≠ 2 → l.entry.getLsbD 1 = false →
          d.probe p tick ctx ag .load linkOk va = .page) ∧
        (pteOwn l.entry = false → pteCls l.entry ≠ 2 → l.entry.getLsbD 1 = true →
          ∃ x, d.probe p tick ctx ag .load linkOk va = .ok x ∧ x.space = .dev ∧
            x.pa = pteAddr l.entry + va.toNat % l.size))))

/-- A load whose lanes all pass their checks and meet no poison goes on past its words: the lanes' registers hold the bytes
that the group reads at their addresses, its own buffered stores included; and no byte of memory changes beyond what its
order and the accessed bits of its pages change. A load one of whose lanes fails its checks raises the lowest code met, with
nothing loaded (R168, R169, R171, R174 to R176, R180, R181).
The model's choices in it: log entries 5, 13, 16 and 26. -/
def Obligations.LoadCompletes : Prop :=
  ∀ (i : Instr) (s : State) (x : View) (L : Sys2Proof.Spec.Load),
    s.issuer = some x → x.g.inRange i.spans = true → x.active (Sys2Proof.Spec.predOf i).1 ≠ 0 →
    Sys2Proof.Spec.loadOf x i = some L →
    (∀ (l : List (Nat × Run)), L.checks s x = .ok l → (∀ p ∈ l, (L.touched s x l).poisonRun (Agent.core s.cur.core) p.2 = false) →
      ∃ (d : Device) (y : View),
        exec i s = .next (s.afterOn d x ((L.put y (l.map (fun p =>
          (p.1, (L.touched s x l).groupRead (Agent.core s.cur.core) x.g p.2)))).next 8)) ∧
        y.g = { x.g with touchedPriv := y.g.touchedPriv } ∧ y.sp = { x.sp with spin := y.sp.spin } ∧
        (∀ sp a, SMap.get (d.space sp) a = SMap.get ((L.touched s x l).space sp) a) ∧ d.spad = s.dev.spad ∧
        (isAcq L.ord = false → ∀ sp a, (sp = .dev → ¬ Sys2Proof.Spec.InLeaf l a) →
          SMap.get (d.space sp) a = SMap.get (s.dev.space sp) a)) ∧
    (∀ t, L.checks s x = .trap t →
      exec i s = s.close x (s.dev.raise s.env s.cur.key x.g x.sp
        (match i with
          | .ldu _ | .hld _ | .qld _ => { t with lanes := x.sp.e }
          | _ => t)))

/-- LDS, LDSM and LDFRAG from scratchpad go on with the bytes of the team's scratchpad at the lanes' offsets; nothing but
registers changes. STS and STSM go on with every lane's bytes in the team's scratchpad, higher-numbered lanes last; no byte
of memory changes, and no byte of any scratchpad outside the lanes' places (R171 to R173, R176, R226). -/
def Obligations.ScratchCompletes : Prop :=
  (∀ (f : FmtM) (s : State) (x : View) (l : List (Nat × Nat)),
    s.issuer = some x → x.active f.ms ≠ 0 →
    (x.g.inRange (Instr.lds f).spans = true →
      s.dev.spadChecks x (widthBytes f.w) (x.spadReqs f (widthBytes f.w) (x.active f.ms)) = .ok l →
      exec (.lds f) s = .next (s.afterOn s.dev x ((loadSpad s.cur s.dev x f (f.md = 1) (widthBytes f.w) l).next 8))) ∧
    (x.g.inRange (Instr.ldsm f).spans = true →
      let base := (x.g.wBase.get (f.md.extractLsb' 0 3).toNat).toNat
      let size := (x.g.wSize.get (f.md.extractLsb' 0 3).toNat).toNat
      wValid (s.dev.teamOf x.g) base size = true →
      s.dev.spadChecks x (widthBytes f.w) (x.moduloReqs f base size (widthBytes f.w) (x.active f.ms)) = .ok l →
      exec (.ldsm f) s = .next (s.afterOn s.dev x
        (((loadSpad s.cur s.dev x f false (widthBytes f.w) l).moduloStep f size (widthBytes f.w)).next 8))) ∧
    (x.g.inRange (Instr.ldfrag f).spans = true → f.md.getLsbD 3 = true →
      let n := if f.md.getLsbD 0 then 64 else 16
      sumChecks ((lanesOf (x.active f.ms)).map (fun k => (k, spadRun16 (s.dev.teamOf x.g) n
        (fragAddr f (x.s f.sa.toNat).toNat (x.s (f.sa.toNat + 1)).toNat k)))) = .ok l →
      exec (.ldfrag f) s = .next (s.afterOn s.dev x ((loadSpad s.cur s.dev x f false n l).next 8)))) ∧
  (∀ (f : FmtM) (s : State) (x : View) (l : List (Nat × Nat)),
    s.issuer = some x → x.active f.ms ≠ 0 → s.dev.writeFull x.g = false →
    let n := widthBytes f.w
    let d := storeSpad s.cur s.dev x f n l
    let base := (x.g.wBase.get (f.md.extractLsb' 0 3).toNat).toNat
    let size := (x.g.wSize.get (f.md.extractLsb' 0 3).toNat).toNat
    (x.g.inRange (Instr.sts f).spans = true → s.dev.spadChecks x n (x.spadReqs f n (x.active f.ms)) = .ok l →
      exec (.sts f) s = .next (s.afterOn d x (x.counted.next 8))) ∧
    (x.g.inRange (Instr.stsm f).spans = true → wValid (s.dev.teamOf x.g) base size = true →
      s.dev.spadChecks x n (x.moduloReqs f base size n (x.active f.ms)) = .ok l →
      exec (.stsm f) s = .next (s.afterOn d x ((x.counted.moduloStep f size n).next 8))) ∧
    (∀ sp, d.space sp = s.dev.space sp) ∧
    (∀ a, (∀ p ∈ l, a < (s.dev.teamOf x.g).spadAt s.cur.core p.2 ∨ (s.dev.teamOf x.g).spadAt s.cur.core p.2 + n ≤ a) →
      d.spad.get a = s.dev.spad.get a))

namespace Sys2Proof.Spec

/-- A global store: its order and scope, the length of each lane's access, and the lanes' addresses and bytes (R171, R175,
R181). -/
structure Store where
  ord : MemOrd
  scope : Scope
  n : Nat
  reqs : List (Nat × Int × List Byte)

/-- The global stores. -/
def storeOf (x : View) : Instr → Option Store
  | .stg f => some { ord := f.ord, scope := f.scope, n := widthBytes f.w
                     reqs := (x.globalReqs f (widthBytes f.w) (x.active f.ms)).map (fun p =>
                       (p.1, p.2, x.regBytes f.vd.toNat p.1 (widthBytes f.w))) }
  | .stsc f => some { ord := f.ord, scope := f.scope, n := widthBytes f.w
                      reqs := [(lowLane (x.active f.ms), (x.pair f.sa.toNat).toNat + f.off.toInt * widthBytes f.w,
                        natToBytes (widthBytes f.w)
                          (if f.w = .w64 then (x.pair f.vd.toNat).toNat else (x.s f.vd.toNat).toNat))] }
  | .tst f =>
    match denseOf (x.g.h.get f.md.toNat) with
    | none => none
    | some t =>
      if (x.g.h.get f.md.toNat).getLsbD 57 || widthBits f.w ≠ max 8 t.fmt.bits
          || !((lanesOf (x.active f.ms)).map (x.coord f)).all t.inside
          || (t.fmt.bits = 4 && (lanesOf (x.active f.ms)).any (fun l => t.linear (x.coord f l) % 2 ≠ 0)) then none
      else some { ord := f.ord, scope := f.scope, n := widthBytes f.w
                  reqs := (lanesOf (x.active f.ms)).map (fun l =>
                    (l, t.base + (t.linear (x.coord f l) * t.fmt.bits) / 8, x.regBytes f.vd.toNat l (widthBytes f.w))) }
  | _ => none

/-- The checks of a store's lanes: each lane's checked access, with its address and bytes. -/
def Store.checks (S : Store) (s : State) (x : View) : Checked (Run × Int × List Byte) :=
  sumChecks (S.reqs.map (fun p => (p.1, (s.dev.laneRun s.env x.g.ctx (Agent.core s.cur.core) .store true S.n S.n p.2.1).map
    (fun r => (r, p.2.1, p.2.2)))))

end Sys2Proof.Spec

/-- A store of an open group whose lanes all pass their checks goes on past its words with each lane's bytes written, in an
unspecified order where lanes meet in memory, its write counted; and, where it releases nothing, no byte of memory changes
but those of the lanes' translated addresses and the accessed and dirty bits of their pages. A store, an atomic or a BESTMAX
one of whose lanes fails its checks raises the lowest code met, with nothing written (R169, R171, R173, R175, R181, R255).
The model's choices in it: log entries 5, 13, 16 and 51. -/
def Obligations.StoreCompletes : Prop :=
  (∀ (i : Instr) (s : State) (x : View) (S : Sys2Proof.Spec.Store) (l : List (Nat × Run × Int × List Byte)),
    s.issuer = some x → x.g.inRange i.spans = true → x.active (Sys2Proof.Spec.predOf i).1 ≠ 0 →
    Sys2Proof.Spec.storeOf x i = some S → S.checks s x = .ok l → s.dev.writeFull x.g = false → x.g.sealBuf = none →
    let q := laneOrder s.tick (fun p : Nat × Run × Int × List Byte => runKey p.2.1) l
    let ro : MemOrd := if isRel S.ord then .rel else .plain
    let d := (q.foldl (fun d p => d.storeLane (Agent.core s.cur.core) x.g.ctx p.2.1 p.2.2.2)
      (s.dev.order s.cur.core ro S.scope)).order s.cur.core ro S.scope
    exec i s = .next (s.afterOn d x ((x.counted.notePriv (q.any (fun p => runPriv p.2.1))).next 8)) ∧
    (isRel S.ord = false → ∀ sp a, ¬ Sys2Proof.Spec.InRun (q.map (fun p => (p.1, p.2.1))) sp a →
      (sp = .dev → ¬ Sys2Proof.Spec.InLeaf (q.map (fun p => (p.1, p.2.1))) a) →
      SMap.get (d.space sp) a = SMap.get (s.dev.space sp) a)) ∧
  (∀ (s : State) (x : View) (t : TrapReq), s.issuer = some x →
    (∀ (i : Instr) (S : Sys2Proof.Spec.Store), x.g.inRange i.spans = true → x.active (Sys2Proof.Spec.predOf i).1 ≠ 0 →
      Sys2Proof.Spec.storeOf x i = some S → S.checks s x = .trap t →
      exec i s = s.close x (s.dev.raise s.env s.cur.key x.g x.sp (match i with
        | .stsc _ => { t with lanes := x.sp.e }
        | _ => t))) ∧
    (∀ (f : FmtMI), x.active f.m.ms ≠ 0 →
      sumChecks ((x.globalReqs f.m (widthBytes f.m.w) (x.active f.m.ms)).map (fun p =>
        (p.1, s.dev.laneRun s.env x.g.ctx (Agent.core s.cur.core) .atomic (linkAtomic f.m.md.toNat) (widthBytes f.m.w)
          (widthBytes f.m.w) p.2))) = .trap t →
      (x.g.sealBuf = none → x.g.inRange (Instr.atomg f).spans = true →
        exec (.atomg f) s = s.close x (s.dev.raise s.env s.cur.key x.g x.sp t)) ∧
      (x.g.inRange (Instr.redg f).spans = true → exec (.redg f) s = s.close x (s.dev.raise s.env s.cur.key x.g x.sp t))) ∧
    (∀ (f : FmtM), x.active f.ms ≠ 0 → x.g.inRange (Instr.bestmax f).spans = true →
      sumChecks ((x.globalReqs f 16 (x.active f.ms)).map (fun p =>
        (p.1, s.dev.laneRun s.env x.g.ctx (Agent.core s.cur.core) .atomic false 16 16 p.2))) = .trap t →
      exec (.bestmax f) s = s.close x (s.dev.raise s.env s.cur.key x.g x.sp t)) ∧
    (∀ (f : FmtMI), x.active f.m.ms ≠ 0 → x.g.inRange (Instr.atoms f).spans = true →
      s.dev.spadChecks x (widthBytes f.m.w) (x.spadReqs f.m (widthBytes f.m.w) (x.active f.m.ms)) = .trap t →
      exec (.atoms f) s = s.close x (s.dev.raise s.env s.cur.key x.g x.sp t)))

/-- A store of a sealed group whose seal buffer has room goes on with its bytes buffered and memory unchanged but for the
accessed bits of its pages; the buffer notes whether a store releases at .dev or .sys and the pages it is to write, whose dirty
bits the commit sets (R174, R233, R251, R259). The model's choices in it: log entries 17 and 51. -/
def Obligations.SealedStoreBuffers : Prop :=
  ∀ (i : Instr) (s : State) (x : View) (S : Sys2Proof.Spec.Store) (l : List (Nat × Run × Int × List Byte)) (b : SealBuf),
    s.issuer = some x → x.g.inRange i.spans = true → x.active (Sys2Proof.Spec.predOf i).1 ≠ 0 →
    Sys2Proof.Spec.storeOf x i = some S → S.checks s x = .ok l → s.dev.writeFull x.g = false → x.g.sealBuf = some b →
    let q := laneOrder s.tick (fun p : Nat × Run × Int × List Byte => runKey p.2.1) l
    let b' := (bufferStores b (q.map (fun p => (p.2.1, p.2.2.2)))).notePages (Agent.core s.cur.core) x.g.ctx S.ord S.scope
      (q.map (fun p => p.2.1))
    let d := q.foldl (fun d p => d.touchAll (Agent.core s.cur.core) x.g.ctx .load p.2.1) s.dev
    b'.units ≤ sealLimit → d.sealUsed s.cur.core + (b'.units - b.units) ≤ sealUnits →
    (∃ y : View, exec i s = .next (s.afterOn d x (y.next 8)) ∧ y.g.sealBuf = some b' ∧ y.g.writes = x.g.writes + 1 ∧
      y.g.v = x.g.v ∧ y.g.s = x.g.s ∧ y.sp = x.sp) ∧
    ∀ sp a, (sp = .dev → ¬ Sys2Proof.Spec.InLeaf (q.map (fun p => (p.1, p.2.1))) a) →
      SMap.get (d.space sp) a = SMap.get (s.dev.space sp) a

/-- ATOMG and REDG of an open group whose lanes all pass their checks and meet no poison go on with every lane's operation
performed at home, one after another; ATOMG's VD holds the old values. ATOMS goes on with every lane's operation on the
team's scratchpad and the old values in VD; BESTMAX of an open group with every candidate offered to its cell (R173, R177 to
R179). The model's choices in it: log entries 5, 13 and 51. -/
def Obligations.AtomicsComplete : Prop :=
  (∀ (f : FmtMI) (s : State) (x : View) (l : List (Nat × Run)),
    s.issuer = some x → x.active f.m.ms ≠ 0 → x.g.sealBuf = none → s.dev.writeFull x.g = false →
    let n := widthBytes f.m.w
    let ag := Agent.core s.cur.core
    sumChecks ((x.globalReqs f.m n (x.active f.m.ms)).map (fun p =>
      (p.1, s.dev.laneRun s.env x.g.ctx ag .atomic (linkAtomic f.m.md.toNat) n n p.2))) = .ok l →
    let d0 := s.dev.leaveL1 ag x.g.ctx l
    (∀ p ∈ l, d0.poisonRun ag p.2 = false) →
    let q := (laneOrder s.tick (fun p : Nat × Run => runKey p.2) l).map (fun p =>
      (p.1, p.2, (x.atomicArgs f n p.1).1, (x.atomicArgs f n p.1).2))
    let r := (d0.order s.cur.core f.m.ord f.m.scope).atomicLanes ag x.g.ctx f.m.md.toNat n q
    let y := x.counted.notePriv (l.any (fun p => runPriv p.2))
    (x.g.inRange (Instr.atomg f).spans = true →
      exec (.atomg f) s = .next (s.afterOn r.1 x ((y.putLanes f.m.vd.toNat false r.2).next 12))) ∧
    (x.g.inRange (Instr.redg f).spans = true → exec (.redg f) s = .next (s.afterOn r.1 x (y.next 12)))) ∧
  (∀ (s : State) (x : View), s.issuer = some x → s.dev.writeFull x.g = false →
    (∀ (f : FmtMI) (l : List (Nat × Nat)), x.active f.m.ms ≠ 0 → x.g.inRange (Instr.atoms f).spans = true →
      s.dev.spadChecks x (widthBytes f.m.w) (x.spadReqs f.m (widthBytes f.m.w) (x.active f.m.ms)) = .ok l →
      let n := widthBytes f.m.w
      let q := (laneOrder s.tick (fun p : Nat × Nat => p.2) l).map (fun p => (p.1, (s.dev.teamOf x.g).spadAt s.cur.core p.2,
        (x.atomicArgs f n p.1).1, (x.atomicArgs f n p.1).2))
      let o := s.dev.spadAtomics x.g.ctx f.m.md.toNat n q
      exec (.atoms f) s = .next (s.afterOn o.1 x ((x.counted.putLanes f.m.vd.toNat false o.2).next 12))) ∧
    (∀ (f : FmtM) (l : List (Nat × Run)), x.active f.ms ≠ 0 → x.g.inRange (Instr.bestmax f).spans = true →
      x.g.sealBuf = none →
      sumChecks ((x.globalReqs f 16 (x.active f.ms)).map (fun p =>
        (p.1, s.dev.laneRun s.env x.g.ctx (Agent.core s.cur.core) .atomic false 16 16 p.2))) = .ok l →
      let d0 := s.dev.leaveL1 (Agent.core s.cur.core) x.g.ctx l
      (∀ p ∈ l, d0.poisonRun (Agent.core s.cur.core) p.2 = false) →
      let d2 := (laneOrder s.tick (fun p : Nat × Run => runKey p.2) l).foldl (fun d p => p.2.foldl (fun d t =>
          (d.beforeAtomic (Agent.core s.cur.core) t.1).offer t.1.space t.1.pa (bytesToNat (x.regBytes f.vd.toNat p.1 16))) d)
        (d0.order s.cur.core (if isRel f.ord then .rel else .plain) f.scope)
      exec (.bestmax f) s = .next (s.afterOn d2 x ((x.counted.notePriv (l.any (fun p => runPriv p.2))).next 8))))

/-- The new value of an atomic on n bytes of two integers, by operation; and that of .add.f32, .min.f32, .max.f32 and .add.i32
on numbers, each with ABSENT as its identity. The incumbent cell takes a candidate that beats it,
whole, and keeps itself otherwise; a NaN never replaces it, and an ABSENT score is beaten by every other number (R42, R45,
R149, R177, R179). -/
def Obligations.AtomicValues : Prop :=
  (∀ (n m v c : Nat), (n = 4 ∨ n = 8) → m < 2 ^ (8 * n) → v < 2 ^ (8 * n) →
    atomicOp 0 n m v c = (m + v) % 2 ^ (8 * n) ∧ atomicOp 2 n m v c = min m v ∧ atomicOp 5 n m v c = max m v ∧
    atomicOp 8 n m v c = m &&& v ∧ atomicOp 9 n m v c = m ||| v ∧ atomicOp 10 n m v c = m ^^^ v ∧
    atomicOp 11 n m v c = v ∧ atomicOp 12 n m v c = (if m = c then v else m) ∧
    atomicOp 13 n m v c = (if v ≤ m then 0 else m + 1) ∧
    (BitVec.ofNat (8 * n) (atomicOp 3 n m v c)).toInt = min (BitVec.ofNat (8 * n) m).toInt (BitVec.ofNat (8 * n) v).toInt ∧
    (BitVec.ofNat (8 * n) (atomicOp 6 n m v c)).toInt = max (BitVec.ofNat (8 * n) m).toInt (BitVec.ofNat (8 * n) v).toInt) ∧
  (∀ (m v c : Nat), m < 2 ^ 32 → v < 2 ^ 32 →
    let a := Ty.f32.value m
    let b := Ty.f32.value v
    (∀ k, k = 1 ∨ k = 4 ∨ k = 7 →
      (a = .absent → atomicOp k 4 m v c = canonF32 v) ∧ (b = .absent → atomicOp k 4 m v c = canonF32 m) ∧
      (a ≠ .absent → b ≠ .absent → a = .nan ∨ b = .nan → atomicOp k 4 m v c = 0x7FC00000)) ∧
    (a ≠ .absent → b ≠ .absent → atomicOp 1 4 m v c = canonF32 (deliver .f32 .rne (sumX .rne [a, b]).1).1) ∧
    (a.lt b = true → atomicOp 4 4 m v c = m ∧ atomicOp 7 4 m v c = v) ∧
    (b.lt a = true → atomicOp 4 4 m v c = v ∧ atomicOp 7 4 m v c = m) ∧
    (m = 0x80000000 → v = 0 → atomicOp 4 4 m v c = m ∧ atomicOp 7 4 m v c = v) ∧
    (m = 0x80000000 → atomicOp 14 4 m v c = v) ∧ (v = 0x80000000 → atomicOp 14 4 m v c = m) ∧
    (m ≠ 0x80000000 → v ≠ 0x80000000 →
      (BitVec.ofNat 32 (atomicOp 14 4 m v c)).toInt
        = max (-(2 ^ 31 - 1)) (min (2 ^ 31 - 1) ((BitVec.ofNat 32 m).toInt + (BitVec.ofNat 32 v).toInt)))) ∧
  (∀ (d : Device) (t : Space) (pa cell : Nat), cell < 2 ^ 128 →
    let old := bytesToNat (readBytes (d.space t) pa 16)
    (beats (cell % 2 ^ 32) (old % 2 ^ 32) = true → bytesToNat (readBytes ((d.offer t pa cell).space t) pa 16) = cell) ∧
    (beats (cell % 2 ^ 32) (old % 2 ^ 32) = false → d.offer t pa cell = d) ∧
    (Ty.f32.value (cell % 2 ^ 32) = .nan → d.offer t pa cell = d) ∧
    (∀ c o, Ty.f32.value o = .absent → (Ty.f32.value c).present = true → Ty.f32.value c ≠ .nan → beats c o = true))

/-- TLD, TST, CITER and CCOUNT on a comb region go on with the region's answers, each lane at the key of its coordinate or
its cursor (R181 to R183, R326, R331). The model's choices in it: log entries 22, 51 and 55. -/
def Obligations.CombCompletes : Prop :=
  ∀ (s : State) (x : View) (g : Region), s.issuer = some x →
    (∀ (f : FmtM) d1 vs, x.active f.ms ≠ 0 → x.g.inRange (Instr.tld f).spans = true →
      s.dev.target x f.md.toNat f.w ((lanesOf (x.active f.ms)).map (x.coord f)) = .comb g →
      eachLane (fun d (k : Nat) => asLane g (d.combGet s.env x.g.ctx g k))
        ((lanesOf (x.active f.ms)).map (fun l => (l, g.key (x.coord f l))))
        (s.dev.order s.cur.core (if isAcq f.ord then .acq else .plain) f.scope) = .ok (d1, vs, []) →
      exec (.tld f) s = .next (s.afterOn d1 x ((x.putLanes f.vd.toNat false (vs.map (fun p =>
        (p.1, natToBytes (widthBytes f.w) (p.2.getD (if f.off = 1 then g.absent else 0)))))).next 8))) ∧
    (∀ (f : FmtM) d1 (us : List (Nat × Unit)), x.active f.ms ≠ 0 → x.g.inRange (Instr.tst f).spans = true →
      x.g.sealBuf = none → s.dev.writeFull x.g = false →
      s.dev.target x f.md.toNat f.w ((lanesOf (x.active f.ms)).map (x.coord f)) = .comb g →
      eachLane (fun d (p : Nat × Nat) => asLane g ((d.combStore s.env x.g.ctx g p.1 p.2).map (fun d => (d, ()))))
        (anyOrder s.tick ((lanesOf (x.active f.ms)).map (fun l => (l, g.key (x.coord f l),
          bytesToNat (x.regBytes f.vd.toNat l (widthBytes f.w)) % 2 ^ (8 * g.vw)))))
        (s.dev.order s.cur.core (if isRel f.ord then .rel else .plain) f.scope) = .ok (d1, us, []) →
      exec (.tst f) s = .next (s.afterOn d1 x (x.counted.next 8))) ∧
    (∀ (f : FmtMI) d1 vs, x.active f.m.ms ≠ 0 → x.g.inRange (Instr.citer f).spans = true →
      s.dev.combOf x f.m.md.toNat = some g →
      let lanes := lanesOf (x.active f.m.ms)
      let ended (l : Nat) : Bool := (x.v (f.vb.toNat + 2) l).getLsbD 0
      eachLane (fun d (k : Nat) => asLane g (d.combSeek s.env x.g.ctx g k))
        ((lanes.filter (fun l => !ended l)).map (fun l => (l, (x.g.vpair f.vb.toNat l).toNat)))
        (s.dev.order s.cur.core (if isAcq f.m.ord then .acq else .plain) f.m.scope) = .ok (d1, vs, []) →
      let g1 := (lanes.filter ended).foldl (fun g l => g.setV (f.m.vd.toNat + 4) l 0) x.g
      let y : View := { x with g := vs.foldl (fun g p => iterate f g p.1 p.2) g1 }
      exec (.citer f) s = .next (s.afterOn d1 x (y.next 12))) ∧
    (∀ (f : FmtM), x.active f.ms ≠ 0 → x.g.inRange (Instr.ccount f).spans = true → s.dev.combOf x f.md.toNat = some g →
      exec (.ccount f) s = .next (s.afterOn s.dev x ((x.setPair f.vd.toNat (s.dev.comb x.g.ctx g.id).nent).next 8)))

namespace Sys2Proof.Spec

/-- The lane predicate and the length of QLD and of the instructions of classes 6 and 7; GQPOP's lanes are those of E. -/
def maskOf : Instr → Option (Pred × Nat)
  | .qld f | .ldg f | .stg f | .lds f | .sts f | .ldsm f | .stsm f | .ldfrag f | .ldu f | .stsc f | .bestmax f | .tld f | .tst f
  | .hld f | .ccount f | .fence f | .cache f | .disc f => some (f.ms, 8)
  | .atomg f | .atoms f | .redg f | .citer f => some (f.m.ms, 12)
  | .spawn f | .jrec f | .fnew f | .fres f | .fwait f | .fpoll f | .freg f | .fcan f | .swnew f | .swdl f | .swcan f
  | .swendClose f | .swendRun f | .barInit f | .barArrive f | .barWait f | .barExpect f | .barTest f | .cpy f | .cpydn f
  | .colqQpoint f | .colqQsphere f | .colqQseg f | .dyns f | .gqcfg f | .gqpush f | .gqflush f | .pdef f | .palloc f | .pfree f
  | .preset f | .regdef f | .hstw f | .sigdec f => some (f.ms, 8)
  | .gqpop _ => some (.none, 8)
  | _ => none

/-- The number of the barrier that an instruction names. -/
def barOf : Instr → Option Nat
  | .barInit f | .barArrive f | .barWait f | .barExpect f | .barTest f => some f.va.toNat
  | _ => none

end Sys2Proof.Spec

/-- FENCE goes on with its order's effect on the core's L1; CACHE, once no line's walk waits for a channel, with each lane's line treated, a line that fails a
check skipped; DISC of an open group with every lane's granule discarded: it reads zero. With no lane active QLD and every
instruction of classes 6 and 7 goes on past its words with nothing written and no check made but those of its encoding (R83, R128,
R168, R184 to R186, R396). The model's choices in it: log entries 13 and 16. -/
def Obligations.FenceCacheDiscard : Prop :=
  (∀ (i : Instr) (s : State) (x : View) (m : Pred) (n : Nat), s.issuer = some x → Sys2Proof.Spec.maskOf i = some (m, n) →
    x.g.inRange i.spans = true → (∀ k, Sys2Proof.Spec.barOf i = some k → k < (s.dev.teamOf x.g).bars.length) →
    x.active m = 0 → exec i s = .next (s.afterOn s.dev x (x.next n))) ∧
  ∀ (f : FmtM) (s : State) (x : View), s.issuer = some x → x.active f.ms ≠ 0 →
    (x.g.inRange (Instr.fence f).spans = true →
      exec (.fence f) s = .next (s.afterOn (s.dev.order s.cur.core f.ord f.scope) x (x.next 8))) ∧
    (x.g.inRange (Instr.cache f).spans = true →
      let runs := (x.globalReqs f 1 (x.active f.ms)).map (fun p =>
        s.dev.laneRun s.env x.g.ctx (Agent.core s.cur.core) .load true 1 1 p.2)
      (∀ r ∈ runs, r ≠ .error .channel) →
      exec (.cache f) s = .next (s.afterOn (runs.foldl (fun d r => match r with
        | .ok l => l.foldl (fun d t => d.cacheLine s.cur.core f.md.toNat t.1) (d.touchAll (Agent.core s.cur.core) x.g.ctx .load l)
        | .error _ => d) s.dev) x (x.next 8))) ∧
    (∀ l, x.g.inRange (Instr.disc f).spans = true → x.g.sealBuf = none → s.dev.writeFull x.g = false →
      sumChecks ((x.globalReqs f 1 (x.active f.ms)).map (fun p =>
        (p.1, s.dev.laneRun s.env x.g.ctx (Agent.core s.cur.core) .store false 4096 4096 p.2))) = .ok l →
      let d := l.foldl (fun d p => p.2.foldl (fun d t => d.discard t.1.pa) d) s.dev
      exec (.disc f) s = .next (s.afterOn d x ((x.counted.notePriv (l.any (fun p => runPriv p.2))).next 8)) ∧
      ∀ a, (∃ p ∈ l, ∃ t ∈ p.2, a / 4096 = t.1.pa / 4096) → SMap.get (w := 8) d.mem a = 0)

/-! ### Tasks, futures and swarms (class 7) -/

namespace Sys2Proof.Spec

/-- The futures that an instruction's active lanes name: each with its lane. -/
def futReqs (x : View) (f : FmtT) : List (Nat × Nat × W64) :=
  (lanesOf (x.active f.ms)).map (fun l => (l, l, x.g.vpair f.va.toNat l))

/-- The checks of those futures as atomics of 16 bytes (R277). -/
def futChecks (d : Device) (s : State) (x : View) (f : FmtT) : Checked Run :=
  sumChecks ((futReqs x f).map (fun p => (p.1, d.futRun s.env s.cur.core x.g.ctx p.2.2)))

/-- The device with the pages of checked futures touched. -/
def futTouched (d : Device) (s : State) (x : View) (l : List (Nat × Run)) : Device :=
  l.foldl (fun d p => d.touchAll (Agent.core s.cur.core) x.g.ctx .atomic p.2) d

/-- The order in which the lanes' operations act: unspecified (R9, R173, R277). -/
def futOrder (s : State) (x : View) (f : FmtT) : List (Nat × Nat × W64) := anyOrder s.tick (futReqs x f)

end Sys2Proof.Spec

/-- FNEW, FRES, FCAN and FREG of an open group, whose lanes' futures pass their checks and whose operations meet no fault, go
on with every lane's operation done, one after another, and the triple of the lanes on which it acted (R277 to R283).
The model's choices in it: log entries 18 and 51. -/
def Obligations.FutureWritesComplete : Prop :=
  ∀ (f : FmtT) (s : State) (x : View) (l : List (Nat × Run)) (d : Device),
    s.issuer = some x → x.g.sealBuf = none → x.active f.ms ≠ 0 →
    let ag := Agent.core s.cur.core
    let q := Sys2Proof.Spec.futOrder s x f
    let d0 := Sys2Proof.Spec.futTouched s.dev s x l
    let rel := s.dev.order s.cur.core .rel .dev
    (∀ bs, Sys2Proof.Spec.futChecks s.dev s x f = .ok l → x.g.inRange (Instr.fnew f).spans = true →
      eachLane (fun d p => laneOf (d.futNew s.env s.cur x.g f p.2)) q d0 = .ok (d, bs, []) →
      exec (.fnew f) s = .next (s.afterOn d x ((x.status f (x.active f.ms) (trueLanes bs)).next 8))) ∧
    (∀ bs, Sys2Proof.Spec.futChecks rel s x f = .ok l → x.g.inRange (Instr.fres f).spans = true →
      eachLane (fun d p => laneOf (d.resolve s.env ag x.g p.2 (x.g.vpair f.vb.toNat p.1))) q
        (Sys2Proof.Spec.futTouched rel s x l) = .ok (d, bs, []) → (∀ p ∈ bs, p.2.1 ≠ 1) →
      exec (.fres f) s = .next (s.afterOn d x
        ((x.status f (x.active f.ms) (trueLanes (bs.map (fun p => (p.1, p.2.1 = 0))))).next 8))) ∧
    (∀ bs, Sys2Proof.Spec.futChecks s.dev s x f = .ok l → x.g.inRange (Instr.fcan f).spans = true →
      eachLane (fun d p => laneOf (d.futCancel s.env ag x.g.ctx p.2)) q d0 = .ok (d, bs, []) →
      exec (.fcan f) s = .next (s.afterOn d x ((x.status f (x.active f.ms) (trueLanes bs)).next 8))) ∧
    (∀ bs, Sys2Proof.Spec.futChecks s.dev s x f = .ok l → x.g.inRange (Instr.freg f).spans = true →
      (s.dev.pool x.g.ctx 0).defd = true →
      (∀ k ∈ lanesOf (x.active f.ms), 1 ≤ (x.v f.vb.toNat k).toNat ∧
        (x.v f.vb.toNat k).toNat < (s.dev.pool x.g.ctx 0).count) →
      eachLane (fun d p => laneOf (d.register s.env x.g.ctx ag p.2 (x.v f.vb.toNat p.1).toNat)) q d0 = .ok (d, bs, []) →
      exec (.freg f) s = .next (s.afterOn d x ((x.writeT (x.active f.ms) f.sd.toNat (trueLanes bs)).next 8)))

namespace Sys2Proof.Spec

/-- What FWAIT and FPOLL write for a lane's future: VALUE and STATE in VB to VB+2, or STATE alone where it has not settled; a
reserved state reads as FAULTED with value 0 (R277, R284, R285). -/
def futPut (vb : Nat) (y : View) (p : Nat × W64 × Fut) : View :=
  let st := if 5 ≤ p.2.2.st then 4 else p.2.2.st
  let g := if p.2.2.unsettled then y.g else y.g.setVpair vb p.1 (if 5 ≤ p.2.2.st then 0 else p.2.2.value)
  { y with g := g.setV (vb + 2) p.1 (BitVec.ofNat 32 st) }

end Sys2Proof.Spec

/-- FWAIT and FPOLL, where the stamps of the futures they read RESOLVED are performed, go on with each lane's VALUE and STATE
in VB to VB+2, acquiring at .dev when one is RESOLVED; FPOLL writes only STATE for a future that has not settled. Where a stamp
is not performed the split waits for it, and so does JREC's; once every stamp is, an instruction that waits so acquires if it
is to, writes its registers and goes on, whatever handler of its group runs. An FWAIT
with a future not settled parks, with a wake reference on each (R121, R255, R272, R277, R284, R285).
The model's choices in it: log entries 5, 13 and 51. -/
def Obligations.FutureReadsComplete : Prop :=
  ∀ (f : FmtT) (s : State) (x : View) (l : List (Nat × Run)) (d : Device) (bs : List (Nat × W64 × Fut)),
    s.issuer = some x → x.g.sealBuf = none → x.active f.ms ≠ 0 → Sys2Proof.Spec.futChecks s.dev s x f = .ok l →
    eachLane (futReport s.env s.cur.core x) (Sys2Proof.Spec.futOrder s x f) (Sys2Proof.Spec.futTouched s.dev s x l)
      = .ok (d, bs, []) →
    let acq := if bs.any (fun p => p.2.2.st = 2) then d.order s.cur.core .acq .dev else d
    let late := d.lateStamps s.env s.cur.core x.g.ctx (bs.map Prod.snd)
    (∀ i, x.g.inRange i.spans = true → (i = .fwait f ∧ ∀ p ∈ bs, p.2.2.unsettled = false) ∨ i = .fpoll f →
      let y : View := bs.foldl (Sys2Proof.Spec.futPut f.vb.toNat) { x with sp := { x.sp with park := .running } }
      (late = [] → exec i s = .next (s.afterOn acq x (y.next 8))) ∧
      (∀ g, late ≠ [] → d.groups.get s.cur.key = some g → ∃ w : DrainWait, w.stamps = late ∧
        exec i s = .next (s.withDev (d.putGroup s.cur.key (g.put x.sp.low [{ x.sp with park := .drain w }]))) ∧
        w.acquire = bs.any (fun p => p.2.2.st = 2) ∧ w.written x = y.next 8)) ∧
    (∀ (d : Device) key g sp w, d.groups.get key = some g → g.splitAt sp.low = some sp → sp.park = .drain w →
      let y := w.written { g, sp }
      (d.unreached w.stamps ≠ [] → d.drainEnd key sp.low = d) ∧
      (d.unreached w.stamps = [] → d.drainEnd key sp.low =
        (if w.acquire then d.order (key / 48) .acq .dev else d).putGroup key (y.g.put sp.low [y.sp.noteWrites false g y.g []]))) ∧
    (∀ d1 d2 ws g, x.g.inRange (Instr.fwait f).spans = true → f.opt ≠ 1 → (∃ p ∈ bs, p.2.2.unsettled = true) →
      let pend := ((bs.filter (fun p => p.2.2.unsettled)).map (fun p => p.2.1)).dedup
      lendAll s.env s.cur.key d x pend = .ok d1 →
      eachLane (fun d a => laneOf (d.wakeOn s.env s.cur x.g.ctx (s.tick % 65536) a))
        ((anyOrder s.tick pend).map (fun a => (((bs.find? (fun p => p.2.1 = a)).map Prod.fst).getD 0, a))) d1 = .ok (d2, ws, []) →
      d2.groups.get s.cur.key = some g →
      exec (.fwait f) s = .next (s.withDev (d2.putGroup s.cur.key (g.put x.sp.low [{ x.sp with
        park := .fwait f (ws.any (fun p => p.2)) false s.plat.cycles.toNat, token := BitVec.ofNat 16 (s.tick % 65536) }]))))

/-- SPAWN of an open group goes on when every lane's record is placed, or in its .t form with the triple of those that were;
JREC goes on with 0 for a record with JOIN 0, with the cell that holds a parked one, or all ones with pool 0 exhausted, once
the writes that its group made before it are performed; until then it waits with its record placed, and SD not written (R270 to
R272). The model's choices in it: log entries 18, 19 and 51. -/
def Obligations.SpawnsComplete : Prop :=
  ∀ (f : FmtT) (s : State) (x : View), s.issuer = some x → x.g.sealBuf = none → x.active f.ms ≠ 0 →
    (∀ l d done, x.g.inRange (Instr.spawn f).spans = true →
      sumChecks ((lanesOf (x.active f.ms)).map (fun k =>
        (k, s.dev.readRecord s.env s.cur.core x.g (f.opt = 1) (x.g.vpair f.va.toNat k)))) = .ok l →
      let recs := l.map (fun p => (p.1, { p.2.task with stamp := x.g.writes, stampOf := x.g.guid }))
      eachLane (fun d (t : TaskRec) => laneOf (d.place s.env s.cur.core x.g.ctx t)) (anyOrder s.tick recs)
        ((l.foldl (fun d p => d.descTouch s.cur.core x.g.ctx p.2.run) s.dev).order s.cur.core .rel .dev) = .ok (d, done, []) →
      let placed := maskOfLanes ((done.filter (fun p => p.2)).map Prod.fst)
      (f.t = true → exec (.spawn f) s = .next (s.afterOn d x ((x.writeT (x.active f.ms) f.sd.toNat placed).next 8))) ∧
      (f.t = false → (∀ p ∈ recs, placed.getLsbD p.1 = true) → exec (.spawn f) s = .next (s.afterOn d x (x.next 8)))) ∧
    (∀ q d c, x.g.inRange (Instr.jrec f).spans = true →
      s.dev.readRecord s.env s.cur.core x.g (f.opt = 1) (x.pair f.sa.toNat) = .ok q →
      let own : Stamp := { guid := x.g.guid, count := x.g.writes }
      let d0 := (s.dev.descTouch s.cur.core x.g.ctx q.run).order s.cur.core .rel .dev
      ∀ (d1 : Device) (v : W32),
      ((q.task.join = 0 ∧ d1 = d ∧ v = 0 ∧
          d0.place s.env s.cur.core x.g.ctx { q.task with stamp := x.g.writes, stampOf := x.g.guid } = .ok (d, true)) ∨
        (q.task.join ≠ 0 ∧ d1 = d ∧ v = BitVec.ofNat 32 c ∧ d0.parkRecord s.env s.cur.core x.g.ctx q = .ok (d, some c)) ∨
        (q.task.join ≠ 0 ∧ d1 = d0 ∧ v = 0xFFFFFFFF ∧ d0.parkRecord s.env s.cur.core x.g.ctx q = .ok (d, none))) →
      let y := x.setS f.sd.toNat v
      (d1.reached own = true →
        exec (.jrec f) s = .next (s.afterOn d1 x ({ y with sp := { y.sp with park := .running } }.next 8))) ∧
      (∀ g, d1.reached own = false → d1.groups.get s.cur.key = some g → ∃ w : DrainWait, w.stamps = [own] ∧
        exec (.jrec f) s = .next (s.withDev (d1.putGroup s.cur.key (g.put x.sp.low [{ x.sp with park := .drain w }]))) ∧
        w.acquire = false ∧ w.written x = { y with sp := { y.sp with park := .running } }.next 8))

/-- SWNEW goes on with the identifier of the swarm it enters, LIVE, or 0 where R287 refuses it, a
continuation's record read as SPAWN reads one and its RESULT taken; SWDL, SWCAN, SWEND .close and
SWEND .run go on with 0 and their effect on a swarm in a state on which they act, and with 1 and none on another (R287,
R289). The model's choices in it: log entries 18 and 47. -/
def Obligations.SwarmsComplete : Prop :=
  ∀ (f : FmtT) (s : State) (x : View), s.issuer = some x → x.g.sealBuf = none → x.active f.ms ≠ 0 →
    (∀ l bytes k, x.g.inRange (Instr.swnew f).spans = true →
      s.dev.descRun s.env s.cur.core x.g 32 32 (x.pair f.sa.toNat) = .ok (l, bytes) →
      let ws := bytesToWords bytes
      let sw := Swarm.ofDesc (ws.getD 1 0) (ws.getD 2 0)
      let d := s.dev.descTouch s.cur.core x.g.ctx l
      (s.dev.swarmOk x.g.ctx sw = false →
        exec (.swnew f) s = .next (s.afterOn d x ((x.setS f.sd.toNat 0).next 8))) ∧
      (s.dev.swarmOk x.g.ctx sw = true → ws.getD 0 0 = 0 → (d.ctxs.get x.g.ctx).bind Ctx.nextSwarm = some k →
        exec (.swnew f) s = .next (s.afterOn
          (d.updCtx x.g.ctx (fun c => { c with swarms := c.swarms.set k sw, lastSwarm := k })) x
          ((x.setS f.sd.toNat (BitVec.ofNat 32 k)).next 8))) ∧
      (∀ q d1, s.dev.swarmOk x.g.ctx sw = true → ws.getD 0 0 ≠ 0 →
        d.readRecord s.env s.cur.core x.g false (ws.getD 0 0) = .ok q →
        (d.descTouch s.cur.core x.g.ctx q.run).claimResult s.env s.cur.core x.g.ctx q.task = .ok d1 →
        (d1.ctxs.get x.g.ctx).bind Ctx.nextSwarm = some k →
        exec (.swnew f) s = .next (s.afterOn
          (d1.updCtx x.g.ctx (fun c => { c with swarms := c.swarms.set k { sw with expiry := some q.task }, lastSwarm := k })) x
          ((x.setS f.sd.toNat (BitVec.ofNat 32 k)).next 8)))) ∧
    (∀ i acts, i.spans = [] →
      ((i = .swdl f ∧ acts = fun (w : Swarm) => decide (w.st = .live)) ∨
        (i = .swcan f ∧ acts = fun w => decide (w.st = .live ∨ w.st = .closed)) ∨
        (i = .swendClose f ∧ acts = fun w => decide (w.st = .live)) ∨
        (i = .swendRun f ∧ acts = fun w => decide (w.st = .live))) →
      (s.dev.namedSwarm x.g.ctx (x.s f.sa.toNat)).all (fun p => !acts p.2) = true →
      exec i s = .next (s.afterOn s.dev x ((x.setS f.sd.toNat 1).next 8))) ∧
    (∀ k sw d g, s.dev.namedSwarm x.g.ctx (x.s f.sa.toNat) = some (k, sw) →
      let y := (x.setS f.sd.toNat 0).next 8
      let d0 := s.dev.commit s.cur.key y
      let t := s.withDev (d.putGroup s.cur.key (g.put x.sp.low [y.sp]))
      d.groups.get s.cur.key = some g →
      (sw.st = .live → d = d0.updSwarm x.g.ctx k (fun w => { w with deadline := x.pair f.sb.toNat }) →
        exec (.swdl f) s = .next t) ∧
      (sw.st = .live ∨ sw.st = .closed → d0.cancelSwarm s.env x.g.ctx k 0 = .ok d → exec (.swcan f) s = .next t) ∧
      (sw.st = .live → d = d0.updSwarm x.g.ctx k (fun w => { w with st := .closed, deadline := 0 }) → exec (.swendClose f) s = .next t) ∧
      (sw.st = .live → (d0.updSwarm x.g.ctx k (fun w => { w with st := .closed, deadline := 0, expiry := none })).queueContinuation
        s.env x.g.ctx k sw 2 = .ok d → exec (.swendRun f) s = .next t))

/-! ### Barriers, copies, engines, queues, pools, streams, signals (class 7); WATCH -/

/-- BAR INIT, ARRIVE, WAIT, EXPECT and TEST on a barrier of the team's block go on as R301 and R302 give: INIT with the
barrier opened and its waiters released with status 2, ARRIVE with the phase and the arrival counted, WAIT at once when the
phase has moved and parked when not, EXPECT with the bytes announced, TEST with its status.
The model's choices in it: log entry 21. -/
def Obligations.BarriersComplete : Prop :=
  ∀ (f : FmtT) (s : State) (x : View), s.issuer = some x → x.active f.ms ≠ 0 →
    f.va.toNat < (s.dev.teamOf x.g).bars.length →
    let b := (s.dev.teamOf x.g).bars.getD f.va.toNat Barrier.blank
    let on (y : View) : Device := s.dev.putGroup s.cur.key (y.g.put x.sp.low [y.sp])
    (countOk (x.s f.sa.toNat) = true → exec (.barInit f) s = .next (s.withDev
      (((on (x.next 8)).setBar x.g.team f.va.toNat (Barrier.open_ (x.s f.sa.toNat))).releaseBar x.g.team f.va.toNat 2))) ∧
    (∀ d, b.init = true → b.poison = false →
      let n : W32 := if f.opt.getLsbD 0 then x.s f.sb.toNat else 1
      countOk n = true →
      (on ((x.setS f.sd.toNat b.phase).next 8)).arriveBar s.env x.g.team f.va.toNat x.g.gid n.toNat b = .ok d →
      exec (.barArrive f) s = .next (s.withDev d)) ∧
    (b.init = true → b.poison = false → b.phase ≠ x.s f.sa.toNat →
      exec (.barWait f) s = .next (s.afterOn s.dev x ((x.setS f.sd.toNat 0).next 8))) ∧
    (b.init = true → b.poison = false → b.phase = x.s f.sa.toNat →
      exec (.barWait f) s = .next (s.after x { x with sp := { x.sp with
        park := .barWait f (x.s f.sa.toNat) ((x.sp.rewait.map Prod.snd).getD s.plat.dtime) (x.s f.sb.toNat) } })) ∧
    (∀ d, b.init = true → b.poison = false →
      (on (x.next 8)).expectBar s.env x.g.team f.va.toNat (x.s f.sb.toNat) b = .ok d →
      exec (.barExpect f) s = .next (s.withDev d)) ∧
    (b.init = true ∨ b.poison = true → exec (.barTest f) s = .next (s.afterOn s.dev x ((x.setS f.sd.toNat
      (if b.poison then 3 else if b.phase = x.s f.sa.toNat then 1 else 0)).next 8)))

/-- CPY, CPYDN and DYNS of an open group whose descriptor passes its checks go on with the copy, or the step, entered in its
engine and its future claimed; COLQ with its lanes' queries entered (R296, R335, R340, R341, R349).
The model's choices in it: log entries 13, 20 and 48. -/
def Obligations.EngineIssuesComplete : Prop :=
  ∀ (f : FmtT) (s : State) (x : View), s.issuer = some x → x.g.sealBuf = none → x.active f.ms ≠ 0 →
    (∀ i l bytes kind fut d1, x.g.inRange i.spans = true →
      s.dev.descRun s.env s.cur.core x.g 64 64 (x.pair f.sa.toNat) = .ok (l, bytes) →
      let ws := bytesToWords bytes
      let d0 := s.dev.descTouch s.cur.core x.g.ctx l
      ((i = .cpy f ∧ kind = .cpy (CpyDesc.ofWords ws) ∧ fut = (CpyDesc.ofWords ws).fut ∧
          cpyCheck (d0.teamOf x.g) x.g.task.isSome ws (CpyDesc.ofWords ws) = none) ∨
        (∃ g : Region, i = .cpydn f ∧ d0.combOf x f.md.toNat = some g ∧
          kind = .dn (DnDesc.ofWords g.id (d0.comb x.g.ctx g.id).config ws) ∧
          fut = (DnDesc.ofWords g.id (d0.comb x.g.ctx g.id).config ws).fut ∧
          (DnDesc.ofWords g.id (d0.comb x.g.ctx g.id).config ws).leaves g = false ∧
          dnCheck (d0.teamOf x.g) x.g.task.isSome ws g (DnDesc.ofWords g.id (d0.comb x.g.ctx g.id).config ws) = none)) →
      d0.resultOk s.env s.cur.core x.g.ctx fut = .ok () →
      let c : Copy := { id := d0.nextId, ctx := x.g.ctx, team := some x.g.team, launch := (d0.teamOf x.g).launch
                        swarm := x.g.swarm, kind, raw := ws, stamp := some { guid := x.g.guid, count := x.g.writes }, src := none }
      c.shape.1 ≠ 0 → (d0.copiesOn s.cur.core).length < 512 →
      (d0.order s.cur.core .rel .dev).claimCopy s.env s.cur.core c = .ok d1 →
      exec i s = .next (s.afterOn (d1.addCopy s.cur.core c) x ((if f.t then x.setS f.sd.toNat 0 else x).next 8))) ∧
    (∀ l bytes d1 us, x.g.inRange (Instr.dyns f).spans = true →
      s.dev.descRun s.env s.cur.core x.g 64 64 (x.pair f.sa.toNat) = .ok (l, bytes) →
      let ws := bytesToWords bytes
      let d0 := s.dev.descTouch s.cur.core x.g.ctx l
      let w := DynsWork.ofWords ws
      let key := engineKey (s.cur.core / 8) .dyn
      dynsCheck ws = none → d0.resultOk s.env s.cur.core x.g.ctx w.fut = .ok () → (d0.entriesOn key).length < 64 →
      d0.engineTurn s.cur.key x.g .dyn (x.sp.queued.getD s.tick) = true →
      eachLane (fun d a => laneOf ((d.futClaim s.env x.g.ctx (Agent.core s.cur.core) a (engineTag .dyn (s.cur.core / 8)) x.g.swarm).map
        (fun d => (d, ())))) ((futOf w.fut).toList.map (fun a => (x.sp.low, a))) (d0.order s.cur.core .rel .dev) = .ok (d1, us, []) →
      exec (.dyns f) s = .next (s.afterOn (d1.addEntry key (d1.newEntry s.cur x (.dyns w))) x (x.next 8))) ∧
    (∀ i g (query : View → Nat → Query) l d1 us fs, x.g.inRange i.spans = true →
      ((i = .colqQpoint f ∧ query = (fun y k => .point (y.voxel f k)) ∧
          ∀ k ∈ lanesOf (x.active f.ms), max (x.voxel f k).1 (max (x.voxel f k).2.1 (x.voxel f k).2.2) < 2 ^ g.e) ∨
        (i = .colqQsphere f ∧ query = fun y k => .sphere (y.queryRegs f 4 k)) ∨
        (i = .colqQseg f ∧ (query = fun y k => .seg (y.queryRegs f 6 k)) ∧ g.e ≤ 10)) →
      s.dev.combOf x f.md.toNat = some g → g.rank = 3 →
      let lanes := lanesOf (x.active f.ms)
      let key := engineKey (s.cur.core / 8) .col
      let fut (k : Nat) : W64 := x.g.vpair f.va.toNat k
      sumChecks (lanes.map (fun k => (k, s.dev.futRun s.env s.cur.core x.g.ctx (fut k)))) = .ok l →
      (s.dev.entriesOn key).length < 64 → s.dev.engineTurn s.cur.key x.g .col (x.sp.queued.getD s.tick) = true →
      eachLane (fun d a => laneOf ((d.futClaim s.env x.g.ctx (Agent.core s.cur.core) a (engineTag .col (s.cur.core / 8)) x.g.swarm).map
        (fun d => (d, ())))) (lanes.map (fun k => (k, fut k))) (s.dev.order s.cur.core .rel .dev) = .ok (d1, us, fs) →
      (fs = [] → exec i s = .next (s.afterOn (d1.addEntry key (d1.newEntry s.cur x
        (.colq g.id (lanes.map (fun k => { lane := k, fut := fut k, q := query x k }))))) x (x.next 8))) ∧
      (∀ t h, worstTrap fs = some t → d1.groups.get s.cur.key = some h → h.inHandler = false →
        exec i s = s.close x (d1.raise s.env s.cur.key h x.sp t)))

/-- GQCFG goes on with its status; GQPUSH with its lanes' rows in the queue and the triple of those that entered, GQFLUSH with
the open tile ready, and GQPOP with the tiles that are ready beyond those of parked poppers taken into its registers; with
none of them it goes on empty-handed in its .try form and parks in the other (R303 to
R306). The model's choices in it: log entries 23 and 55. -/
def Obligations.GatherCompletes : Prop :=
  ∀ (f : FmtT) (s : State) (x : View), s.issuer = some x → x.g.sealBuf = none →
    let q := f.md.toNat
    let used : View := { x with g := { x.g with usedGq := true } }
    (x.active f.ms ≠ 0 → x.g.inRange (Instr.gqcfg f).spans = true →
      let c := s.dev.gqConfig s.cur.core q x.g.ctx (x.pair f.sa.toNat)
      exec (.gqcfg f) s = .next (s.afterOn c.1 x ((used.setS f.sd.toNat c.2).next 8))) ∧
    (∀ c, x.active f.ms ≠ 0 → s.dev.gqOf s.cur.core q x.g.ctx = some c → x.g.inRange (Instr.gqflush f).spans = true →
      exec (.gqflush f) s = .next (s.afterOn (s.dev.setGq s.cur.core q c.flush) x (used.next 8))) ∧
    (∀ c l d left, x.active f.ms ≠ 0 → s.dev.gqOf s.cur.core q x.g.ctx = some c → x.g.inRange (Instr.gqpush f).spans = true →
      sumChecks ((lanesOf (x.active f.ms)).map (fun k => (k, s.dev.rowRead s.env s.cur.core x f (64 * c.nk) k))) = .ok l →
      let rows := l.map (fun p => (p.1, ({ bytes := p.2.2.1, tag := x.g.vpair f.vb.toNat p.1, fut := f.opt.getLsbD 1
                                           stamp := { guid := x.g.guid, count := x.g.writes }, time := s.plat.dtime } : GqRow)))
      let y := (x.noteLoad (l.flatMap (fun p => p.2.2.2))).notePriv (l.any (fun p => runPriv p.2.1))
      (l.foldl (fun d p => d.descTouch s.cur.core x.g.ctx p.2.1) s.dev).pushRows s.env s.cur.core q x.g.swarm rows = .ok (d, left) →
      (f.opt.getLsbD 0 = false ∨ left = []) →
      exec (.gqpush f) s = .next (s.afterOn d x (({ y with g := { y.g with usedGq := true } } : View).writeT (x.active f.ms)
        f.sd.toNat (maskOfLanes ((rows.filter (fun p => !left.any (fun q => q.1 = p.1))).map Prod.fst)) |>.next 8))) ∧
    (∀ c, x.sp.e ≠ 0 → x.sp.e = laneMask x.g.width → s.dev.gqOf s.cur.core q x.g.ctx = some c →
      x.g.inRange (Instr.gqpop f).spans = true → f.va.toNat + 4 * c.nk ≤ 320 → f.va.toNat + 4 * c.nk ≤ x.g.nreg →
      let y : View := { used with sp := { x.sp with park := .running } }
      let past := s.dev.popperTiles s.cur.core q
      (∀ d tiles, past < (readyTiles (past + 1) c.tiles).length →
        s.dev.takeTiles s.env s.cur.core q s.cur.key x.g past = .ok (d, tiles) → d.lateRows tiles = [] →
        exec (.gqpop f) s = .next (s.afterOn d x ((y.putTiles f c.fmt c.nk c.pad tiles).next 8))) ∧
      ((readyTiles (past + 1) c.tiles).length ≤ past → f.sub = 1 →
        exec (.gqpop f) s = .next (s.afterOn s.dev x ((y.putTiles f c.fmt c.nk c.pad []).next 8))) ∧
      ((readyTiles (past + 1) c.tiles).length ≤ past → f.sub ≠ 1 →
        exec (.gqpop f) s = .next (s.after x { used with sp := { x.sp with park := .gqpop f } })))

/-- PDEF, PRESET and REGDEF go on with their status; PALLOC with the lanes' cells and the triple of those that got one, or in
its .t form when the pool has cells enough; PFREE with the lanes' cells free (R316 to R321, R324).
The model's choices in it: log entries 22 and 55. -/
def Obligations.PoolsComplete : Prop :=
  ∀ (f : FmtT) (s : State) (x : View), s.issuer = some x → x.g.sealBuf = none → x.active f.ms ≠ 0 →
    let k := (x.s f.sb.toNat).toNat
    let p := s.dev.pool x.g.ctx k
    let lanes := lanesOf (x.active f.ms)
    (∀ l bytes, x.g.inRange (Instr.pdef f).spans = true → k < 64 →
      s.dev.descRun s.env s.cur.core x.g 32 32 (x.pair f.sa.toNat) = .ok (l, bytes) →
      let q := (s.dev.descTouch s.cur.core x.g.ctx l).pdef x.g.ctx k (bytesToWords bytes)
      exec (.pdef f) s = .next (s.afterOn q.1 x ((x.setS f.sd.toNat q.2).next 8))) ∧
    (x.g.inRange (Instr.preset f).spans = true → k < 64 → k ≠ 0 →
      exec (.preset f) s = .next (s.afterOn (s.dev.poolReset x.g.ctx k) x ((x.setS f.sd.toNat (if p.defd then 0 else 1)).next 8))) ∧
    (x.g.inRange (Instr.regdef f).spans = true → k < 1024 →
      let q := s.dev.regdef x.g.ctx k (x.pair f.sa.toNat)
      exec (.regdef f) s = .next (s.afterOn q.1 x ((x.setS f.sd.toNat q.2).next 8))) ∧
    (∀ d got, x.g.inRange (Instr.palloc f).spans = true → k < 64 → k ≠ 0 → p.defd = true →
      (f.t = true → lanes.length ≤ p.count - p.live) →
      eachLane (fun d (_ : Unit) => laneOf (d.allocLane s.env x.g.ctx k (f.opt.getLsbD 0))) (lanes.map (fun l => (l, ())))
        (s.dev.order s.cur.core .acq .dev) = .ok (d, got, []) →
      let g := got.foldl (fun g q => g.setVpair f.va.toNat q.1 ((q.2.map p.cellAt).getD 0)) x.g
      let y : View := { x with g }
      exec (.palloc f) s = .next (s.afterOn d x ((if f.t then y else y.writeT (x.active f.ms) f.sd.toNat
        (maskOfLanes ((got.filter (fun q => q.2.isSome)).map Prod.fst))).next 8))) ∧
    (∀ d got, x.g.inRange (Instr.pfree f).spans = true → k < 64 → k ≠ 0 → p.defd = true →
      (∀ l ∈ lanes, (p.index (x.g.vpair f.va.toNat l)).isSome = true) →
      eachLane (fun d (c : Nat) => laneOf ((d.freeLane s.env x.g.ctx k false c).map (fun q => (q.1, c, q.2))))
        (lanes.map (fun l => (l, (p.index (x.g.vpair f.va.toNat l)).getD 0))) (s.dev.order s.cur.core .rel .dev) = .ok (d, got, []) →
      (∀ q ∈ got, q.2.2 = true) →
      exec (.pfree f) s = .next (s.afterOn d x (x.next 8)))

/-- HSTW of a stream with room for its lanes goes on with their entries written and published and the triple of the lanes
that wrote; SIGDEC with its signal decremented and its vector requested; WATCH parks with a monitor on its line, or goes on
with status 2 when 32 are armed on the core (R119, R374, R380). The model's choices in it: log entry 24. -/
def Obligations.OutputsComplete : Prop :=
  ∀ (f : FmtT) (s : State) (x : View), s.issuer = some x →
    (∀ st d1 m d2, x.g.sealBuf = none → x.active f.ms ≠ 0 → x.g.inRange (Instr.hstw f).spans = true →
      s.dev.stream x.g.ctx f.md.toNat = some st → st.esz = f.sub.toNat → s.dev.streamWaiters x.g.ctx f.md.toNat = [] →
      s.dev.streamLanes s.env x.g.ctx f.md.toNat ((lanesOf (x.active f.ms)).map (fun l => (l, x.regBytes f.va.toNat l st.size))) 0
        = .ok (d1, [], m) →
      (d1.order s.cur.core .rel .sys).streamPublish s.env x.g.ctx f.md.toNat = .ok d2 →
      exec (.hstw f) s = .next (s.afterOn d2 x ((x.writeT (x.active f.ms) f.sd.toNat m).next 8))) ∧
    (∀ n v l d1, x.g.sealBuf = none → x.active f.ms ≠ 0 → x.g.inRange (Instr.sigdec f).spans = true →
      sigdecArgs (x.s f.sb.toNat) (f.opt.getLsbD 0) = some (n, v) →
      s.dev.laneRun s.env x.g.ctx (Agent.core s.cur.core) .atomic false 8 8 (x.pair f.sa.toNat).toNat = .ok l →
      (s.dev.order s.cur.core .rel .sys).signalDec s.env x.g.ctx (Agent.core s.cur.core) (x.pair f.sa.toNat) n false false = .ok d1 →
      exec (.sigdec f) s = .next (s.afterOn (if f.opt.getLsbD 0 then d1.interrupt s.env v else d1) x (x.next 8))) ∧
    (∀ (sd sa : SReg) l, s.dev.probeN s.plat s.tick x.g.ctx (Agent.core s.cur.core) .load true (x.pair sa.toNat) 1 = .ok l →
      let d1 := s.dev.touchAll (Agent.core s.cur.core) x.g.ctx .load l
      (32 ≤ d1.armed s.cur.core → exec (.watch sd sa) s = .next (s.afterOn d1 x ((x.setS sd.toNat 2).next 4))) ∧
      (∀ g, d1.armed s.cur.core < 32 → d1.groups.get s.cur.key = some g →
        let line := (l.map (fun t => lineKey t.1.space t.1.pa)).headD 0
        let m : Monitor := { core := s.cur.core, slot := s.cur.slot, lane := x.sp.low, line, hit := false }
        exec (.watch sd sa) s = .next (s.withDev (({ d1 with monitors := d1.monitors ++ [m] } : Device).putGroup s.cur.key (g.put x.sp.low [{ x.sp with park := .watch sd s.plat.cycles.toNat }])))))

/-! ### Events of issue -/

/-- The events of a waiting split go on when they are due: the end of a YIELD, the wake and the timeout of a WATCH (status 0
and 1, its monitor gone), the boost of a split that waits for nothing, its entry spilled or not, and has not been eligible for 1,024
cycles while a place is free, the demotion of a spinning split at 64 (a count that the issue of the 64th branch itself leaves at 0, so that no run
meets that clause: log entry 45) and its restoration by a write or after 4,096 cycles, and the timeout of a barrier's WAIT
with status 1 (R118, R119, R216, R218, R219, R302). The model's choices in it: log entries 45 and 54. -/
def Obligations.SplitEventsComplete : Prop :=
  ∀ (s : State) (core slot lane : Nat) (x : View), s.viewAt core slot lane = some x →
    let now := s.plat.cycles.toNat
    let r : SplitRef := { core, slot, lane }
    let goes : Split := { x.sp with park := .running }
    (∀ since others, x.sp.park = .yieldAll since others →
      (since + 64 ≤ now ∨ ∀ k ∈ others, ∀ sp ∈ x.g.splits, sp.low = k → k = x.sp.low) →
      exec (.yieldEnd core slot lane) s = .next (s.afterSplit core slot x goes)) ∧
    (∀ t, x.sp.park = .yieldUntil t → t ≤ now →
      exec (.yieldEnd core slot lane) s = .next (s.afterSplit core slot x goes)) ∧
    (∀ sd since, x.sp.park = .watch sd since →
      let gone := s.dev.disarm r x.sp.low
      let left (v : W32) : View :=
        let y := (({ x with sp := goes } : View).setS sd.toNat v).next 4
        { y with sp := y.sp.noteWrites false x.g y.g (changedExec x.sp.e y.sp.e) }
      (∀ m, s.dev.monitorOf r x = some m → m.hit = true →
        exec (.watchWake core slot lane) s = .next (s.afterParked core slot gone x (left 0))) ∧
      (since + 4096 ≤ now → exec (.watchTimeout core slot lane) s = .next (s.afterParked core slot gone x (left 1)))) ∧
    (x.sp.boosted = false → x.sp.isDemoted = false → s.dev.unwaiting (slotKey core slot) x.g x.sp = true →
      (∀ sp ∈ x.g.eligible, sp.low ≠ x.sp.low) → (∃ c, x.sp.eligibleAt = some c ∧ c + 1024 ≤ now) → 0 < x.g.freePlaces →
      exec (.splitEligibilityBoost core slot lane) s = .next (s.afterSplit core slot x { x.sp with boosted := true })) ∧
    (64 ≤ x.sp.spin.n → exec (.spinDemote core slot lane) s = .next (s.afterSplit core slot x (x.sp.demote now))) ∧
    (x.sp.demoted = true → x.sp.notedHit = true →
      exec (.spinRestore core slot lane) s = .next (s.afterSplit core slot x x.sp.restoreSpin)) ∧
    (x.sp.demoted = true → x.sp.demotedAt + 4096 ≤ now →
      exec (.spinRestoreTimeout core slot lane) s = .next (s.afterSplit core slot x x.sp.restoreSpin)) ∧
    (∀ f p start tout, x.sp.park = .barWait f p start tout → tout ≠ 0 → start.toNat + tout.toNat ≤ s.plat.dtime.toNat →
      exec (.barWaitTimeout core slot lane) s = .next (s.afterParked core slot s.dev x
        ((({ x with sp := goes } : View).setS f.sd.toNat 1).next 8)))

/-- The events of a group and of what it waits for go on when they are due: the flags of the instruction longest in flight
merge; a group that has issued nothing for 2,048 cycles is boosted; a spilled entry is on chip, as its block holds it, 16 cycles
after its fill began; splits that wait for seal-store units issue again when they are free; CANCEL reaches an open group
outside a handler as the trap of its split with the lowest lane; a page walk leaves its translation in the cluster's TLB; a
page that has come releases the splits that waited for it; a group's writes are performed, and one that has gone needs no
count; a coalesced vector's message is sent (R33, R126, R214, R215, R234, R255, R375, R385, R388, R397).
The model's choices in it: log entries 11, 17, 27 and 34. -/
def Obligations.GroupEventsComplete : Prop :=
  (∀ (s : State) (core slot : Nat) (g : Group), s.dev.groups.get (slotKey core slot) = some g →
    let key := slotKey core slot
    let now := s.plat.cycles.toNat
    let with_ (h : Group) : State := s.withDev (s.dev.putGroup key h)
    (∀ f fs, g.inflight = f :: fs →
      exec (.instructionComplete core slot) s = .next (with_ { g with fx := g.fx ||| f, inflight := fs })) ∧
    (g.boosted = false → g.lastCycle + 2048 ≤ now + 1 → s.dev.readySplits key g ≠ [] →
      exec (.starvationBoost core slot) s = .next (with_ { g with boosted := true })) ∧
    (∀ lane sp c t1, g.splitAt lane = some sp → sp.spilled = some (c + 1) → c + 16 ≤ now → s.dev.entryIn s.env g sp = some t1 →
      exec (.splitFillDone core slot lane) s = .next (with_ { g with splits := g.splits.map (fun t =>
        if t.low = sp.low then t1 else t) })) ∧
    (g.sealStalled = true →
      exec (.sealStoreStallEnd core slot) s = .next (with_ (g.sealGo (sealUnits - s.dev.sealUsed core)))) ∧
    (∀ d sp rest, g.cancelPend = true → g.sealBuf = none → g.inHandler = false → g.phase = .live →
      (∀ t ∈ g.splits, t.inside = false) → g.splits.foldr insertSplit [] = sp :: rest →
      (s.dev.disarm { core, slot, lane := 0 } sp.low).raise s.env key { g.mergeFlags with cancelPend := false } sp.withdrawn
        { code := 0x0E, lanes := allLanes g.splits } = .ok d →
      exec (.cancelDelivery core slot) s = .next (s.withDev d))) ∧
  (∀ (s : State),
    (∀ cluster ctx (va : W64) (c : Ctx) r, s.dev.ctxs.get ctx = some c → cluster < 8 →
      s.dev.tlbFind cluster ctx va.toNat = none →
      s.dev.walk s.plat.ready s.tick s.plat.part.capacity cluster ctx va.toNat 4 c.ptroot.toNat = .ok r →
      let l := r.leaf
      exec (.pageWalkDone cluster ctx va) s = .next (s.withDev (s.dev.touch (Agent.engine cluster) ctx va .load
        { space := spaceOf (pteTgt l.entry), pa := pteAddr l.entry + va.toNat % l.size, cls := pteCls l.entry
          seq := pteSeq l.entry, leaf := l, path := r.path }))) ∧
    (∀ ctx (va : W64), s.dev.absentPage s.env ctx va = false →
      let came : W64 → Bool := fun a => !s.dev.absentPage s.env ctx a
      ∃ t, exec (.residencyWaitEnd ctx va) s = .next t ∧
        t.dev.pageReqs = s.dev.pageReqs.filter (fun p => !(p.1 = ctx && came p.2)) ∧
        t.dev.pageReqs.contains (ctx, va) = false ∧ t.plat = s.plat ∧
        (∀ key g, s.dev.groups.get key = some g → g.ctx = ctx →
          t.dev.groups.get key = some { g with splits := settleSplits (g.splits.map (Split.pageCame came (s.dev.removedPage s.env ctx))) }) ∧
        (∀ key g, s.dev.groups.get key = some g → g.ctx ≠ ctx → t.dev.groups.get key = some g) ∧
        (∀ key, s.dev.groups.get key = none → t.dev.groups.get key = none) ∧
        t.dev = { s.dev with pageReqs := t.dev.pageReqs, groups := t.dev.groups }) ∧
    (∀ (came removed : W64 → Bool) (sp : Split) (l : List W64), sp.park = .stall (.page l) →
      (l.all came = true ∨ l.any removed = true → sp.pageCame came removed = { sp with park := .running }) ∧
      (l.all came = false → l.any removed = false →
        sp.pageCame came removed = { sp with park := .stall (.page (l.filter (fun a => !came a))) })) ∧
    (∀ guid n, s.dev.drains.get guid = some n →
      (∀ p, s.dev.groups.find? (fun p => p.2.guid = guid) = some p →
        exec (.drainStampReached (2 * guid + 1)) s = .next (s.withDev { s.dev with
          drains := s.dev.drains.set guid { n with core := p.2.writes, done := p.2.writes, issued := p.2.writes } }) ∧
        exec (.drainStampReached (2 * guid)) s = .next (s.withDev { s.dev with
          drains := s.dev.drains.set guid { n with core := p.2.writes, issued := p.2.writes } })) ∧
      (s.dev.groups.find? (fun p => p.2.guid = guid) = none →
        exec (.drainStampReached (2 * guid + 1)) s = .next (s.withDev { s.dev with
          drains := s.dev.drains.erase guid, futStamps := s.dev.futStamps.filter (fun t => t.stamp.guid ≠ guid) }) ∧
        exec (.drainStampReached (2 * guid)) s = .next (s.withDev { s.dev with
          drains := s.dev.drains.set guid { n with core := n.issued } }))) ∧
    (∀ vec n t, s.dev.msix.pending.get vec = some (n, t) → n ≠ 0 → s.dev.msix.tus vec ≠ 0 →
      t.toNat + 1000 * s.dev.msix.tus vec ≤ s.plat.dtime.toNat →
      exec (.coalesceTimeout vec) s = .next (s.withDev { s.dev with
        msix := { s.dev.msix.send vec with pending := s.dev.msix.pending.erase vec } })))

/-! ### Events of tasks, swarms and commits -/

/-- The retries and re-checks of a parked split go on when they are due: a SPAWN whose lanes are all placed
once its yield is over, an FWAIT whose
futures have settled, woken by a reference or after 256 cycles without one, an HSTW whose stream has room or drops, a GQPUSH whose
rows all enter (R270, R284, R304, R380). The model's choices in it: log entries 19, 24 and 51. -/
def Obligations.RetriesComplete : Prop :=
  ∀ (s : State) (core slot lane : Nat) (x : View), s.viewAt core slot lane = some x →
    let r : SplitRef := { core, slot, lane }
    let key := slotKey core slot
    let x0 : View := { x with sp := { x.sp with park := .running } }
    (∀ f left placed since others d, x.sp.park = .spawn f left placed since others →
      x.yieldOver s.plat.cycles.toNat since others = true →
      (anyOrder s.tick left).foldl (fun (p : Device × List (Nat × TaskRec)) t =>
        match p.1.pushLocal s.env core (QRec.mk' x.g.ctx t.2 s.plat.dtime) with
        | .ok (some d1) => (d1, p.2)
        | _ => (p.1, p.2 ++ [t])) (s.dev, []) = (d, []) →
      exec (.spawnRetry core slot lane) s = .next (s.afterParked core slot d x (x0.next 8))) ∧
    (∀ f poll woken since d y, x.sp.park = .fwait f poll woken since →
      fwaitAgain s.env r s.dev x f poll = Res.view d key y →
      (woken = true → exec (.fwaitRecheck core slot lane) s = .next (s.afterParked core slot d x y)) ∧
      (poll = true → since + 256 ≤ s.plat.cycles.toNat →
        exec (.fwaitPollTimeout core slot lane) s = .next (s.afterParked core slot d x y))) ∧
    (∀ f left done act since st d1 m d2, x.sp.park = .hstw f left done act since → s.dev.stream x.g.ctx f.md.toNat = some st →
      st.esz = f.sub.toNat → s.dev.streamFull x.g.ctx f.md.toNat st = false ∨ st.drop = true →
      (∀ t ∈ s.dev.streamWaiters x.g.ctx f.md.toNat, since ≤ t) →
      s.dev.streamLanes s.env x.g.ctx f.md.toNat (left.map (fun l => (l, x0.regBytes f.va.toNat l st.size))) done
        = .ok (d1, [], m) →
      (d1.order core .rel .sys).streamPublish s.env x.g.ctx f.md.toNat = .ok d2 →
      exec (.hstwResume core slot lane) s =
        .next (s.afterParked core slot d2 x ((x0.writeT act f.sd.toNat m).next 8))) ∧
    (∀ f left entered act since others c d, x.sp.park = .gqpush f left entered act since others →
      x.yieldOver s.plat.cycles.toNat since others = true → s.dev.gqOf core f.md.toNat x.g.ctx = some c →
      (∀ p ∈ left, p.2.bytes.length = 64 * c.nk) →
      s.dev.pushRows s.env core f.md.toNat x.g.swarm left = .ok (d, []) →
      exec (.gqpushRetry core slot lane) s = .next (s.afterParked core slot d x ((x0.writeT act f.sd.toNat
        (entered ||| maskOfLanes (left.map Prod.fst))).next 8)))

/-- The events of records and swarms go on when they are due: a join decrement whose stamp is performed, a held record that
finds room, a LIVE swarm past its deadline that is cancelled with cause 1, a cancellation with nothing of its swarms left,
a swarm whose last member and child have gone, a sealed task's record whose page has come, and a commit (R222, R267, R271,
R272, R289, R290, R292). The model's choices in it: log entries 11, 17, 18 and 47. -/
def Obligations.SwarmEventsComplete : Prop :=
  ∀ (s : State) (d : Device),
    (∀ idx j, s.dev.joins[idx]? = some j → (∀ t, j.stamp = some t → s.dev.reached t = true) →
      Device.joinStep { s.dev with joins := s.dev.joins.eraseIdx idx } s.env j = .ok d →
      exec (.joinDecrement idx) s = .next (s.withDev d)) ∧
    (∀ idx h, s.dev.heldPush[idx]? = some h → h.cell = none →
      let d0 := { s.dev with heldPush := s.dev.heldPush.eraseIdx idx }
      (∀ c, h.core = some c → d0.pushLocal s.env c h.q = .ok (some d) → exec (.devicePushRetry idx) s = .next (s.withDev d)) ∧
      (h.core = none → d0.backingRoom h.q.ctx = true → d0.ringReady s.env h.q.ctx = true →
        exec (.devicePushRetry idx) s = .next (s.withDev (d0.pushBacking h.q)))) ∧
    (∀ ctx k w, s.dev.swarm ctx k = some w → w.st = .live → s.dev.deadlineOf ctx 4097 k ≠ 0 →
      s.dev.deadlineOf ctx 4097 k ≤ s.plat.dtime.toNat → s.dev.cancelSwarm s.env ctx k 1 = .ok d →
      exec (.deadlineExpiry ctx k) s = .next (s.withDev d)) ∧
    (∀ ctx k w, s.dev.swarm ctx k = some w → w.st = .cancelling → w.root = k → s.dev.quiet ctx (s.dev.treeOf ctx k) = true →
      s.dev.endCancel s.env ctx k w (s.dev.treeOf ctx k) = .ok d →
      exec (.swarmCancelComplete ctx k) s = .next (s.withDev d)) ∧
    (∀ ctx k w, s.dev.swarm ctx k = some w → (w.st = .closed ∨ w.st = .cancelled) → s.dev.members ctx k = 0 →
      s.dev.hasChild ctx k = false → w.watch = 0 →
      exec (.swarmFree ctx k) s = .next (s.withDev (s.dev.updCtx ctx (fun c => { c with swarms := c.swarms.erase k })))) ∧
    (∀ idx h, s.dev.heldSealed[idx]? = some h → h.freed = true →
      let d0 := { s.dev with heldSealed := s.dev.heldSealed.eraseIdx idx }
      d0.swarmOpen h.q.ctx h.q.r.swarm.toNat = true →
      exec (.sealedRequeue idx) s = .next (s.withDev (d0.pushDevice s.env (some h.core) h.q))) ∧
    (∀ core slot g b, s.dev.groups.get (slotKey core slot) = some g → g.phase = .committing → g.sealBuf = some b →
      s.dev.commitGroup s.env (slotKey core slot) g b = .ok d →
      exec (.sealCommitDone core slot) s = .next (s.withDev d))

/-- The events of copies, gather queues, engines and streams go on when they are due: a copy whose every element moves, and
one that meets a fault; a partial tile past its time; ready tiles for a parked popper; an engine entry that starts, a query
and a body that end; a stream's interrupt after its time (R297, R298, R305, R306, R338, R347, R351, R379).
The model's choices in it: log entries 20, 23, 24, 34, 48 and 55. -/
def Obligations.EngineEventsComplete : Prop :=
  ∀ (s : State) (d : Device),
    (∀ core id c, s.dev.copyOn core id = some c → s.dev.copyReady c = true →
      let sh := c.shape
      (∀ d1 j, Device.copyMove s.dev s.env core c sh.1 0 s.dev = (d1, j, none) →
        d1.copyDone s.env core c (sh.1 * sh.2) = .ok d →
        exec (.copyComplete core id) s = .next (s.withDev d)) ∧
      (∀ d1 j code det a ts, Device.copyMove s.dev s.env core c sh.1 0 s.dev = (d1, j, some (.fault code det a ts)) →
        exec (.copyFault core id) s = .next (s.withDev ((d1.retouch ts).copyFaulted s.env core c code det a (j * sh.2))))) ∧
    (∀ core q c t row rows, s.dev.gqs.get (gqKey core q) = some c → c.openTile = some t → t.rows = row :: rows → c.tout ≠ 0 →
      row.time.toNat + c.tout ≤ s.plat.dtime.toNat →
      exec (.gqTimeout core q) s = .next (s.withDev { s.dev with gqs := s.dev.gqs.set (gqKey core q) c.flush })) ∧
    (∀ core q p x f c tiles, s.dev.popTarget core q = some p → s.viewAt core (p.1 % 48) p.2.2.1.low = some x →
      x.sp.park = .gqpop f → s.dev.gqs.get (gqKey core q) = some c →
      s.dev.takeTiles s.env core q (slotKey core (p.1 % 48)) x.g = .ok (d, tiles) → d.lateRows tiles = [] →
      exec (.gqTileDeliver core q) s = .next (s.afterParked core (p.1 % 48) d x
        ((({ x with g := { x.g with usedGq := true }, sp := { x.sp with park := .running } } : View).putTiles f c.fmt c.nk
          c.pad tiles).next 8))) ∧
    (∀ cluster kind t, let l := s.dev.entriesOn (engineKey cluster kind)
      engineReady s.plat cluster kind = true → engineRoom kind l = true →
      s.dev.nextEntry s.env (l.filter (fun t => !t.started)) = some t →
      exec (.engineEntryStart cluster kind) s = .next (s.withDev { s.dev with
        entries := s.dev.entries.upd (engineKey cluster kind) (fun l => l.map (fun u =>
          if u.id = t.id then { u with started := true } else u)) })) ∧
    (∀ cluster id lane t region left q, s.dev.entryRuns (engineKey cluster .col) id = some t → t.work = .colq region left →
      left.find? (fun q => q.lane = lane) = some q →
      q.reg.isSome = true ∨ queryRoom (s.dev.entriesOn (engineKey cluster .col)) ≠ 0 → s.dev.queryDone s.env cluster t region q = .ok d →
      exec (.colqQueryDone cluster id lane) s = .next (s.withDev d)) ∧
    (∀ cluster id t w, s.dev.entryRuns (engineKey cluster .dyn) id = some t → t.work = .dyns w →
      s.dev.dynsBody s.env cluster t w = .ok d → exec (.dynsBodyStep cluster id) s = .next (s.withDev d)) ∧
    (∀ ctx k st, s.dev.stream ctx k = some st → st.tus ≠ 0 → st.fresh ≠ 0 →
      st.first.toNat + 1000 * st.tus ≤ s.plat.dtime.toNat →
      exec (.streamTimeout ctx k) s =
        .next (s.withDev ((s.dev.updStream ctx k (fun s => { s with fresh := 0 })).interrupt s.env st.vec)))

/-! ### Command queues -/

namespace Sys2Proof.Spec

/-- A packet that completes where it stands. -/
def packetEnds (d : Device) (e : Env) (ctx q n : Nat) : Device := (d.setWork ctx q n .none).tryEnd e ctx q n

end Sys2Proof.Spec

/-- Every kind of packet, once it is the packet that a command processor acts on in its queue, goes on with its effect (R369,
R371, R374, R378, R379, R394, R395). The model's choices in it: log entries 29, 30 and 32. -/
def Obligations.PacketsComplete : Prop :=
  ∀ (s : State) (ctx q : Nat) (d0 d : Device) (p : Packet),
    let due (is : List W64 → Bool) : Prop := s.dev.duePacket s.tick ctx q is = some (d0, p)
    let ends (d : Device) : State := s.withDev (Sys2Proof.Spec.packetEnds d s.env ctx q p.n)
    let w (k : Nat) : W64 := p.words.getD k 0
    (due (ofType 0) → exec (.nopPacket ctx q) s = .next (ends d0)) ∧
    (∀ id, due (ofType 1) →
      d0.startLaunch s.env { ctx, q, n := p.n, node := none } (d0.capOf ctx q) (p.words.drop 2) = .ok (d, .launch id) →
      exec (.launch ctx q) s = .next (s.withDev (d.setWork ctx q p.n (.launch id)))) ∧
    (∀ n i, due (ofType 2) → n = ((w 3).extractLsb' 0 16).toNat → p.work = .begin →
      d0.pushTasks s.env ctx (w 2) n 0 = (d, i, none) →
      exec (.tasks ctx q) s = .next (if n ≤ i then ends (d.setWork ctx q p.n (.tasks i))
        else s.withDev (d.setWork ctx q p.n (.tasks i)))) ∧
    (∀ core id, due (ofType 3) →
      d0.startCopy s.env { ctx, q, n := p.n, node := none } (w 2) = .ok (d, .copy core id) →
      exec (.copyPacket ctx q) s = .next (s.withDev (d.setWork ctx q p.n (.copy core id)))) ∧
    (due (ofType 4) →
      d0.signalDec s.env ctx Agent.cp (w 2) ((w 3).extractLsb' 0 16).toNat false false = .ok d →
      exec (.signalPacket ctx q) s = .next (ends d)) ∧
    (due (ofType 5) → exec (.waitPacket ctx q) s = .next (s.withDev (d0.setWork ctx q p.n .wait))) ∧
    (due (ofType 6) →
      let nn := ((w 3).extractLsb' 0 16).toNat
      let maxIter := ((w 3).extractLsb' 32 32).toNat
      let g : Graph := { nodes := w 2, nn, maxIter, iter := 1, rearm := false, bad := false, faulted := false, node := [] }
      (d0.setWork ctx q p.n (.graph g)).startIteration s.env ctx q p.n = .ok d →
      exec (.graph ctx q) s = .next (s.withDev d)) ∧
    (∀ i op (own : Device → List RangeLeaf → Device), due (ofRange op) →
      ((i = .rangeInval ctx q ∧ op = 0 ∧ own = fun d _ => d) ∨
        (i = .rangeAcquire ctx q ∧ op = 1 ∧ own = fun d l => (d.rangeCaches l).rangeEntries (withOwn true) l) ∨
        (i = .rangeRelease ctx q ∧ op = 2 ∧ own = fun d l => (d.rangeDrop l).rangeEntries (withOwn false) l) ∨
        (i = .rangeClass ctx q ∧ op = 3 ∧ own = fun d l => (d.rangeCaches l).rangeEntries (withClass p.words) l)) →
      let r := rangeOf p.words
      ∀ l, d0.rangeLeaves s.plat ctx r.1 r.2 = some l →
      let spans := spansOf r.1 r.2 l
      d0.rangeCommits ctx spans = false → d0.rangeBehind ctx p = false → d0.rangeAborts s.env ctx spans = .ok d →
      exec i s = .next (s.withDev (((own (((d.rangeSettle s.env ctx).rangeStores l).rangeTlbs ctx r.1 r.2) l).updPacket ctx q p.n (fun p => { p with
        work := .none, spans })).tryEnd s.env ctx q p.n))) ∧
    (due (ofType 8) → w 2 = 0 →
      exec (.stream ctx q) s = .next (ends (d0.updCtx ctx (fun c => { c with
        streams := c.streams.erase ((w 3).extractLsb' 0 4).toNat })))) ∧
    (∀ d1 bytes d2, due (ofType 8) → w 2 ≠ 0 → d0.cpRead s.env ctx false (w 2) 64 = .ok (d1, bytes) →
      let k := ((w 3).extractLsb' 0 4).toNat
      let st := HStream.ofWords (bytesToWords bytes)
      streamBad (bytesToWords bytes) = false →
      d1.streamStore s.env ctx st.whost st.waddr (natToBytes 16 0) = .ok d2 →
      exec (.stream ctx q) s = .next (ends { d2.updCtx ctx (fun c => { c with streams := c.streams.set k st }) with
        sridx := d2.sridx.set (sridxKey ctx k) 0 }))

/-- The life of a packet: the host's write of an index, the read of the packet at RIDX, a WAIT whose condition holds, a node
and a packet whose work has ended (R364, R368, R369, R373, R378, R380). The model's choices in it: log entry 29. -/
def Obligations.QueueEventsComplete : Prop :=
  ∀ (s : State) (ctx q : Nat) (c : CQueue), s.dev.queue ctx q = some c →
    (∀ v : W64, s.plat.ready.getLsbD 63 = true → c.widx ≤ v.toNat → v.toNat ≤ c.ridx + 2 ^ c.log2n →
      exec (.qwidxWrite ctx q 8 v) s = .next (s.withDev (s.dev.updQueue ctx q (fun c => { c with widx := v.toNat })))) ∧
    (∀ k (v : W64), k < 16 → ctx < 16 →
      exec (.sridxWrite ctx k 8 v) s = .next (s.withDev { s.dev with sridx := s.dev.sridx.set (sridxKey ctx k) v })) ∧
    (∀ d1 bytes bad d2, c.st = .active → c.dying = false → c.ridx < c.widx →
      s.dev.cpRead s.env ctx c.qhost (c.slot c.ridx) 64 = .ok (d1, bytes) →
      d1.classBad s.plat ctx (bytesToWords bytes) = some bad → d1.takePacket s.env ctx q c (bytesToWords bytes) bad = .ok d2 →
      exec (.packetRead ctx q) s = .next (s.withDev d2)) ∧
    (∀ n p, s.dev.packet ctx q n = some p → p.st = .started →
      (∀ d1 l, p.work = .wait → s.dev.load s.plat s.tick ctx Agent.cp false (p.words.getD 2 0) 8 = .ok (d1, l, false) →
        waitHolds p.words (bytesToNat l) = true →
        exec (.waitSatisfied ctx q n) s = .next (s.withDev (Sys2Proof.Spec.packetEnds d1 s.env ctx q n))) ∧
      (∀ d, p.work = .none → s.dev.endPacket s.env ctx q n = .ok d →
        exec (.packetComplete ctx q n) s = .next (s.withDev d)) ∧
      (∀ id d, p.work = .launch id → s.dev.launchEnded id = true →
        (((s.dev.endLaunch id).1.updPacket ctx q n (fun p => { p with
          work := .none, faulted := p.faulted || (s.dev.endLaunch id).2 })).endPacket s.env ctx q n) = .ok d →
        exec (.packetComplete ctx q n) s = .next (s.withDev d)) ∧
      (∀ g node t d1 bad d2, p.work = .graph g → g.node.get node = some t → t.running = true →
        (∀ next since, t.work ≠ .stream next since) → t.work ≠ .begin →
        s.dev.workEnded t = some (d1, bad) → d1.endNode s.env ctx q n node g t bad p.aborted = .ok d2 →
        exec (.graphNodeComplete ctx q n node) s = .next (s.withDev d2)))

/-! ### Placement, management, pre-emption -/

/-- TEAM_ADMIT places the head team that the distributor offers when its priority is above the waiting record's or that record
cannot be popped, keeping in mind one that does not fit, and else starts the record; a team with no group and no copy in its scratchpad gives back its place; a victim
is saved, or, sealed, aborts and is queued again; a saved team resumes unless a candidate of higher priority comes first (R205,
R209, R224, R401 to R403). The model's choices in it: log entries 25 and 28. -/
def Obligations.PlacementCompletes : Prop :=
  ∀ (s : State) (d : Device),
    (∀ core slot id l idx again, core < 64 → clusterReady s.plat core = true →
      s.dev.offered s.plat core = some (id, l, idx, again) → s.dev.savedFirst s.env core l.prio = false →
      ((∀ at_ r, s.dev.recordFor s.plat core = some (at_, r) → r.r.prio.toNat < l.prio ∨
          (s.dev.popTask s.env slot core at_ r = none ∧ s.dev.balk s.env core at_ r = none)) →
        exec (.teamAdmit (core + 64 * slot)) s = .next (s.withDev (s.dev.placeTeam s.env slot core id l idx again))) ∧
      (∀ at_ r, s.dev.recordFor s.plat core = some (at_, r) → l.prio ≤ r.r.prio.toNat →
        s.dev.popTask s.env slot core at_ r = none → s.dev.balk s.env core at_ r = some d →
        exec (.teamAdmit (core + 64 * slot)) s = .next (s.withDev (d.placeTeam s.env slot core id l idx again)))) ∧
    (∀ core slot at_ r, core < 64 → clusterReady s.plat core = true → s.dev.recordFor s.plat core = some (at_, r) →
      (∀ p, s.dev.offered s.plat core = some p → s.dev.savedFirst s.env core p.2.1.prio = false → p.2.1.prio ≤ r.r.prio.toNat) →
      s.dev.popTask s.env slot core at_ r = some (.ok d) →
      exec (.teamAdmit (core + 64 * slot)) s = .next (s.withDev d)) ∧
    (∀ team t, s.dev.teams.get team = some t → s.dev.teamDone team = true →
      exec (.teamFree team) s = .next (s.withDev { s.dev with teams := s.dev.teams.erase team })) ∧
    (∀ team t cand prio c m, s.dev.teams.get team = some t → topCand (s.dev.waiting s.env) = some (cand, prio) →
      s.dev.victim s.dev.liveTeams = some team → s.dev.roomFor = none → s.dev.teamPrio team + 8 ≤ prio →
      (∀ g ∈ s.dev.teamGroups team, g.2.phase ≠ .committing ∧ g.2.sealBuf = none ∧ ∀ sp ∈ g.2.splits, sp.inside = false) →
      s.dev.ctxs.get t.ctx = some c → c.freeImage = some m → c.savedGroups + (s.dev.teamGroups team).length ≤ 1024 →
      s.dev.saveTeam s.env team m t c = some d →
      exec (.preempt team) s = .next (s.withDev { d with roomFor := some cand })) ∧
    (∀ team t cand prio c m key g gs, s.dev.teams.get team = some t → topCand (s.dev.waiting s.env) = some (cand, prio) →
      s.dev.victim s.dev.liveTeams = some team → s.dev.roomFor = none → s.dev.teamPrio team + 8 ≤ prio →
      s.dev.teamGroups team = (key, g) :: gs → g.sealBuf.isSome = true →
      (∀ g ∈ s.dev.teamGroups team, g.2.phase ≠ .committing ∧ ∀ sp ∈ g.2.splits, sp.inside = false) →
      s.dev.ctxs.get t.ctx = some c → c.freeImage = some m → c.savedGroups + (s.dev.teamGroups team).length ≤ 1024 →
      (s.dev.saveTeam s.env team m t c).isSome = true → s.dev.saveSealed s.env team key g = .ok d →
      exec (.preempt team) s = .next (s.withDev { d with roomFor := some cand })) ∧
    (∀ ctx m core slot c saved i places, m < 256 → core < 64 → s.dev.ctxs.get ctx = some c → c.images.get m = some saved →
      s.dev.imageNow s.env ctx m c saved = i →
      s.dev.resumeCore s.plat ctx i = some core → s.dev.savedPrio s.env core = some i.prio →
      (∀ p, s.dev.offered s.plat core = some p → p.2.1.prio ≤ i.prio) →
      (∀ at_ r, s.dev.recordFor s.plat core = some (at_, r) →
        r.r.prio.toNat ≤ i.prio ∨ s.dev.popTask s.env slot core at_ r = none) →
      s.dev.fit slot core i.demand = some places → s.dev.resumeTeam s.env ctx m core c i places = .ok d →
      exec (.teamResume (256 * ctx + m) (core + 64 * slot)) s = .next (s.withDev d))

/-- The management operations, served while CP has risen and no other is under way: a valid descriptor makes a context or a
queue, RESULT 0, and one whose descriptor's channel is not ready waits; an operation on what does not exist gives RESULT 4; destruction ends the queues' packets and waits for them;
a destroyed queue with no packet left becomes FREE (R365 to R367, R376, R415).
The model's choices in it: log entries 31 and 55. -/
def Obligations.ManagementCompletes : Prop :=
  ∀ (s : State), s.plat.busy = false → s.plat.inReset = false → s.plat.ready.getLsbD 63 = true →
    (∀ c l, s.dev.freeCtx = some c → s.descriptorWaits = false → s.descriptor = some l → ctxOk s.plat.part.capacity l = true →
      ∃ t, exec .createContext s = .next t ∧ t.dev = { s.dev with ctxs := s.dev.ctxs.set c (Ctx.ofWords l) } ∧
        t.plat.result = 0 ∧ t.plat.newCtx = c) ∧
    (s.descriptorWaits = true → exec .createContext s = .next (s.mopStall 1 0 0)) ∧
    (∀ ctx q l, (s.dev.ctxs.get ctx).isSome = true → s.dev.queue ctx q = none → s.descriptorWaits = false →
      s.descriptor = some l → queueOk l = true →
      exec (.createQueue ctx q) s = .next ((s.withDev (s.dev.updCtx ctx (fun c => { c with
        queues := c.queues.set q (CQueue.ofWords l) }))).mopResult 0 false)) ∧
    (∀ ctx q, s.dev.ctxs.get ctx = none →
      exec (.destroyContext ctx) s = .next (s.mopResult 4 false) ∧
      exec (.createQueue ctx q) s = .next (s.mopResult 4 false)) ∧
    (∀ ctx q, s.dev.queue ctx q = none → exec (.destroyQueue ctx q) s = .next (s.mopResult 4 false)) ∧
    (∀ ctx q c, s.dev.queue ctx q = some c →
      exec (.destroyQueue ctx q) s =
        .next (((s.withDev ((s.dev.destroyQ s.env ctx q).freeQ ctx q)).mopResult 0 true).mopDone ctx)) ∧
    (∀ ctx c, s.dev.ctxs.get ctx = some c → c.queues = [] →
      exec (.destroyContext ctx) s = .next (((s.withDev (s.dev.updCtx ctx (fun c => { c with dying := true }))).mopResult 0
        true).mopDone ctx)) ∧
    (∀ ctx q c, s.dev.queue ctx q = some c → c.dying = true → c.pkts = [] →
      exec (.queueFree ctx q) s = .next ((s.withDev (s.dev.updCtx ctx (fun x => { x with
        queues := x.queues.erase q }))).mopDone ctx))

/-! ### The platform -/

/-- The events of reset, time, firmware and attestation go on as R410 to R417 give: reset keeps the fuses and the sensors
alone; its release, not while a sensor reads 115 °C, starts DTIME and CLOCK at 0; an edge of REFCLK adds the increment to
DTIME; a PPS edge counts but for a pulse shorter than 1 µs; BOOT begins and ends, and GO, the report and the rise of a
function change the registers that say so. The model's choices in it: log entries 36, 37, 39 and 49. -/
def Obligations.PlatformEventsComplete : Prop :=
  ∀ (s : State), let p := s.plat
    let on (q : Platform) : State := { s with plat := q }
    (exec .reset s = .next (s.intoReset false) ∧ (s.intoReset false).plat =
      { Platform.reset with part := p.part, dieRev := p.dieRev, svnMin := p.svnMin, uid := p.uid, tsens := p.tsens,
                            staging := (s.intoReset false).plat.staging }) ∧
    (p.inReset = true → p.tripped = false → (∀ k, k < 16 → (p.tsens.get k).toInt < 1840) →
      exec .resetRelease s = .next (on { p with inReset := false, dtime := 0, dfrac := 0, cycles := 0 })) ∧
    (∀ k (t : BitVec 16), k < 16 → 1840 ≤ t.toInt →
      ∃ u, exec (.thermtrip k t) s = .next u ∧ u.plat.inReset = true ∧ u.plat.tripped = true ∧ u.plat.tsens.get k = t) ∧
    (p.inReset = false →
      (∀ high, exec (.linkTraining high) s = .next (on { p with linkWide := some high })) ∧
      (∃ q, exec .refclkEdge s = .next (on q) ∧ (q.dtime ++ q.dfrac) = (p.dtime ++ p.dfrac) + BitVec.ofNat 96 p.inc ∧
        { q with dtime := p.dtime, dfrac := p.dfrac } = p) ∧
      (∃ q, exec .ppsEdge s = .next (if shortPulse s.tick then s else on q) ∧ q.pps.edge = some p.dtime ∧
        (p.pps.en = true → q.pps.cap = p.dtime ∧ q.pps.prev = some p.dtime) ∧ (p.pps.en = false → q.pps.cap = p.pps.cap) ∧
        (∀ a, p.pps.en = true → p.pps.prev = some a → 1000002000 ≤ (p.dtime - a).toNat → q.pps.lock = false ∧ q.inc = p.inc)) ∧
      (∀ v : W32, exec (.ppsctlWrite v) s = .next (on { p with pps := if v.getLsbD 0 then { p.pps with en := true }
        else { p.pps with en := false, lock := false, good := 0, prev := none } })) ∧
      exec .ppscaploRead s = .next { s with
        dev := { s.dev with hostRead := natToBytes 4 p.pps.cap.toNat }
        plat := { p with pps := { p.pps with capHi := some (p.pps.cap.extractLsb' 32 32) } } } ∧
      (p.ready.getLsbD 63 = false → exec .attctlGo s = .next (on { p with attStatus := 3 })) ∧
      (p.ready.getLsbD 63 = true → p.attStatus ≠ 1 →
        exec .attctlGo s = .next (on { p with attStatus := 1, latched := p.nonce })) ∧
      (p.busy = false → p.ready.getLsbD 63 = false → p.booting = none → exec .boot s = .next (on (p.bootStart s.tick))) ∧
      (p.fails < 8 → p.maddr.toNat % 64 = 0 →
        p.bootStart s.tick = { p with busy := true, booting := some (p.maddr.toNat, p.staging) }) ∧
      (∀ bit, p.mayRise bit = true → ∃ t, exec (.functionReady bit) s = .next t ∧
        t.plat.ready = p.ready ||| (1#64 <<< bit) ∧ (bit = 63 → t.plat.staging = []))) ∧
    (∀ a m, p.booting = some (a, m) → exec .boot s = .next (on (p.bootEnd a m)) ∧ (p.bootEnd a m).busy = false ∧
      ((p.bootEnd a m).result ≠ 0 → (p.bootEnd a m).fw = none)) ∧
    (∀ a, p.pps.en = true → p.pps.prev = some a → 1000002000 ≤ (p.dtime - a).toNat →
      exec .ppsEdgeMissed s = .next (on { p with pps := { p.pps with lock := false, good := 0, prev := none } })) ∧
    (∀ a, p.pps.edge = some a → 1100000000 ≤ (p.dtime - a).toNat →
      exec .ppsSeenExpiry s = .next (on { p with pps := { p.pps with edge := none } })) ∧
    (∀ fw, p.fw = some fw → p.attStatus = 1 →
      exec .attestationReport s = .next (on { p with
        attrep := p.reportBody fw ++ signatureOf (p.reportBody fw), attStatus := 2 }) ∧
      (signatureOf (p.reportBody fw)).length = 4627)

/-- The events of energy go on as R416 and R418 to R424 give: a charge of 1 µs, once per 1 µs, moves every context's words and
the meters; a control step, once per 10 µs, moves the core clock by 100 MHz within 1,000 to 2,600, and a sensor at 115 °C puts
the device into reset; a core or engine idle for 20 µs gates and wakes for work; a write of PCAP below 150 stores
150, and one above 550 stores 550. The model's choices in it: log entry 33. -/
def Obligations.EnergyEventsComplete : Prop :=
  ∀ (s : State), let en := s.plat.energy
    (∀ r, s.plat.chargeDue = true → ∃ t, exec (.energyCharge r) s = .next t ∧ t.dev = { s.dev with issues := [] } ∧
        t.plat.energy.tot = en.tot + BitVec.ofNat 64 (readingTotal r) ∧
        t.plat.energy = { en.meter s.plat.dtime r with charges := en.charges + 1, res := t.plat.energy.res } ∧
        t.plat = { s.plat with energy := t.plat.energy } ∧
        (∀ c ∈ s.dev.ctxs.map Prod.fst,
          t.plat.energy.reservoir c = (en.reservoir c).charge en.pcap (s.dev.chargeOf s.tick c r)) ∧
        ∀ c, c ∉ s.dev.ctxs.map Prod.fst → t.plat.energy.res.get c = en.res.get c) ∧
    (∀ r, s.plat.chargeDue = false → exec (.energyCharge r) s = .next s) ∧
    (∀ temps : List (BitVec 16), temps.length = 16 →
      ((∃ v ∈ temps, 1840 ≤ v.toInt) →
        ∃ t, exec (.clockControl temps) s = .next t ∧ t.plat.inReset = true ∧ t.plat.tripped = true) ∧
      (s.plat.inReset = false → (∀ v ∈ temps, v.toInt < 1840) →
        ∃ t, exec (.clockControl temps) s = .next t ∧ t.dev = s.dev ∧
          t.plat.energy = en.control s.plat.dtime.toNat temps ∧
          (1000 ≤ en.mhz → en.mhz ≤ 2600 → 1000 ≤ t.plat.energy.mhz ∧ t.plat.energy.mhz ≤ 2600) ∧
          (s.plat.dtime.toNat / 10000 ≤ en.controls → t.plat.energy = en) ∧
          (en.controls < s.plat.dtime.toNat / 10000 → (∃ v ∈ temps, 1680 ≤ v.toInt) →
            t.plat.energy.mhz = max 1000 (en.mhz - 100) ∧ t.plat.energy.thermal = true))) ∧
    (∀ core, core < 64 → s.dev.coreIdle s.env core = true →
      exec (.coreGateDecide core) s = .next (s.withDev { s.dev with
        coreGate := s.dev.coreGate.set core (idleGate s.plat.dtime .gating (s.dev.coreGate.get core)) })) ∧
    (∀ core, s.dev.coreGate.get core = some .gating → ∃ t, exec (.coreGateCommit core) s = .next t ∧
      t.dev.coreGate.get core = some (.gated false) ∧ (∀ x ∈ t.dev.l1, x.core ≠ core) ∧
      (∀ y ∈ t.dev.l1Lines, y.core ≠ core) ∧ ∀ x ∈ t.dev.icache, x.core ≠ core) ∧
    (∀ core, s.dev.coreGate.get core = some (.gated true) →
      exec (.coreWake core) s = .next (s.withDev { s.dev with coreGate := s.dev.coreGate.erase core })) ∧
    (∀ cluster kind, cluster < 8 → s.dev.entriesOn (engineKey cluster kind) = [] →
      let gate := idleGate s.plat.dtime (.gated false) (s.dev.engGate.get (engineKey cluster kind))
      exec (.engineGate cluster kind) s =
        .next (s.withDev { s.dev with engGate := s.dev.engGate.set (engineKey cluster kind) gate })) ∧
    (∀ v : W64, s.plat.inReset = false →
      let w := (v.extractLsb' 0 10).toNat
      let stores : Nat → Prop := fun n => exec (.pcapWrite 8 v) s = .next { s with plat := { s.plat with energy := { en with pcap := n } } }
      (w < 150 → stores 150) ∧ (550 < w → stores 550) ∧ (150 ≤ w → w ≤ 550 → stores w))

/-- The events of errors go on as R425 to R430 give, outside reset: a correction is counted at its location, an uncorrectable
error has the effect of its location, a parity error takes its cluster offline, the host's read index frees slots of the ring
and its read of the drop count clears it. The model's choices in it: log entry 34. -/
def Obligations.ErrorEventsComplete : Prop :=
  ∀ (s : State), s.plat.inReset = false →
    (∀ loc, (∀ c row pa, loc ≠ .icache c row pa) → locOk loc = true →
      exec (.correctedError loc) s = .next (s.withDev (s.dev.corrected s.env loc))) ∧
    (∀ loc, locOk loc = true → exec (.uncorrectableError loc) s = .next (s.withDev (s.dev.uncorrectable s.env loc))) ∧
    (∀ c row pa, ∃ t, exec (.uncorrectableError (.icache c row pa)) s = .next t ∧ t.dev.mem = s.dev.mem ∧
      ∀ x ∈ t.dev.icache, x.core ≠ c ∨ x.line ≠ lineKey .dev pa) ∧
    (∀ k, k < 8 → ∃ t, exec (.controlParityError k) s = .next t ∧ t.plat = s.plat.takeOffline k ∧
      t.plat.ready.getLsbD (32 + k) = false ∧ t.plat.ready.getLsbD (40 + k) = false ∧ t.plat.ready.getLsbD (48 + k) = false) ∧
    (∀ width v, exec (.erridxWrite width v) s = .next (s.withDev (s.dev.writeErridx s.env width v))) ∧
    exec .erdropRead s = .next (s.withDev { s.dev with
      hostRead := natToBytes 8 s.dev.errors.drop.toNat, errors := { s.dev.errors with drop := 0 } })

/-- The host's accesses go on: a write of a register, in BAR0 or the management port, with all that it starts; a write of MADDR, or
of a word of ATTNONCE, acts on it alone; MADDR and each word of
ATTNONCE read back as written, and MOP, which is write-only, reads zero; BAR2 is the staging buffer before CP has risen and
device memory after, where a read within the memory gives its bytes and a write puts them; a write of the staging buffer while
the ROM checks an image changes any of the bytes that the ROM reads, or none (R8, R364, R365, R393, R412 to R414). Reads of the
staging buffer and the AtomicOps that the link carries are not stated.
The model's choices in it: log entries 13, 35 and 36. -/
def Obligations.HostAccessCompletes : Prop :=
  ∀ (s : State), s.plat.inReset = false →
    (∀ off width v, exec (.registerWrite .bar0 off width v) s = .next (s.writeBar0 off width v)) ∧
    (∀ off width v, exec (.registerWrite .i3c off width v) s = .next { s with plat := s.plat.writeI3c off width v }) ∧
    (∀ v, ∃ t, exec (.registerWrite .bar0 0x100 8 v) s = .next t ∧ t.bar0Word 0x100 = v ∧ t.dev = s.dev) ∧
    (∀ k v, k < 8 → ∃ t, exec (.registerWrite .i3c (0x200 + 4 * k) 4 v) s = .next t ∧
      t.plat.i3cWord (0x200 + 4 * k) = v.extractLsb' 0 32 ∧ t.dev = s.dev ∧
      ∀ j, j < 8 → j ≠ k → t.plat.i3cWord (0x200 + 4 * j) = s.plat.i3cWord (0x200 + 4 * j)) ∧
    s.bar0Word 0x108 = 0 ∧
    (∀ o n, n ≠ 0 → s.plat.ready.getLsbD 63 = true → o + n ≤ s.plat.part.capacity → linesReady s.plat.ready o n = true →
      s.dev.poisoned .dev o n = false →
      exec (.bar2Access (.read o n)) s = .next (s.withDev { s.dev with hostRead := natToBytes n (readNat s.dev.mem o n) })) ∧
    (∀ o l, l ≠ [] → s.plat.ready.getLsbD 63 = true → o + l.length ≤ s.plat.part.capacity →
      linesReady s.plat.ready o l.length = true →
      exec (.bar2Access (.write o l)) s = .next (s.withDev { s.dev.storeLong .dev o l (l.length / 128 + 2) with old := s.dev.old })) ∧
    (∀ o l, l ≠ [] → s.plat.ready.getLsbD 63 = false →
      exec (.bar2Access (.write o l)) s = .next { s with plat := { s.plat with
        staging := writeBytes s.plat.staging o (l.take (stagingSize - o))
        booting := s.plat.booting.map (fun b => (b.1, raceBytes s.tick b.2 o (l.take (stagingSize - o)))) } })
end

