-- ==== Sys2Proof/Laws/State.lean ====
section
/-! SUPPORT. What each update of a record leaves alone: one lemma for each field and update, true by definition. -/

namespace Sys2Proof.Machine

/-! ### State.withDev -/

@[simp] theorem State.withDev_plat (s : State) (d : Device) : (s.withDev d).plat = s.plat := rfl
@[simp] theorem State.withDev_cur (s : State) (d : Device) : (s.withDev d).cur = s.cur := rfl
@[simp] theorem State.withDev_agenda (s : State) (d : Device) : (s.withDev d).agenda = s.agenda := rfl
@[simp] theorem State.withDev_tick (s : State) (d : Device) : (s.withDev d).tick = s.tick := rfl
@[simp] theorem State.withDev_dev (s : State) (d : Device) : (s.withDev d).dev = d := rfl

/-! ### State.begin -/

@[simp] theorem State.begin_cur (s : State) (rest : List Turn) : (s.begin rest).cur = s.cur := rfl
@[simp] theorem State.begin_agenda (s : State) (rest : List Turn) : (s.begin rest).agenda = rest := rfl
@[simp] theorem State.begin_tick (s : State) (rest : List Turn) : (s.begin rest).tick = s.tick + 1 := rfl

/-! ### State.mopResult -/

@[simp] theorem State.mopResult_dev (s : State) (r : Nat) (busy : Bool) : (s.mopResult r busy).dev = s.dev := rfl
@[simp] theorem State.mopResult_cur (s : State) (r : Nat) (busy : Bool) : (s.mopResult r busy).cur = s.cur := rfl
@[simp] theorem State.mopResult_agenda (s : State) (r : Nat) (busy : Bool) : (s.mopResult r busy).agenda = s.agenda := rfl
@[simp] theorem State.mopResult_tick (s : State) (r : Nat) (busy : Bool) : (s.mopResult r busy).tick = s.tick := rfl
@[simp] theorem State.mopResult_plat (s : State) (r : Nat) (busy : Bool) : (s.mopResult r busy).plat = { s.plat with result := r, busy, mopWait := none } := rfl

/-! ### Device.putGroup -/

@[simp] theorem Device.putGroup_mem (d : Device) (key : Nat) (g : Group) : (d.putGroup key g).mem = d.mem := rfl
@[simp] theorem Device.putGroup_host (d : Device) (key : Nat) (g : Group) : (d.putGroup key g).host = d.host := rfl
@[simp] theorem Device.putGroup_peer (d : Device) (key : Nat) (g : Group) : (d.putGroup key g).peer = d.peer := rfl
@[simp] theorem Device.putGroup_poison (d : Device) (key : Nat) (g : Group) : (d.putGroup key g).poison = d.poison := rfl
@[simp] theorem Device.putGroup_spad (d : Device) (key : Nat) (g : Group) : (d.putGroup key g).spad = d.spad := rfl
@[simp] theorem Device.putGroup_spadOwner (d : Device) (key : Nat) (g : Group) : (d.putGroup key g).spadOwner = d.spadOwner := rfl
@[simp] theorem Device.putGroup_ctxs (d : Device) (key : Nat) (g : Group) : (d.putGroup key g).ctxs = d.ctxs := rfl
@[simp] theorem Device.putGroup_teams (d : Device) (key : Nat) (g : Group) : (d.putGroup key g).teams = d.teams := rfl
@[simp] theorem Device.putGroup_launches (d : Device) (key : Nat) (g : Group) : (d.putGroup key g).launches = d.launches := rfl
@[simp] theorem Device.putGroup_local_ (d : Device) (key : Nat) (g : Group) : (d.putGroup key g).local_ = d.local_ := rfl
@[simp] theorem Device.putGroup_copies (d : Device) (key : Nat) (g : Group) : (d.putGroup key g).copies = d.copies := rfl
@[simp] theorem Device.putGroup_entries (d : Device) (key : Nat) (g : Group) : (d.putGroup key g).entries = d.entries := rfl
@[simp] theorem Device.putGroup_gqs (d : Device) (key : Nat) (g : Group) : (d.putGroup key g).gqs = d.gqs := rfl
@[simp] theorem Device.putGroup_drains (d : Device) (key : Nat) (g : Group) : (d.putGroup key g).drains = d.drains := rfl
@[simp] theorem Device.putGroup_lends (d : Device) (key : Nat) (g : Group) : (d.putGroup key g).lends = d.lends := rfl
@[simp] theorem Device.putGroup_parkedLends (d : Device) (key : Nat) (g : Group) : (d.putGroup key g).parkedLends = d.parkedLends := rfl
@[simp] theorem Device.putGroup_balked (d : Device) (key : Nat) (g : Group) : (d.putGroup key g).balked = d.balked := rfl
@[simp] theorem Device.putGroup_monitors (d : Device) (key : Nat) (g : Group) : (d.putGroup key g).monitors = d.monitors := rfl
@[simp] theorem Device.putGroup_futStamps (d : Device) (key : Nat) (g : Group) : (d.putGroup key g).futStamps = d.futStamps := rfl
@[simp] theorem Device.putGroup_joins (d : Device) (key : Nat) (g : Group) : (d.putGroup key g).joins = d.joins := rfl
@[simp] theorem Device.putGroup_joinFired (d : Device) (key : Nat) (g : Group) : (d.putGroup key g).joinFired = d.joinFired := rfl
@[simp] theorem Device.putGroup_heldPush (d : Device) (key : Nat) (g : Group) : (d.putGroup key g).heldPush = d.heldPush := rfl
@[simp] theorem Device.putGroup_heldSealed (d : Device) (key : Nat) (g : Group) : (d.putGroup key g).heldSealed = d.heldSealed := rfl
@[simp] theorem Device.putGroup_pageReqs (d : Device) (key : Nat) (g : Group) : (d.putGroup key g).pageReqs = d.pageReqs := rfl
@[simp] theorem Device.putGroup_privUsed (d : Device) (key : Nat) (g : Group) : (d.putGroup key g).privUsed = d.privUsed := rfl
@[simp] theorem Device.putGroup_touches (d : Device) (key : Nat) (g : Group) : (d.putGroup key g).touches = d.touches := rfl
@[simp] theorem Device.putGroup_l1 (d : Device) (key : Nat) (g : Group) : (d.putGroup key g).l1 = d.l1 := rfl
@[simp] theorem Device.putGroup_l1Lines (d : Device) (key : Nat) (g : Group) : (d.putGroup key g).l1Lines = d.l1Lines := rfl
@[simp] theorem Device.putGroup_icache (d : Device) (key : Nat) (g : Group) : (d.putGroup key g).icache = d.icache := rfl
@[simp] theorem Device.putGroup_old (d : Device) (key : Nat) (g : Group) : (d.putGroup key g).old = d.old := rfl
@[simp] theorem Device.putGroup_tlb (d : Device) (key : Nat) (g : Group) : (d.putGroup key g).tlb = d.tlb := rfl
@[simp] theorem Device.putGroup_tables (d : Device) (key : Nat) (g : Group) : (d.putGroup key g).tables = d.tables := rfl
@[simp] theorem Device.putGroup_coreGate (d : Device) (key : Nat) (g : Group) : (d.putGroup key g).coreGate = d.coreGate := rfl
@[simp] theorem Device.putGroup_engGate (d : Device) (key : Nat) (g : Group) : (d.putGroup key g).engGate = d.engGate := rfl
@[simp] theorem Device.putGroup_errors (d : Device) (key : Nat) (g : Group) : (d.putGroup key g).errors = d.errors := rfl
@[simp] theorem Device.putGroup_msix (d : Device) (key : Nat) (g : Group) : (d.putGroup key g).msix = d.msix := rfl
@[simp] theorem Device.putGroup_sridx (d : Device) (key : Nat) (g : Group) : (d.putGroup key g).sridx = d.sridx := rfl
@[simp] theorem Device.putGroup_nextId (d : Device) (key : Nat) (g : Group) : (d.putGroup key g).nextId = d.nextId := rfl
@[simp] theorem Device.putGroup_rrBacking (d : Device) (key : Nat) (g : Group) : (d.putGroup key g).rrBacking = d.rrBacking := rfl
@[simp] theorem Device.putGroup_rrQueue (d : Device) (key : Nat) (g : Group) : (d.putGroup key g).rrQueue = d.rrQueue := rfl
@[simp] theorem Device.putGroup_roomFor (d : Device) (key : Nat) (g : Group) : (d.putGroup key g).roomFor = d.roomFor := rfl
@[simp] theorem Device.putGroup_issues (d : Device) (key : Nat) (g : Group) : (d.putGroup key g).issues = d.issues := rfl
@[simp] theorem Device.putGroup_cycleIssues (d : Device) (key : Nat) (g : Group) : (d.putGroup key g).cycleIssues = d.cycleIssues := rfl
@[simp] theorem Device.putGroup_owed (d : Device) (key : Nat) (g : Group) : (d.putGroup key g).owed = d.owed := rfl
@[simp] theorem Device.putGroup_hostRead (d : Device) (key : Nat) (g : Group) : (d.putGroup key g).hostRead = d.hostRead := rfl
@[simp] theorem Device.putGroup_groups (d : Device) (key : Nat) (g : Group) : (d.putGroup key g).groups = d.groups.set key g := rfl

/-! ### Device.updCtx -/

@[simp] theorem Device.updCtx_mem (d : Device) (ctx : Nat) (f : Ctx → Ctx) : (d.updCtx ctx f).mem = d.mem := rfl
@[simp] theorem Device.updCtx_host (d : Device) (ctx : Nat) (f : Ctx → Ctx) : (d.updCtx ctx f).host = d.host := rfl
@[simp] theorem Device.updCtx_peer (d : Device) (ctx : Nat) (f : Ctx → Ctx) : (d.updCtx ctx f).peer = d.peer := rfl
@[simp] theorem Device.updCtx_poison (d : Device) (ctx : Nat) (f : Ctx → Ctx) : (d.updCtx ctx f).poison = d.poison := rfl
@[simp] theorem Device.updCtx_spad (d : Device) (ctx : Nat) (f : Ctx → Ctx) : (d.updCtx ctx f).spad = d.spad := rfl
@[simp] theorem Device.updCtx_spadOwner (d : Device) (ctx : Nat) (f : Ctx → Ctx) : (d.updCtx ctx f).spadOwner = d.spadOwner := rfl
@[simp] theorem Device.updCtx_groups (d : Device) (ctx : Nat) (f : Ctx → Ctx) : (d.updCtx ctx f).groups = d.groups := rfl
@[simp] theorem Device.updCtx_teams (d : Device) (ctx : Nat) (f : Ctx → Ctx) : (d.updCtx ctx f).teams = d.teams := rfl
@[simp] theorem Device.updCtx_launches (d : Device) (ctx : Nat) (f : Ctx → Ctx) : (d.updCtx ctx f).launches = d.launches := rfl
@[simp] theorem Device.updCtx_local_ (d : Device) (ctx : Nat) (f : Ctx → Ctx) : (d.updCtx ctx f).local_ = d.local_ := rfl
@[simp] theorem Device.updCtx_copies (d : Device) (ctx : Nat) (f : Ctx → Ctx) : (d.updCtx ctx f).copies = d.copies := rfl
@[simp] theorem Device.updCtx_entries (d : Device) (ctx : Nat) (f : Ctx → Ctx) : (d.updCtx ctx f).entries = d.entries := rfl
@[simp] theorem Device.updCtx_gqs (d : Device) (ctx : Nat) (f : Ctx → Ctx) : (d.updCtx ctx f).gqs = d.gqs := rfl
@[simp] theorem Device.updCtx_drains (d : Device) (ctx : Nat) (f : Ctx → Ctx) : (d.updCtx ctx f).drains = d.drains := rfl
@[simp] theorem Device.updCtx_lends (d : Device) (ctx : Nat) (f : Ctx → Ctx) : (d.updCtx ctx f).lends = d.lends := rfl
@[simp] theorem Device.updCtx_parkedLends (d : Device) (ctx : Nat) (f : Ctx → Ctx) : (d.updCtx ctx f).parkedLends = d.parkedLends := rfl
@[simp] theorem Device.updCtx_balked (d : Device) (ctx : Nat) (f : Ctx → Ctx) : (d.updCtx ctx f).balked = d.balked := rfl
@[simp] theorem Device.updCtx_monitors (d : Device) (ctx : Nat) (f : Ctx → Ctx) : (d.updCtx ctx f).monitors = d.monitors := rfl
@[simp] theorem Device.updCtx_futStamps (d : Device) (ctx : Nat) (f : Ctx → Ctx) : (d.updCtx ctx f).futStamps = d.futStamps := rfl
@[simp] theorem Device.updCtx_joins (d : Device) (ctx : Nat) (f : Ctx → Ctx) : (d.updCtx ctx f).joins = d.joins := rfl
@[simp] theorem Device.updCtx_joinFired (d : Device) (ctx : Nat) (f : Ctx → Ctx) : (d.updCtx ctx f).joinFired = d.joinFired := rfl
@[simp] theorem Device.updCtx_heldPush (d : Device) (ctx : Nat) (f : Ctx → Ctx) : (d.updCtx ctx f).heldPush = d.heldPush := rfl
@[simp] theorem Device.updCtx_heldSealed (d : Device) (ctx : Nat) (f : Ctx → Ctx) : (d.updCtx ctx f).heldSealed = d.heldSealed := rfl
@[simp] theorem Device.updCtx_pageReqs (d : Device) (ctx : Nat) (f : Ctx → Ctx) : (d.updCtx ctx f).pageReqs = d.pageReqs := rfl
@[simp] theorem Device.updCtx_privUsed (d : Device) (ctx : Nat) (f : Ctx → Ctx) : (d.updCtx ctx f).privUsed = d.privUsed := rfl
@[simp] theorem Device.updCtx_touches (d : Device) (ctx : Nat) (f : Ctx → Ctx) : (d.updCtx ctx f).touches = d.touches := rfl
@[simp] theorem Device.updCtx_l1 (d : Device) (ctx : Nat) (f : Ctx → Ctx) : (d.updCtx ctx f).l1 = d.l1 := rfl
@[simp] theorem Device.updCtx_l1Lines (d : Device) (ctx : Nat) (f : Ctx → Ctx) : (d.updCtx ctx f).l1Lines = d.l1Lines := rfl
@[simp] theorem Device.updCtx_icache (d : Device) (ctx : Nat) (f : Ctx → Ctx) : (d.updCtx ctx f).icache = d.icache := rfl
@[simp] theorem Device.updCtx_old (d : Device) (ctx : Nat) (f : Ctx → Ctx) : (d.updCtx ctx f).old = d.old := rfl
@[simp] theorem Device.updCtx_tlb (d : Device) (ctx : Nat) (f : Ctx → Ctx) : (d.updCtx ctx f).tlb = d.tlb := rfl
@[simp] theorem Device.updCtx_tables (d : Device) (ctx : Nat) (f : Ctx → Ctx) : (d.updCtx ctx f).tables = d.tables := rfl
@[simp] theorem Device.updCtx_coreGate (d : Device) (ctx : Nat) (f : Ctx → Ctx) : (d.updCtx ctx f).coreGate = d.coreGate := rfl
@[simp] theorem Device.updCtx_engGate (d : Device) (ctx : Nat) (f : Ctx → Ctx) : (d.updCtx ctx f).engGate = d.engGate := rfl
@[simp] theorem Device.updCtx_errors (d : Device) (ctx : Nat) (f : Ctx → Ctx) : (d.updCtx ctx f).errors = d.errors := rfl
@[simp] theorem Device.updCtx_msix (d : Device) (ctx : Nat) (f : Ctx → Ctx) : (d.updCtx ctx f).msix = d.msix := rfl
@[simp] theorem Device.updCtx_sridx (d : Device) (ctx : Nat) (f : Ctx → Ctx) : (d.updCtx ctx f).sridx = d.sridx := rfl
@[simp] theorem Device.updCtx_nextId (d : Device) (ctx : Nat) (f : Ctx → Ctx) : (d.updCtx ctx f).nextId = d.nextId := rfl
@[simp] theorem Device.updCtx_rrBacking (d : Device) (ctx : Nat) (f : Ctx → Ctx) : (d.updCtx ctx f).rrBacking = d.rrBacking := rfl
@[simp] theorem Device.updCtx_rrQueue (d : Device) (ctx : Nat) (f : Ctx → Ctx) : (d.updCtx ctx f).rrQueue = d.rrQueue := rfl
@[simp] theorem Device.updCtx_roomFor (d : Device) (ctx : Nat) (f : Ctx → Ctx) : (d.updCtx ctx f).roomFor = d.roomFor := rfl
@[simp] theorem Device.updCtx_issues (d : Device) (ctx : Nat) (f : Ctx → Ctx) : (d.updCtx ctx f).issues = d.issues := rfl
@[simp] theorem Device.updCtx_cycleIssues (d : Device) (ctx : Nat) (f : Ctx → Ctx) : (d.updCtx ctx f).cycleIssues = d.cycleIssues := rfl
@[simp] theorem Device.updCtx_owed (d : Device) (ctx : Nat) (f : Ctx → Ctx) : (d.updCtx ctx f).owed = d.owed := rfl
@[simp] theorem Device.updCtx_hostRead (d : Device) (ctx : Nat) (f : Ctx → Ctx) : (d.updCtx ctx f).hostRead = d.hostRead := rfl
@[simp] theorem Device.updCtx_ctxs (d : Device) (ctx : Nat) (f : Ctx → Ctx) : (d.updCtx ctx f).ctxs = d.ctxs.upd ctx f := rfl

/-! ### Device.setBar -/

@[simp] theorem Device.setBar_mem (d : Device) (team n : Nat) (b : Barrier) : (d.setBar team n b).mem = d.mem := rfl
@[simp] theorem Device.setBar_host (d : Device) (team n : Nat) (b : Barrier) : (d.setBar team n b).host = d.host := rfl
@[simp] theorem Device.setBar_peer (d : Device) (team n : Nat) (b : Barrier) : (d.setBar team n b).peer = d.peer := rfl
@[simp] theorem Device.setBar_poison (d : Device) (team n : Nat) (b : Barrier) : (d.setBar team n b).poison = d.poison := rfl
@[simp] theorem Device.setBar_spad (d : Device) (team n : Nat) (b : Barrier) : (d.setBar team n b).spad = d.spad := rfl
@[simp] theorem Device.setBar_spadOwner (d : Device) (team n : Nat) (b : Barrier) : (d.setBar team n b).spadOwner = d.spadOwner := rfl
@[simp] theorem Device.setBar_ctxs (d : Device) (team n : Nat) (b : Barrier) : (d.setBar team n b).ctxs = d.ctxs := rfl
@[simp] theorem Device.setBar_groups (d : Device) (team n : Nat) (b : Barrier) : (d.setBar team n b).groups = d.groups := rfl
@[simp] theorem Device.setBar_launches (d : Device) (team n : Nat) (b : Barrier) : (d.setBar team n b).launches = d.launches := rfl
@[simp] theorem Device.setBar_local_ (d : Device) (team n : Nat) (b : Barrier) : (d.setBar team n b).local_ = d.local_ := rfl
@[simp] theorem Device.setBar_copies (d : Device) (team n : Nat) (b : Barrier) : (d.setBar team n b).copies = d.copies := rfl
@[simp] theorem Device.setBar_entries (d : Device) (team n : Nat) (b : Barrier) : (d.setBar team n b).entries = d.entries := rfl
@[simp] theorem Device.setBar_gqs (d : Device) (team n : Nat) (b : Barrier) : (d.setBar team n b).gqs = d.gqs := rfl
@[simp] theorem Device.setBar_drains (d : Device) (team n : Nat) (b : Barrier) : (d.setBar team n b).drains = d.drains := rfl
@[simp] theorem Device.setBar_lends (d : Device) (team n : Nat) (b : Barrier) : (d.setBar team n b).lends = d.lends := rfl
@[simp] theorem Device.setBar_parkedLends (d : Device) (team n : Nat) (b : Barrier) : (d.setBar team n b).parkedLends = d.parkedLends := rfl
@[simp] theorem Device.setBar_balked (d : Device) (team n : Nat) (b : Barrier) : (d.setBar team n b).balked = d.balked := rfl
@[simp] theorem Device.setBar_monitors (d : Device) (team n : Nat) (b : Barrier) : (d.setBar team n b).monitors = d.monitors := rfl
@[simp] theorem Device.setBar_futStamps (d : Device) (team n : Nat) (b : Barrier) : (d.setBar team n b).futStamps = d.futStamps := rfl
@[simp] theorem Device.setBar_joins (d : Device) (team n : Nat) (b : Barrier) : (d.setBar team n b).joins = d.joins := rfl
@[simp] theorem Device.setBar_joinFired (d : Device) (team n : Nat) (b : Barrier) : (d.setBar team n b).joinFired = d.joinFired := rfl
@[simp] theorem Device.setBar_heldPush (d : Device) (team n : Nat) (b : Barrier) : (d.setBar team n b).heldPush = d.heldPush := rfl
@[simp] theorem Device.setBar_heldSealed (d : Device) (team n : Nat) (b : Barrier) : (d.setBar team n b).heldSealed = d.heldSealed := rfl
@[simp] theorem Device.setBar_pageReqs (d : Device) (team n : Nat) (b : Barrier) : (d.setBar team n b).pageReqs = d.pageReqs := rfl
@[simp] theorem Device.setBar_privUsed (d : Device) (team n : Nat) (b : Barrier) : (d.setBar team n b).privUsed = d.privUsed := rfl
@[simp] theorem Device.setBar_touches (d : Device) (team n : Nat) (b : Barrier) : (d.setBar team n b).touches = d.touches := rfl
@[simp] theorem Device.setBar_l1 (d : Device) (team n : Nat) (b : Barrier) : (d.setBar team n b).l1 = d.l1 := rfl
@[simp] theorem Device.setBar_l1Lines (d : Device) (team n : Nat) (b : Barrier) : (d.setBar team n b).l1Lines = d.l1Lines := rfl
@[simp] theorem Device.setBar_icache (d : Device) (team n : Nat) (b : Barrier) : (d.setBar team n b).icache = d.icache := rfl
@[simp] theorem Device.setBar_old (d : Device) (team n : Nat) (b : Barrier) : (d.setBar team n b).old = d.old := rfl
@[simp] theorem Device.setBar_tlb (d : Device) (team n : Nat) (b : Barrier) : (d.setBar team n b).tlb = d.tlb := rfl
@[simp] theorem Device.setBar_tables (d : Device) (team n : Nat) (b : Barrier) : (d.setBar team n b).tables = d.tables := rfl
@[simp] theorem Device.setBar_coreGate (d : Device) (team n : Nat) (b : Barrier) : (d.setBar team n b).coreGate = d.coreGate := rfl
@[simp] theorem Device.setBar_engGate (d : Device) (team n : Nat) (b : Barrier) : (d.setBar team n b).engGate = d.engGate := rfl
@[simp] theorem Device.setBar_errors (d : Device) (team n : Nat) (b : Barrier) : (d.setBar team n b).errors = d.errors := rfl
@[simp] theorem Device.setBar_msix (d : Device) (team n : Nat) (b : Barrier) : (d.setBar team n b).msix = d.msix := rfl
@[simp] theorem Device.setBar_sridx (d : Device) (team n : Nat) (b : Barrier) : (d.setBar team n b).sridx = d.sridx := rfl
@[simp] theorem Device.setBar_nextId (d : Device) (team n : Nat) (b : Barrier) : (d.setBar team n b).nextId = d.nextId := rfl
@[simp] theorem Device.setBar_rrBacking (d : Device) (team n : Nat) (b : Barrier) : (d.setBar team n b).rrBacking = d.rrBacking := rfl
@[simp] theorem Device.setBar_rrQueue (d : Device) (team n : Nat) (b : Barrier) : (d.setBar team n b).rrQueue = d.rrQueue := rfl
@[simp] theorem Device.setBar_roomFor (d : Device) (team n : Nat) (b : Barrier) : (d.setBar team n b).roomFor = d.roomFor := rfl
@[simp] theorem Device.setBar_issues (d : Device) (team n : Nat) (b : Barrier) : (d.setBar team n b).issues = d.issues := rfl
@[simp] theorem Device.setBar_cycleIssues (d : Device) (team n : Nat) (b : Barrier) : (d.setBar team n b).cycleIssues = d.cycleIssues := rfl
@[simp] theorem Device.setBar_owed (d : Device) (team n : Nat) (b : Barrier) : (d.setBar team n b).owed = d.owed := rfl
@[simp] theorem Device.setBar_hostRead (d : Device) (team n : Nat) (b : Barrier) : (d.setBar team n b).hostRead = d.hostRead := rfl

/-! ### Device.releaseBar -/

@[simp] theorem Device.releaseBar_mem (d : Device) (team n : Nat) (v : W32) : (d.releaseBar team n v).mem = d.mem := rfl
@[simp] theorem Device.releaseBar_host (d : Device) (team n : Nat) (v : W32) : (d.releaseBar team n v).host = d.host := rfl
@[simp] theorem Device.releaseBar_peer (d : Device) (team n : Nat) (v : W32) : (d.releaseBar team n v).peer = d.peer := rfl
@[simp] theorem Device.releaseBar_poison (d : Device) (team n : Nat) (v : W32) : (d.releaseBar team n v).poison = d.poison := rfl
@[simp] theorem Device.releaseBar_spad (d : Device) (team n : Nat) (v : W32) : (d.releaseBar team n v).spad = d.spad := rfl
@[simp] theorem Device.releaseBar_spadOwner (d : Device) (team n : Nat) (v : W32) : (d.releaseBar team n v).spadOwner = d.spadOwner := rfl
@[simp] theorem Device.releaseBar_ctxs (d : Device) (team n : Nat) (v : W32) : (d.releaseBar team n v).ctxs = d.ctxs := rfl
@[simp] theorem Device.releaseBar_teams (d : Device) (team n : Nat) (v : W32) : (d.releaseBar team n v).teams = d.teams := rfl
@[simp] theorem Device.releaseBar_launches (d : Device) (team n : Nat) (v : W32) : (d.releaseBar team n v).launches = d.launches := rfl
@[simp] theorem Device.releaseBar_local_ (d : Device) (team n : Nat) (v : W32) : (d.releaseBar team n v).local_ = d.local_ := rfl
@[simp] theorem Device.releaseBar_copies (d : Device) (team n : Nat) (v : W32) : (d.releaseBar team n v).copies = d.copies := rfl
@[simp] theorem Device.releaseBar_entries (d : Device) (team n : Nat) (v : W32) : (d.releaseBar team n v).entries = d.entries := rfl
@[simp] theorem Device.releaseBar_gqs (d : Device) (team n : Nat) (v : W32) : (d.releaseBar team n v).gqs = d.gqs := rfl
@[simp] theorem Device.releaseBar_drains (d : Device) (team n : Nat) (v : W32) : (d.releaseBar team n v).drains = d.drains := rfl
@[simp] theorem Device.releaseBar_lends (d : Device) (team n : Nat) (v : W32) : (d.releaseBar team n v).lends = d.lends := rfl
@[simp] theorem Device.releaseBar_parkedLends (d : Device) (team n : Nat) (v : W32) : (d.releaseBar team n v).parkedLends = d.parkedLends := rfl
@[simp] theorem Device.releaseBar_balked (d : Device) (team n : Nat) (v : W32) : (d.releaseBar team n v).balked = d.balked := rfl
@[simp] theorem Device.releaseBar_monitors (d : Device) (team n : Nat) (v : W32) : (d.releaseBar team n v).monitors = d.monitors := rfl
@[simp] theorem Device.releaseBar_futStamps (d : Device) (team n : Nat) (v : W32) : (d.releaseBar team n v).futStamps = d.futStamps := rfl
@[simp] theorem Device.releaseBar_joins (d : Device) (team n : Nat) (v : W32) : (d.releaseBar team n v).joins = d.joins := rfl
@[simp] theorem Device.releaseBar_joinFired (d : Device) (team n : Nat) (v : W32) : (d.releaseBar team n v).joinFired = d.joinFired := rfl
@[simp] theorem Device.releaseBar_heldPush (d : Device) (team n : Nat) (v : W32) : (d.releaseBar team n v).heldPush = d.heldPush := rfl
@[simp] theorem Device.releaseBar_heldSealed (d : Device) (team n : Nat) (v : W32) : (d.releaseBar team n v).heldSealed = d.heldSealed := rfl
@[simp] theorem Device.releaseBar_pageReqs (d : Device) (team n : Nat) (v : W32) : (d.releaseBar team n v).pageReqs = d.pageReqs := rfl
@[simp] theorem Device.releaseBar_privUsed (d : Device) (team n : Nat) (v : W32) : (d.releaseBar team n v).privUsed = d.privUsed := rfl
@[simp] theorem Device.releaseBar_touches (d : Device) (team n : Nat) (v : W32) : (d.releaseBar team n v).touches = d.touches := rfl
@[simp] theorem Device.releaseBar_l1 (d : Device) (team n : Nat) (v : W32) : (d.releaseBar team n v).l1 = d.l1 := rfl
@[simp] theorem Device.releaseBar_l1Lines (d : Device) (team n : Nat) (v : W32) : (d.releaseBar team n v).l1Lines = d.l1Lines := rfl
@[simp] theorem Device.releaseBar_icache (d : Device) (team n : Nat) (v : W32) : (d.releaseBar team n v).icache = d.icache := rfl
@[simp] theorem Device.releaseBar_old (d : Device) (team n : Nat) (v : W32) : (d.releaseBar team n v).old = d.old := rfl
@[simp] theorem Device.releaseBar_tlb (d : Device) (team n : Nat) (v : W32) : (d.releaseBar team n v).tlb = d.tlb := rfl
@[simp] theorem Device.releaseBar_tables (d : Device) (team n : Nat) (v : W32) : (d.releaseBar team n v).tables = d.tables := rfl
@[simp] theorem Device.releaseBar_coreGate (d : Device) (team n : Nat) (v : W32) : (d.releaseBar team n v).coreGate = d.coreGate := rfl
@[simp] theorem Device.releaseBar_engGate (d : Device) (team n : Nat) (v : W32) : (d.releaseBar team n v).engGate = d.engGate := rfl
@[simp] theorem Device.releaseBar_errors (d : Device) (team n : Nat) (v : W32) : (d.releaseBar team n v).errors = d.errors := rfl
@[simp] theorem Device.releaseBar_msix (d : Device) (team n : Nat) (v : W32) : (d.releaseBar team n v).msix = d.msix := rfl
@[simp] theorem Device.releaseBar_sridx (d : Device) (team n : Nat) (v : W32) : (d.releaseBar team n v).sridx = d.sridx := rfl
@[simp] theorem Device.releaseBar_nextId (d : Device) (team n : Nat) (v : W32) : (d.releaseBar team n v).nextId = d.nextId := rfl
@[simp] theorem Device.releaseBar_rrBacking (d : Device) (team n : Nat) (v : W32) : (d.releaseBar team n v).rrBacking = d.rrBacking := rfl
@[simp] theorem Device.releaseBar_rrQueue (d : Device) (team n : Nat) (v : W32) : (d.releaseBar team n v).rrQueue = d.rrQueue := rfl
@[simp] theorem Device.releaseBar_roomFor (d : Device) (team n : Nat) (v : W32) : (d.releaseBar team n v).roomFor = d.roomFor := rfl
@[simp] theorem Device.releaseBar_issues (d : Device) (team n : Nat) (v : W32) : (d.releaseBar team n v).issues = d.issues := rfl
@[simp] theorem Device.releaseBar_cycleIssues (d : Device) (team n : Nat) (v : W32) : (d.releaseBar team n v).cycleIssues = d.cycleIssues := rfl
@[simp] theorem Device.releaseBar_owed (d : Device) (team n : Nat) (v : W32) : (d.releaseBar team n v).owed = d.owed := rfl
@[simp] theorem Device.releaseBar_hostRead (d : Device) (team n : Nat) (v : W32) : (d.releaseBar team n v).hostRead = d.hostRead := rfl

/-! ### Device.setGq -/

@[simp] theorem Device.setGq_mem (d : Device) (core q : Nat) (c : GQueue) : (d.setGq core q c).mem = d.mem := rfl
@[simp] theorem Device.setGq_host (d : Device) (core q : Nat) (c : GQueue) : (d.setGq core q c).host = d.host := rfl
@[simp] theorem Device.setGq_peer (d : Device) (core q : Nat) (c : GQueue) : (d.setGq core q c).peer = d.peer := rfl
@[simp] theorem Device.setGq_poison (d : Device) (core q : Nat) (c : GQueue) : (d.setGq core q c).poison = d.poison := rfl
@[simp] theorem Device.setGq_spad (d : Device) (core q : Nat) (c : GQueue) : (d.setGq core q c).spad = d.spad := rfl
@[simp] theorem Device.setGq_spadOwner (d : Device) (core q : Nat) (c : GQueue) : (d.setGq core q c).spadOwner = d.spadOwner := rfl
@[simp] theorem Device.setGq_ctxs (d : Device) (core q : Nat) (c : GQueue) : (d.setGq core q c).ctxs = d.ctxs := rfl
@[simp] theorem Device.setGq_groups (d : Device) (core q : Nat) (c : GQueue) : (d.setGq core q c).groups = d.groups := rfl
@[simp] theorem Device.setGq_teams (d : Device) (core q : Nat) (c : GQueue) : (d.setGq core q c).teams = d.teams := rfl
@[simp] theorem Device.setGq_launches (d : Device) (core q : Nat) (c : GQueue) : (d.setGq core q c).launches = d.launches := rfl
@[simp] theorem Device.setGq_local_ (d : Device) (core q : Nat) (c : GQueue) : (d.setGq core q c).local_ = d.local_ := rfl
@[simp] theorem Device.setGq_copies (d : Device) (core q : Nat) (c : GQueue) : (d.setGq core q c).copies = d.copies := rfl
@[simp] theorem Device.setGq_entries (d : Device) (core q : Nat) (c : GQueue) : (d.setGq core q c).entries = d.entries := rfl
@[simp] theorem Device.setGq_drains (d : Device) (core q : Nat) (c : GQueue) : (d.setGq core q c).drains = d.drains := rfl
@[simp] theorem Device.setGq_lends (d : Device) (core q : Nat) (c : GQueue) : (d.setGq core q c).lends = d.lends := rfl
@[simp] theorem Device.setGq_parkedLends (d : Device) (core q : Nat) (c : GQueue) : (d.setGq core q c).parkedLends = d.parkedLends := rfl
@[simp] theorem Device.setGq_balked (d : Device) (core q : Nat) (c : GQueue) : (d.setGq core q c).balked = d.balked := rfl
@[simp] theorem Device.setGq_monitors (d : Device) (core q : Nat) (c : GQueue) : (d.setGq core q c).monitors = d.monitors := rfl
@[simp] theorem Device.setGq_futStamps (d : Device) (core q : Nat) (c : GQueue) : (d.setGq core q c).futStamps = d.futStamps := rfl
@[simp] theorem Device.setGq_joins (d : Device) (core q : Nat) (c : GQueue) : (d.setGq core q c).joins = d.joins := rfl
@[simp] theorem Device.setGq_joinFired (d : Device) (core q : Nat) (c : GQueue) : (d.setGq core q c).joinFired = d.joinFired := rfl
@[simp] theorem Device.setGq_heldPush (d : Device) (core q : Nat) (c : GQueue) : (d.setGq core q c).heldPush = d.heldPush := rfl
@[simp] theorem Device.setGq_heldSealed (d : Device) (core q : Nat) (c : GQueue) : (d.setGq core q c).heldSealed = d.heldSealed := rfl
@[simp] theorem Device.setGq_pageReqs (d : Device) (core q : Nat) (c : GQueue) : (d.setGq core q c).pageReqs = d.pageReqs := rfl
@[simp] theorem Device.setGq_privUsed (d : Device) (core q : Nat) (c : GQueue) : (d.setGq core q c).privUsed = d.privUsed := rfl
@[simp] theorem Device.setGq_touches (d : Device) (core q : Nat) (c : GQueue) : (d.setGq core q c).touches = d.touches := rfl
@[simp] theorem Device.setGq_l1 (d : Device) (core q : Nat) (c : GQueue) : (d.setGq core q c).l1 = d.l1 := rfl
@[simp] theorem Device.setGq_l1Lines (d : Device) (core q : Nat) (c : GQueue) : (d.setGq core q c).l1Lines = d.l1Lines := rfl
@[simp] theorem Device.setGq_icache (d : Device) (core q : Nat) (c : GQueue) : (d.setGq core q c).icache = d.icache := rfl
@[simp] theorem Device.setGq_old (d : Device) (core q : Nat) (c : GQueue) : (d.setGq core q c).old = d.old := rfl
@[simp] theorem Device.setGq_tlb (d : Device) (core q : Nat) (c : GQueue) : (d.setGq core q c).tlb = d.tlb := rfl
@[simp] theorem Device.setGq_tables (d : Device) (core q : Nat) (c : GQueue) : (d.setGq core q c).tables = d.tables := rfl
@[simp] theorem Device.setGq_coreGate (d : Device) (core q : Nat) (c : GQueue) : (d.setGq core q c).coreGate = d.coreGate := rfl
@[simp] theorem Device.setGq_engGate (d : Device) (core q : Nat) (c : GQueue) : (d.setGq core q c).engGate = d.engGate := rfl
@[simp] theorem Device.setGq_errors (d : Device) (core q : Nat) (c : GQueue) : (d.setGq core q c).errors = d.errors := rfl
@[simp] theorem Device.setGq_msix (d : Device) (core q : Nat) (c : GQueue) : (d.setGq core q c).msix = d.msix := rfl
@[simp] theorem Device.setGq_sridx (d : Device) (core q : Nat) (c : GQueue) : (d.setGq core q c).sridx = d.sridx := rfl
@[simp] theorem Device.setGq_nextId (d : Device) (core q : Nat) (c : GQueue) : (d.setGq core q c).nextId = d.nextId := rfl
@[simp] theorem Device.setGq_rrBacking (d : Device) (core q : Nat) (c : GQueue) : (d.setGq core q c).rrBacking = d.rrBacking := rfl
@[simp] theorem Device.setGq_rrQueue (d : Device) (core q : Nat) (c : GQueue) : (d.setGq core q c).rrQueue = d.rrQueue := rfl
@[simp] theorem Device.setGq_roomFor (d : Device) (core q : Nat) (c : GQueue) : (d.setGq core q c).roomFor = d.roomFor := rfl
@[simp] theorem Device.setGq_issues (d : Device) (core q : Nat) (c : GQueue) : (d.setGq core q c).issues = d.issues := rfl
@[simp] theorem Device.setGq_cycleIssues (d : Device) (core q : Nat) (c : GQueue) : (d.setGq core q c).cycleIssues = d.cycleIssues := rfl
@[simp] theorem Device.setGq_owed (d : Device) (core q : Nat) (c : GQueue) : (d.setGq core q c).owed = d.owed := rfl
@[simp] theorem Device.setGq_hostRead (d : Device) (core q : Nat) (c : GQueue) : (d.setGq core q c).hostRead = d.hostRead := rfl
@[simp] theorem Device.setGq_gqs (d : Device) (core q : Nat) (c : GQueue) : (d.setGq core q c).gqs = d.gqs.set (gqKey core q) c := rfl

/-! ### Device.addCopy -/

@[simp] theorem Device.addCopy_mem (d : Device) (core : Nat) (c : Copy) : (d.addCopy core c).mem = d.mem := rfl
@[simp] theorem Device.addCopy_host (d : Device) (core : Nat) (c : Copy) : (d.addCopy core c).host = d.host := rfl
@[simp] theorem Device.addCopy_peer (d : Device) (core : Nat) (c : Copy) : (d.addCopy core c).peer = d.peer := rfl
@[simp] theorem Device.addCopy_poison (d : Device) (core : Nat) (c : Copy) : (d.addCopy core c).poison = d.poison := rfl
@[simp] theorem Device.addCopy_spad (d : Device) (core : Nat) (c : Copy) : (d.addCopy core c).spad = d.spad := rfl
@[simp] theorem Device.addCopy_spadOwner (d : Device) (core : Nat) (c : Copy) : (d.addCopy core c).spadOwner = d.spadOwner := rfl
@[simp] theorem Device.addCopy_ctxs (d : Device) (core : Nat) (c : Copy) : (d.addCopy core c).ctxs = d.ctxs := rfl
@[simp] theorem Device.addCopy_groups (d : Device) (core : Nat) (c : Copy) : (d.addCopy core c).groups = d.groups := rfl
@[simp] theorem Device.addCopy_teams (d : Device) (core : Nat) (c : Copy) : (d.addCopy core c).teams = d.teams := rfl
@[simp] theorem Device.addCopy_launches (d : Device) (core : Nat) (c : Copy) : (d.addCopy core c).launches = d.launches := rfl
@[simp] theorem Device.addCopy_local_ (d : Device) (core : Nat) (c : Copy) : (d.addCopy core c).local_ = d.local_ := rfl
@[simp] theorem Device.addCopy_entries (d : Device) (core : Nat) (c : Copy) : (d.addCopy core c).entries = d.entries := rfl
@[simp] theorem Device.addCopy_gqs (d : Device) (core : Nat) (c : Copy) : (d.addCopy core c).gqs = d.gqs := rfl
@[simp] theorem Device.addCopy_drains (d : Device) (core : Nat) (c : Copy) : (d.addCopy core c).drains = d.drains := rfl
@[simp] theorem Device.addCopy_lends (d : Device) (core : Nat) (c : Copy) : (d.addCopy core c).lends = d.lends := rfl
@[simp] theorem Device.addCopy_parkedLends (d : Device) (core : Nat) (c : Copy) : (d.addCopy core c).parkedLends = d.parkedLends := rfl
@[simp] theorem Device.addCopy_balked (d : Device) (core : Nat) (c : Copy) : (d.addCopy core c).balked = d.balked := rfl
@[simp] theorem Device.addCopy_monitors (d : Device) (core : Nat) (c : Copy) : (d.addCopy core c).monitors = d.monitors := rfl
@[simp] theorem Device.addCopy_futStamps (d : Device) (core : Nat) (c : Copy) : (d.addCopy core c).futStamps = d.futStamps := rfl
@[simp] theorem Device.addCopy_joins (d : Device) (core : Nat) (c : Copy) : (d.addCopy core c).joins = d.joins := rfl
@[simp] theorem Device.addCopy_joinFired (d : Device) (core : Nat) (c : Copy) : (d.addCopy core c).joinFired = d.joinFired := rfl
@[simp] theorem Device.addCopy_heldPush (d : Device) (core : Nat) (c : Copy) : (d.addCopy core c).heldPush = d.heldPush := rfl
@[simp] theorem Device.addCopy_heldSealed (d : Device) (core : Nat) (c : Copy) : (d.addCopy core c).heldSealed = d.heldSealed := rfl
@[simp] theorem Device.addCopy_pageReqs (d : Device) (core : Nat) (c : Copy) : (d.addCopy core c).pageReqs = d.pageReqs := rfl
@[simp] theorem Device.addCopy_privUsed (d : Device) (core : Nat) (c : Copy) : (d.addCopy core c).privUsed = d.privUsed := rfl
@[simp] theorem Device.addCopy_touches (d : Device) (core : Nat) (c : Copy) : (d.addCopy core c).touches = d.touches := rfl
@[simp] theorem Device.addCopy_l1 (d : Device) (core : Nat) (c : Copy) : (d.addCopy core c).l1 = d.l1 := rfl
@[simp] theorem Device.addCopy_l1Lines (d : Device) (core : Nat) (c : Copy) : (d.addCopy core c).l1Lines = d.l1Lines := rfl
@[simp] theorem Device.addCopy_icache (d : Device) (core : Nat) (c : Copy) : (d.addCopy core c).icache = d.icache := rfl
@[simp] theorem Device.addCopy_old (d : Device) (core : Nat) (c : Copy) : (d.addCopy core c).old = d.old := rfl
@[simp] theorem Device.addCopy_tlb (d : Device) (core : Nat) (c : Copy) : (d.addCopy core c).tlb = d.tlb := rfl
@[simp] theorem Device.addCopy_tables (d : Device) (core : Nat) (c : Copy) : (d.addCopy core c).tables = d.tables := rfl
@[simp] theorem Device.addCopy_coreGate (d : Device) (core : Nat) (c : Copy) : (d.addCopy core c).coreGate = d.coreGate := rfl
@[simp] theorem Device.addCopy_engGate (d : Device) (core : Nat) (c : Copy) : (d.addCopy core c).engGate = d.engGate := rfl
@[simp] theorem Device.addCopy_errors (d : Device) (core : Nat) (c : Copy) : (d.addCopy core c).errors = d.errors := rfl
@[simp] theorem Device.addCopy_msix (d : Device) (core : Nat) (c : Copy) : (d.addCopy core c).msix = d.msix := rfl
@[simp] theorem Device.addCopy_sridx (d : Device) (core : Nat) (c : Copy) : (d.addCopy core c).sridx = d.sridx := rfl
@[simp] theorem Device.addCopy_rrBacking (d : Device) (core : Nat) (c : Copy) : (d.addCopy core c).rrBacking = d.rrBacking := rfl
@[simp] theorem Device.addCopy_rrQueue (d : Device) (core : Nat) (c : Copy) : (d.addCopy core c).rrQueue = d.rrQueue := rfl
@[simp] theorem Device.addCopy_roomFor (d : Device) (core : Nat) (c : Copy) : (d.addCopy core c).roomFor = d.roomFor := rfl
@[simp] theorem Device.addCopy_issues (d : Device) (core : Nat) (c : Copy) : (d.addCopy core c).issues = d.issues := rfl
@[simp] theorem Device.addCopy_cycleIssues (d : Device) (core : Nat) (c : Copy) : (d.addCopy core c).cycleIssues = d.cycleIssues := rfl
@[simp] theorem Device.addCopy_owed (d : Device) (core : Nat) (c : Copy) : (d.addCopy core c).owed = d.owed := rfl
@[simp] theorem Device.addCopy_hostRead (d : Device) (core : Nat) (c : Copy) : (d.addCopy core c).hostRead = d.hostRead := rfl
@[simp] theorem Device.addCopy_copies (d : Device) (core : Nat) (c : Copy) : (d.addCopy core c).copies = d.copies.set core (d.copiesOn core ++ [c]) := rfl
@[simp] theorem Device.addCopy_nextId (d : Device) (core : Nat) (c : Copy) : (d.addCopy core c).nextId = d.nextId + 1 := rfl

/-! ### Device.dropCopy -/

@[simp] theorem Device.dropCopy_mem (d : Device) (core id : Nat) : (d.dropCopy core id).mem = d.mem := rfl
@[simp] theorem Device.dropCopy_host (d : Device) (core id : Nat) : (d.dropCopy core id).host = d.host := rfl
@[simp] theorem Device.dropCopy_peer (d : Device) (core id : Nat) : (d.dropCopy core id).peer = d.peer := rfl
@[simp] theorem Device.dropCopy_poison (d : Device) (core id : Nat) : (d.dropCopy core id).poison = d.poison := rfl
@[simp] theorem Device.dropCopy_spad (d : Device) (core id : Nat) : (d.dropCopy core id).spad = d.spad := rfl
@[simp] theorem Device.dropCopy_spadOwner (d : Device) (core id : Nat) : (d.dropCopy core id).spadOwner = d.spadOwner := rfl
@[simp] theorem Device.dropCopy_ctxs (d : Device) (core id : Nat) : (d.dropCopy core id).ctxs = d.ctxs := rfl
@[simp] theorem Device.dropCopy_groups (d : Device) (core id : Nat) : (d.dropCopy core id).groups = d.groups := rfl
@[simp] theorem Device.dropCopy_teams (d : Device) (core id : Nat) : (d.dropCopy core id).teams = d.teams := rfl
@[simp] theorem Device.dropCopy_launches (d : Device) (core id : Nat) : (d.dropCopy core id).launches = d.launches := rfl
@[simp] theorem Device.dropCopy_local_ (d : Device) (core id : Nat) : (d.dropCopy core id).local_ = d.local_ := rfl
@[simp] theorem Device.dropCopy_entries (d : Device) (core id : Nat) : (d.dropCopy core id).entries = d.entries := rfl
@[simp] theorem Device.dropCopy_gqs (d : Device) (core id : Nat) : (d.dropCopy core id).gqs = d.gqs := rfl
@[simp] theorem Device.dropCopy_drains (d : Device) (core id : Nat) : (d.dropCopy core id).drains = d.drains := rfl
@[simp] theorem Device.dropCopy_lends (d : Device) (core id : Nat) : (d.dropCopy core id).lends = d.lends := rfl
@[simp] theorem Device.dropCopy_parkedLends (d : Device) (core id : Nat) : (d.dropCopy core id).parkedLends = d.parkedLends := rfl
@[simp] theorem Device.dropCopy_balked (d : Device) (core id : Nat) : (d.dropCopy core id).balked = d.balked := rfl
@[simp] theorem Device.dropCopy_monitors (d : Device) (core id : Nat) : (d.dropCopy core id).monitors = d.monitors := rfl
@[simp] theorem Device.dropCopy_futStamps (d : Device) (core id : Nat) : (d.dropCopy core id).futStamps = d.futStamps := rfl
@[simp] theorem Device.dropCopy_joins (d : Device) (core id : Nat) : (d.dropCopy core id).joins = d.joins := rfl
@[simp] theorem Device.dropCopy_joinFired (d : Device) (core id : Nat) : (d.dropCopy core id).joinFired = d.joinFired := rfl
@[simp] theorem Device.dropCopy_heldPush (d : Device) (core id : Nat) : (d.dropCopy core id).heldPush = d.heldPush := rfl
@[simp] theorem Device.dropCopy_heldSealed (d : Device) (core id : Nat) : (d.dropCopy core id).heldSealed = d.heldSealed := rfl
@[simp] theorem Device.dropCopy_pageReqs (d : Device) (core id : Nat) : (d.dropCopy core id).pageReqs = d.pageReqs := rfl
@[simp] theorem Device.dropCopy_privUsed (d : Device) (core id : Nat) : (d.dropCopy core id).privUsed = d.privUsed := rfl
@[simp] theorem Device.dropCopy_touches (d : Device) (core id : Nat) : (d.dropCopy core id).touches = d.touches := rfl
@[simp] theorem Device.dropCopy_l1 (d : Device) (core id : Nat) : (d.dropCopy core id).l1 = d.l1 := rfl
@[simp] theorem Device.dropCopy_l1Lines (d : Device) (core id : Nat) : (d.dropCopy core id).l1Lines = d.l1Lines := rfl
@[simp] theorem Device.dropCopy_icache (d : Device) (core id : Nat) : (d.dropCopy core id).icache = d.icache := rfl
@[simp] theorem Device.dropCopy_old (d : Device) (core id : Nat) : (d.dropCopy core id).old = d.old := rfl
@[simp] theorem Device.dropCopy_tlb (d : Device) (core id : Nat) : (d.dropCopy core id).tlb = d.tlb := rfl
@[simp] theorem Device.dropCopy_tables (d : Device) (core id : Nat) : (d.dropCopy core id).tables = d.tables := rfl
@[simp] theorem Device.dropCopy_coreGate (d : Device) (core id : Nat) : (d.dropCopy core id).coreGate = d.coreGate := rfl
@[simp] theorem Device.dropCopy_engGate (d : Device) (core id : Nat) : (d.dropCopy core id).engGate = d.engGate := rfl
@[simp] theorem Device.dropCopy_errors (d : Device) (core id : Nat) : (d.dropCopy core id).errors = d.errors := rfl
@[simp] theorem Device.dropCopy_msix (d : Device) (core id : Nat) : (d.dropCopy core id).msix = d.msix := rfl
@[simp] theorem Device.dropCopy_sridx (d : Device) (core id : Nat) : (d.dropCopy core id).sridx = d.sridx := rfl
@[simp] theorem Device.dropCopy_nextId (d : Device) (core id : Nat) : (d.dropCopy core id).nextId = d.nextId := rfl
@[simp] theorem Device.dropCopy_rrBacking (d : Device) (core id : Nat) : (d.dropCopy core id).rrBacking = d.rrBacking := rfl
@[simp] theorem Device.dropCopy_rrQueue (d : Device) (core id : Nat) : (d.dropCopy core id).rrQueue = d.rrQueue := rfl
@[simp] theorem Device.dropCopy_roomFor (d : Device) (core id : Nat) : (d.dropCopy core id).roomFor = d.roomFor := rfl
@[simp] theorem Device.dropCopy_issues (d : Device) (core id : Nat) : (d.dropCopy core id).issues = d.issues := rfl
@[simp] theorem Device.dropCopy_cycleIssues (d : Device) (core id : Nat) : (d.dropCopy core id).cycleIssues = d.cycleIssues := rfl
@[simp] theorem Device.dropCopy_owed (d : Device) (core id : Nat) : (d.dropCopy core id).owed = d.owed := rfl
@[simp] theorem Device.dropCopy_hostRead (d : Device) (core id : Nat) : (d.dropCopy core id).hostRead = d.hostRead := rfl

/-! ### Device.addEntry -/

@[simp] theorem Device.addEntry_mem (d : Device) (key : Nat) (t : Entry) : (d.addEntry key t).mem = d.mem := rfl
@[simp] theorem Device.addEntry_host (d : Device) (key : Nat) (t : Entry) : (d.addEntry key t).host = d.host := rfl
@[simp] theorem Device.addEntry_peer (d : Device) (key : Nat) (t : Entry) : (d.addEntry key t).peer = d.peer := rfl
@[simp] theorem Device.addEntry_poison (d : Device) (key : Nat) (t : Entry) : (d.addEntry key t).poison = d.poison := rfl
@[simp] theorem Device.addEntry_spad (d : Device) (key : Nat) (t : Entry) : (d.addEntry key t).spad = d.spad := rfl
@[simp] theorem Device.addEntry_spadOwner (d : Device) (key : Nat) (t : Entry) : (d.addEntry key t).spadOwner = d.spadOwner := rfl
@[simp] theorem Device.addEntry_ctxs (d : Device) (key : Nat) (t : Entry) : (d.addEntry key t).ctxs = d.ctxs := rfl
@[simp] theorem Device.addEntry_groups (d : Device) (key : Nat) (t : Entry) : (d.addEntry key t).groups = d.groups := rfl
@[simp] theorem Device.addEntry_teams (d : Device) (key : Nat) (t : Entry) : (d.addEntry key t).teams = d.teams := rfl
@[simp] theorem Device.addEntry_launches (d : Device) (key : Nat) (t : Entry) : (d.addEntry key t).launches = d.launches := rfl
@[simp] theorem Device.addEntry_local_ (d : Device) (key : Nat) (t : Entry) : (d.addEntry key t).local_ = d.local_ := rfl
@[simp] theorem Device.addEntry_copies (d : Device) (key : Nat) (t : Entry) : (d.addEntry key t).copies = d.copies := rfl
@[simp] theorem Device.addEntry_gqs (d : Device) (key : Nat) (t : Entry) : (d.addEntry key t).gqs = d.gqs := rfl
@[simp] theorem Device.addEntry_drains (d : Device) (key : Nat) (t : Entry) : (d.addEntry key t).drains = d.drains := rfl
@[simp] theorem Device.addEntry_lends (d : Device) (key : Nat) (t : Entry) : (d.addEntry key t).lends = d.lends := rfl
@[simp] theorem Device.addEntry_parkedLends (d : Device) (key : Nat) (t : Entry) : (d.addEntry key t).parkedLends = d.parkedLends := rfl
@[simp] theorem Device.addEntry_balked (d : Device) (key : Nat) (t : Entry) : (d.addEntry key t).balked = d.balked := rfl
@[simp] theorem Device.addEntry_monitors (d : Device) (key : Nat) (t : Entry) : (d.addEntry key t).monitors = d.monitors := rfl
@[simp] theorem Device.addEntry_futStamps (d : Device) (key : Nat) (t : Entry) : (d.addEntry key t).futStamps = d.futStamps := rfl
@[simp] theorem Device.addEntry_joins (d : Device) (key : Nat) (t : Entry) : (d.addEntry key t).joins = d.joins := rfl
@[simp] theorem Device.addEntry_joinFired (d : Device) (key : Nat) (t : Entry) : (d.addEntry key t).joinFired = d.joinFired := rfl
@[simp] theorem Device.addEntry_heldPush (d : Device) (key : Nat) (t : Entry) : (d.addEntry key t).heldPush = d.heldPush := rfl
@[simp] theorem Device.addEntry_heldSealed (d : Device) (key : Nat) (t : Entry) : (d.addEntry key t).heldSealed = d.heldSealed := rfl
@[simp] theorem Device.addEntry_pageReqs (d : Device) (key : Nat) (t : Entry) : (d.addEntry key t).pageReqs = d.pageReqs := rfl
@[simp] theorem Device.addEntry_privUsed (d : Device) (key : Nat) (t : Entry) : (d.addEntry key t).privUsed = d.privUsed := rfl
@[simp] theorem Device.addEntry_touches (d : Device) (key : Nat) (t : Entry) : (d.addEntry key t).touches = d.touches := rfl
@[simp] theorem Device.addEntry_l1 (d : Device) (key : Nat) (t : Entry) : (d.addEntry key t).l1 = d.l1 := rfl
@[simp] theorem Device.addEntry_l1Lines (d : Device) (key : Nat) (t : Entry) : (d.addEntry key t).l1Lines = d.l1Lines := rfl
@[simp] theorem Device.addEntry_icache (d : Device) (key : Nat) (t : Entry) : (d.addEntry key t).icache = d.icache := rfl
@[simp] theorem Device.addEntry_old (d : Device) (key : Nat) (t : Entry) : (d.addEntry key t).old = d.old := rfl
@[simp] theorem Device.addEntry_tlb (d : Device) (key : Nat) (t : Entry) : (d.addEntry key t).tlb = d.tlb := rfl
@[simp] theorem Device.addEntry_tables (d : Device) (key : Nat) (t : Entry) : (d.addEntry key t).tables = d.tables := rfl
@[simp] theorem Device.addEntry_coreGate (d : Device) (key : Nat) (t : Entry) : (d.addEntry key t).coreGate = d.coreGate := rfl
@[simp] theorem Device.addEntry_errors (d : Device) (key : Nat) (t : Entry) : (d.addEntry key t).errors = d.errors := rfl
@[simp] theorem Device.addEntry_msix (d : Device) (key : Nat) (t : Entry) : (d.addEntry key t).msix = d.msix := rfl
@[simp] theorem Device.addEntry_sridx (d : Device) (key : Nat) (t : Entry) : (d.addEntry key t).sridx = d.sridx := rfl
@[simp] theorem Device.addEntry_rrBacking (d : Device) (key : Nat) (t : Entry) : (d.addEntry key t).rrBacking = d.rrBacking := rfl
@[simp] theorem Device.addEntry_rrQueue (d : Device) (key : Nat) (t : Entry) : (d.addEntry key t).rrQueue = d.rrQueue := rfl
@[simp] theorem Device.addEntry_roomFor (d : Device) (key : Nat) (t : Entry) : (d.addEntry key t).roomFor = d.roomFor := rfl
@[simp] theorem Device.addEntry_issues (d : Device) (key : Nat) (t : Entry) : (d.addEntry key t).issues = d.issues := rfl
@[simp] theorem Device.addEntry_cycleIssues (d : Device) (key : Nat) (t : Entry) : (d.addEntry key t).cycleIssues = d.cycleIssues := rfl
@[simp] theorem Device.addEntry_owed (d : Device) (key : Nat) (t : Entry) : (d.addEntry key t).owed = d.owed := rfl
@[simp] theorem Device.addEntry_hostRead (d : Device) (key : Nat) (t : Entry) : (d.addEntry key t).hostRead = d.hostRead := rfl
@[simp] theorem Device.addEntry_entries (d : Device) (key : Nat) (t : Entry) : (d.addEntry key t).entries = d.entries.set key (d.entriesOn key ++ [t]) := rfl
@[simp] theorem Device.addEntry_nextId (d : Device) (key : Nat) (t : Entry) : (d.addEntry key t).nextId = d.nextId + 1 := rfl
@[simp] theorem Device.addEntry_engGate (d : Device) (key : Nat) (t : Entry) : (d.addEntry key t).engGate = d.engGate.erase key := rfl

/-! ### Device.setLocalQ -/

@[simp] theorem Device.setLocalQ_mem (d : Device) (core : Nat) (l : List QRec) : (d.setLocalQ core l).mem = d.mem := rfl
@[simp] theorem Device.setLocalQ_host (d : Device) (core : Nat) (l : List QRec) : (d.setLocalQ core l).host = d.host := rfl
@[simp] theorem Device.setLocalQ_peer (d : Device) (core : Nat) (l : List QRec) : (d.setLocalQ core l).peer = d.peer := rfl
@[simp] theorem Device.setLocalQ_poison (d : Device) (core : Nat) (l : List QRec) : (d.setLocalQ core l).poison = d.poison := rfl
@[simp] theorem Device.setLocalQ_spad (d : Device) (core : Nat) (l : List QRec) : (d.setLocalQ core l).spad = d.spad := rfl
@[simp] theorem Device.setLocalQ_spadOwner (d : Device) (core : Nat) (l : List QRec) : (d.setLocalQ core l).spadOwner = d.spadOwner := rfl
@[simp] theorem Device.setLocalQ_ctxs (d : Device) (core : Nat) (l : List QRec) : (d.setLocalQ core l).ctxs = d.ctxs := rfl
@[simp] theorem Device.setLocalQ_groups (d : Device) (core : Nat) (l : List QRec) : (d.setLocalQ core l).groups = d.groups := rfl
@[simp] theorem Device.setLocalQ_teams (d : Device) (core : Nat) (l : List QRec) : (d.setLocalQ core l).teams = d.teams := rfl
@[simp] theorem Device.setLocalQ_launches (d : Device) (core : Nat) (l : List QRec) : (d.setLocalQ core l).launches = d.launches := rfl
@[simp] theorem Device.setLocalQ_copies (d : Device) (core : Nat) (l : List QRec) : (d.setLocalQ core l).copies = d.copies := rfl
@[simp] theorem Device.setLocalQ_entries (d : Device) (core : Nat) (l : List QRec) : (d.setLocalQ core l).entries = d.entries := rfl
@[simp] theorem Device.setLocalQ_gqs (d : Device) (core : Nat) (l : List QRec) : (d.setLocalQ core l).gqs = d.gqs := rfl
@[simp] theorem Device.setLocalQ_drains (d : Device) (core : Nat) (l : List QRec) : (d.setLocalQ core l).drains = d.drains := rfl
@[simp] theorem Device.setLocalQ_lends (d : Device) (core : Nat) (l : List QRec) : (d.setLocalQ core l).lends = d.lends := rfl
@[simp] theorem Device.setLocalQ_parkedLends (d : Device) (core : Nat) (l : List QRec) : (d.setLocalQ core l).parkedLends = d.parkedLends := rfl
@[simp] theorem Device.setLocalQ_balked (d : Device) (core : Nat) (l : List QRec) : (d.setLocalQ core l).balked = d.balked := rfl
@[simp] theorem Device.setLocalQ_monitors (d : Device) (core : Nat) (l : List QRec) : (d.setLocalQ core l).monitors = d.monitors := rfl
@[simp] theorem Device.setLocalQ_futStamps (d : Device) (core : Nat) (l : List QRec) : (d.setLocalQ core l).futStamps = d.futStamps := rfl
@[simp] theorem Device.setLocalQ_joins (d : Device) (core : Nat) (l : List QRec) : (d.setLocalQ core l).joins = d.joins := rfl
@[simp] theorem Device.setLocalQ_joinFired (d : Device) (core : Nat) (l : List QRec) : (d.setLocalQ core l).joinFired = d.joinFired := rfl
@[simp] theorem Device.setLocalQ_heldPush (d : Device) (core : Nat) (l : List QRec) : (d.setLocalQ core l).heldPush = d.heldPush := rfl
@[simp] theorem Device.setLocalQ_heldSealed (d : Device) (core : Nat) (l : List QRec) : (d.setLocalQ core l).heldSealed = d.heldSealed := rfl
@[simp] theorem Device.setLocalQ_pageReqs (d : Device) (core : Nat) (l : List QRec) : (d.setLocalQ core l).pageReqs = d.pageReqs := rfl
@[simp] theorem Device.setLocalQ_privUsed (d : Device) (core : Nat) (l : List QRec) : (d.setLocalQ core l).privUsed = d.privUsed := rfl
@[simp] theorem Device.setLocalQ_touches (d : Device) (core : Nat) (l : List QRec) : (d.setLocalQ core l).touches = d.touches := rfl
@[simp] theorem Device.setLocalQ_l1 (d : Device) (core : Nat) (l : List QRec) : (d.setLocalQ core l).l1 = d.l1 := rfl
@[simp] theorem Device.setLocalQ_l1Lines (d : Device) (core : Nat) (l : List QRec) : (d.setLocalQ core l).l1Lines = d.l1Lines := rfl
@[simp] theorem Device.setLocalQ_icache (d : Device) (core : Nat) (l : List QRec) : (d.setLocalQ core l).icache = d.icache := rfl
@[simp] theorem Device.setLocalQ_old (d : Device) (core : Nat) (l : List QRec) : (d.setLocalQ core l).old = d.old := rfl
@[simp] theorem Device.setLocalQ_tlb (d : Device) (core : Nat) (l : List QRec) : (d.setLocalQ core l).tlb = d.tlb := rfl
@[simp] theorem Device.setLocalQ_tables (d : Device) (core : Nat) (l : List QRec) : (d.setLocalQ core l).tables = d.tables := rfl
@[simp] theorem Device.setLocalQ_coreGate (d : Device) (core : Nat) (l : List QRec) : (d.setLocalQ core l).coreGate = d.coreGate := rfl
@[simp] theorem Device.setLocalQ_engGate (d : Device) (core : Nat) (l : List QRec) : (d.setLocalQ core l).engGate = d.engGate := rfl
@[simp] theorem Device.setLocalQ_errors (d : Device) (core : Nat) (l : List QRec) : (d.setLocalQ core l).errors = d.errors := rfl
@[simp] theorem Device.setLocalQ_msix (d : Device) (core : Nat) (l : List QRec) : (d.setLocalQ core l).msix = d.msix := rfl
@[simp] theorem Device.setLocalQ_sridx (d : Device) (core : Nat) (l : List QRec) : (d.setLocalQ core l).sridx = d.sridx := rfl
@[simp] theorem Device.setLocalQ_nextId (d : Device) (core : Nat) (l : List QRec) : (d.setLocalQ core l).nextId = d.nextId := rfl
@[simp] theorem Device.setLocalQ_rrBacking (d : Device) (core : Nat) (l : List QRec) : (d.setLocalQ core l).rrBacking = d.rrBacking := rfl
@[simp] theorem Device.setLocalQ_rrQueue (d : Device) (core : Nat) (l : List QRec) : (d.setLocalQ core l).rrQueue = d.rrQueue := rfl
@[simp] theorem Device.setLocalQ_roomFor (d : Device) (core : Nat) (l : List QRec) : (d.setLocalQ core l).roomFor = d.roomFor := rfl
@[simp] theorem Device.setLocalQ_issues (d : Device) (core : Nat) (l : List QRec) : (d.setLocalQ core l).issues = d.issues := rfl
@[simp] theorem Device.setLocalQ_cycleIssues (d : Device) (core : Nat) (l : List QRec) : (d.setLocalQ core l).cycleIssues = d.cycleIssues := rfl
@[simp] theorem Device.setLocalQ_owed (d : Device) (core : Nat) (l : List QRec) : (d.setLocalQ core l).owed = d.owed := rfl
@[simp] theorem Device.setLocalQ_hostRead (d : Device) (core : Nat) (l : List QRec) : (d.setLocalQ core l).hostRead = d.hostRead := rfl

/-! ### Device.disarm -/

@[simp] theorem Device.disarm_mem (d : Device) (r : SplitRef) (low : Nat) : (d.disarm r low).mem = d.mem := rfl
@[simp] theorem Device.disarm_host (d : Device) (r : SplitRef) (low : Nat) : (d.disarm r low).host = d.host := rfl
@[simp] theorem Device.disarm_peer (d : Device) (r : SplitRef) (low : Nat) : (d.disarm r low).peer = d.peer := rfl
@[simp] theorem Device.disarm_poison (d : Device) (r : SplitRef) (low : Nat) : (d.disarm r low).poison = d.poison := rfl
@[simp] theorem Device.disarm_spad (d : Device) (r : SplitRef) (low : Nat) : (d.disarm r low).spad = d.spad := rfl
@[simp] theorem Device.disarm_spadOwner (d : Device) (r : SplitRef) (low : Nat) : (d.disarm r low).spadOwner = d.spadOwner := rfl
@[simp] theorem Device.disarm_ctxs (d : Device) (r : SplitRef) (low : Nat) : (d.disarm r low).ctxs = d.ctxs := rfl
@[simp] theorem Device.disarm_groups (d : Device) (r : SplitRef) (low : Nat) : (d.disarm r low).groups = d.groups := rfl
@[simp] theorem Device.disarm_teams (d : Device) (r : SplitRef) (low : Nat) : (d.disarm r low).teams = d.teams := rfl
@[simp] theorem Device.disarm_launches (d : Device) (r : SplitRef) (low : Nat) : (d.disarm r low).launches = d.launches := rfl
@[simp] theorem Device.disarm_local_ (d : Device) (r : SplitRef) (low : Nat) : (d.disarm r low).local_ = d.local_ := rfl
@[simp] theorem Device.disarm_copies (d : Device) (r : SplitRef) (low : Nat) : (d.disarm r low).copies = d.copies := rfl
@[simp] theorem Device.disarm_entries (d : Device) (r : SplitRef) (low : Nat) : (d.disarm r low).entries = d.entries := rfl
@[simp] theorem Device.disarm_gqs (d : Device) (r : SplitRef) (low : Nat) : (d.disarm r low).gqs = d.gqs := rfl
@[simp] theorem Device.disarm_drains (d : Device) (r : SplitRef) (low : Nat) : (d.disarm r low).drains = d.drains := rfl
@[simp] theorem Device.disarm_lends (d : Device) (r : SplitRef) (low : Nat) : (d.disarm r low).lends = d.lends := rfl
@[simp] theorem Device.disarm_parkedLends (d : Device) (r : SplitRef) (low : Nat) : (d.disarm r low).parkedLends = d.parkedLends := rfl
@[simp] theorem Device.disarm_balked (d : Device) (r : SplitRef) (low : Nat) : (d.disarm r low).balked = d.balked := rfl
@[simp] theorem Device.disarm_futStamps (d : Device) (r : SplitRef) (low : Nat) : (d.disarm r low).futStamps = d.futStamps := rfl
@[simp] theorem Device.disarm_joins (d : Device) (r : SplitRef) (low : Nat) : (d.disarm r low).joins = d.joins := rfl
@[simp] theorem Device.disarm_joinFired (d : Device) (r : SplitRef) (low : Nat) : (d.disarm r low).joinFired = d.joinFired := rfl
@[simp] theorem Device.disarm_heldPush (d : Device) (r : SplitRef) (low : Nat) : (d.disarm r low).heldPush = d.heldPush := rfl
@[simp] theorem Device.disarm_heldSealed (d : Device) (r : SplitRef) (low : Nat) : (d.disarm r low).heldSealed = d.heldSealed := rfl
@[simp] theorem Device.disarm_pageReqs (d : Device) (r : SplitRef) (low : Nat) : (d.disarm r low).pageReqs = d.pageReqs := rfl
@[simp] theorem Device.disarm_privUsed (d : Device) (r : SplitRef) (low : Nat) : (d.disarm r low).privUsed = d.privUsed := rfl
@[simp] theorem Device.disarm_touches (d : Device) (r : SplitRef) (low : Nat) : (d.disarm r low).touches = d.touches := rfl
@[simp] theorem Device.disarm_l1 (d : Device) (r : SplitRef) (low : Nat) : (d.disarm r low).l1 = d.l1 := rfl
@[simp] theorem Device.disarm_l1Lines (d : Device) (r : SplitRef) (low : Nat) : (d.disarm r low).l1Lines = d.l1Lines := rfl
@[simp] theorem Device.disarm_icache (d : Device) (r : SplitRef) (low : Nat) : (d.disarm r low).icache = d.icache := rfl
@[simp] theorem Device.disarm_old (d : Device) (r : SplitRef) (low : Nat) : (d.disarm r low).old = d.old := rfl
@[simp] theorem Device.disarm_tlb (d : Device) (r : SplitRef) (low : Nat) : (d.disarm r low).tlb = d.tlb := rfl
@[simp] theorem Device.disarm_tables (d : Device) (r : SplitRef) (low : Nat) : (d.disarm r low).tables = d.tables := rfl
@[simp] theorem Device.disarm_coreGate (d : Device) (r : SplitRef) (low : Nat) : (d.disarm r low).coreGate = d.coreGate := rfl
@[simp] theorem Device.disarm_engGate (d : Device) (r : SplitRef) (low : Nat) : (d.disarm r low).engGate = d.engGate := rfl
@[simp] theorem Device.disarm_errors (d : Device) (r : SplitRef) (low : Nat) : (d.disarm r low).errors = d.errors := rfl
@[simp] theorem Device.disarm_msix (d : Device) (r : SplitRef) (low : Nat) : (d.disarm r low).msix = d.msix := rfl
@[simp] theorem Device.disarm_sridx (d : Device) (r : SplitRef) (low : Nat) : (d.disarm r low).sridx = d.sridx := rfl
@[simp] theorem Device.disarm_nextId (d : Device) (r : SplitRef) (low : Nat) : (d.disarm r low).nextId = d.nextId := rfl
@[simp] theorem Device.disarm_rrBacking (d : Device) (r : SplitRef) (low : Nat) : (d.disarm r low).rrBacking = d.rrBacking := rfl
@[simp] theorem Device.disarm_rrQueue (d : Device) (r : SplitRef) (low : Nat) : (d.disarm r low).rrQueue = d.rrQueue := rfl
@[simp] theorem Device.disarm_roomFor (d : Device) (r : SplitRef) (low : Nat) : (d.disarm r low).roomFor = d.roomFor := rfl
@[simp] theorem Device.disarm_issues (d : Device) (r : SplitRef) (low : Nat) : (d.disarm r low).issues = d.issues := rfl
@[simp] theorem Device.disarm_cycleIssues (d : Device) (r : SplitRef) (low : Nat) : (d.disarm r low).cycleIssues = d.cycleIssues := rfl
@[simp] theorem Device.disarm_owed (d : Device) (r : SplitRef) (low : Nat) : (d.disarm r low).owed = d.owed := rfl
@[simp] theorem Device.disarm_hostRead (d : Device) (r : SplitRef) (low : Nat) : (d.disarm r low).hostRead = d.hostRead := rfl

/-! ### Device.tlbDrop -/

@[simp] theorem Device.tlbDrop_mem (d : Device) (pick : TlbEntry → Bool) : (d.tlbDrop pick).mem = d.mem := rfl
@[simp] theorem Device.tlbDrop_host (d : Device) (pick : TlbEntry → Bool) : (d.tlbDrop pick).host = d.host := rfl
@[simp] theorem Device.tlbDrop_peer (d : Device) (pick : TlbEntry → Bool) : (d.tlbDrop pick).peer = d.peer := rfl
@[simp] theorem Device.tlbDrop_poison (d : Device) (pick : TlbEntry → Bool) : (d.tlbDrop pick).poison = d.poison := rfl
@[simp] theorem Device.tlbDrop_spad (d : Device) (pick : TlbEntry → Bool) : (d.tlbDrop pick).spad = d.spad := rfl
@[simp] theorem Device.tlbDrop_spadOwner (d : Device) (pick : TlbEntry → Bool) : (d.tlbDrop pick).spadOwner = d.spadOwner := rfl
@[simp] theorem Device.tlbDrop_ctxs (d : Device) (pick : TlbEntry → Bool) : (d.tlbDrop pick).ctxs = d.ctxs := rfl
@[simp] theorem Device.tlbDrop_groups (d : Device) (pick : TlbEntry → Bool) : (d.tlbDrop pick).groups = d.groups := rfl
@[simp] theorem Device.tlbDrop_teams (d : Device) (pick : TlbEntry → Bool) : (d.tlbDrop pick).teams = d.teams := rfl
@[simp] theorem Device.tlbDrop_launches (d : Device) (pick : TlbEntry → Bool) : (d.tlbDrop pick).launches = d.launches := rfl
@[simp] theorem Device.tlbDrop_local_ (d : Device) (pick : TlbEntry → Bool) : (d.tlbDrop pick).local_ = d.local_ := rfl
@[simp] theorem Device.tlbDrop_copies (d : Device) (pick : TlbEntry → Bool) : (d.tlbDrop pick).copies = d.copies := rfl
@[simp] theorem Device.tlbDrop_entries (d : Device) (pick : TlbEntry → Bool) : (d.tlbDrop pick).entries = d.entries := rfl
@[simp] theorem Device.tlbDrop_gqs (d : Device) (pick : TlbEntry → Bool) : (d.tlbDrop pick).gqs = d.gqs := rfl
@[simp] theorem Device.tlbDrop_drains (d : Device) (pick : TlbEntry → Bool) : (d.tlbDrop pick).drains = d.drains := rfl
@[simp] theorem Device.tlbDrop_lends (d : Device) (pick : TlbEntry → Bool) : (d.tlbDrop pick).lends = d.lends := rfl
@[simp] theorem Device.tlbDrop_parkedLends (d : Device) (pick : TlbEntry → Bool) : (d.tlbDrop pick).parkedLends = d.parkedLends := rfl
@[simp] theorem Device.tlbDrop_balked (d : Device) (pick : TlbEntry → Bool) : (d.tlbDrop pick).balked = d.balked := rfl
@[simp] theorem Device.tlbDrop_monitors (d : Device) (pick : TlbEntry → Bool) : (d.tlbDrop pick).monitors = d.monitors := rfl
@[simp] theorem Device.tlbDrop_futStamps (d : Device) (pick : TlbEntry → Bool) : (d.tlbDrop pick).futStamps = d.futStamps := rfl
@[simp] theorem Device.tlbDrop_joins (d : Device) (pick : TlbEntry → Bool) : (d.tlbDrop pick).joins = d.joins := rfl
@[simp] theorem Device.tlbDrop_joinFired (d : Device) (pick : TlbEntry → Bool) : (d.tlbDrop pick).joinFired = d.joinFired := rfl
@[simp] theorem Device.tlbDrop_heldPush (d : Device) (pick : TlbEntry → Bool) : (d.tlbDrop pick).heldPush = d.heldPush := rfl
@[simp] theorem Device.tlbDrop_heldSealed (d : Device) (pick : TlbEntry → Bool) : (d.tlbDrop pick).heldSealed = d.heldSealed := rfl
@[simp] theorem Device.tlbDrop_pageReqs (d : Device) (pick : TlbEntry → Bool) : (d.tlbDrop pick).pageReqs = d.pageReqs := rfl
@[simp] theorem Device.tlbDrop_privUsed (d : Device) (pick : TlbEntry → Bool) : (d.tlbDrop pick).privUsed = d.privUsed := rfl
@[simp] theorem Device.tlbDrop_touches (d : Device) (pick : TlbEntry → Bool) : (d.tlbDrop pick).touches = d.touches := rfl
@[simp] theorem Device.tlbDrop_l1 (d : Device) (pick : TlbEntry → Bool) : (d.tlbDrop pick).l1 = d.l1 := rfl
@[simp] theorem Device.tlbDrop_l1Lines (d : Device) (pick : TlbEntry → Bool) : (d.tlbDrop pick).l1Lines = d.l1Lines := rfl
@[simp] theorem Device.tlbDrop_icache (d : Device) (pick : TlbEntry → Bool) : (d.tlbDrop pick).icache = d.icache := rfl
@[simp] theorem Device.tlbDrop_old (d : Device) (pick : TlbEntry → Bool) : (d.tlbDrop pick).old = d.old := rfl
@[simp] theorem Device.tlbDrop_tables (d : Device) (pick : TlbEntry → Bool) : (d.tlbDrop pick).tables = d.tables := rfl
@[simp] theorem Device.tlbDrop_coreGate (d : Device) (pick : TlbEntry → Bool) : (d.tlbDrop pick).coreGate = d.coreGate := rfl
@[simp] theorem Device.tlbDrop_engGate (d : Device) (pick : TlbEntry → Bool) : (d.tlbDrop pick).engGate = d.engGate := rfl
@[simp] theorem Device.tlbDrop_errors (d : Device) (pick : TlbEntry → Bool) : (d.tlbDrop pick).errors = d.errors := rfl
@[simp] theorem Device.tlbDrop_msix (d : Device) (pick : TlbEntry → Bool) : (d.tlbDrop pick).msix = d.msix := rfl
@[simp] theorem Device.tlbDrop_sridx (d : Device) (pick : TlbEntry → Bool) : (d.tlbDrop pick).sridx = d.sridx := rfl
@[simp] theorem Device.tlbDrop_nextId (d : Device) (pick : TlbEntry → Bool) : (d.tlbDrop pick).nextId = d.nextId := rfl
@[simp] theorem Device.tlbDrop_rrBacking (d : Device) (pick : TlbEntry → Bool) : (d.tlbDrop pick).rrBacking = d.rrBacking := rfl
@[simp] theorem Device.tlbDrop_rrQueue (d : Device) (pick : TlbEntry → Bool) : (d.tlbDrop pick).rrQueue = d.rrQueue := rfl
@[simp] theorem Device.tlbDrop_roomFor (d : Device) (pick : TlbEntry → Bool) : (d.tlbDrop pick).roomFor = d.roomFor := rfl
@[simp] theorem Device.tlbDrop_issues (d : Device) (pick : TlbEntry → Bool) : (d.tlbDrop pick).issues = d.issues := rfl
@[simp] theorem Device.tlbDrop_cycleIssues (d : Device) (pick : TlbEntry → Bool) : (d.tlbDrop pick).cycleIssues = d.cycleIssues := rfl
@[simp] theorem Device.tlbDrop_owed (d : Device) (pick : TlbEntry → Bool) : (d.tlbDrop pick).owed = d.owed := rfl
@[simp] theorem Device.tlbDrop_hostRead (d : Device) (pick : TlbEntry → Bool) : (d.tlbDrop pick).hostRead = d.hostRead := rfl
@[simp] theorem Device.tlbDrop_tlb (d : Device) (pick : TlbEntry → Bool) : (d.tlbDrop pick).tlb = d.tlb.filter (fun t => !pick t) := rfl

/-! ### Device.noteLend -/

@[simp] theorem Device.noteLend_mem (d : Device) (key ctx home p : Nat) : (d.noteLend key ctx home p).mem = d.mem := rfl
@[simp] theorem Device.noteLend_host (d : Device) (key ctx home p : Nat) : (d.noteLend key ctx home p).host = d.host := rfl
@[simp] theorem Device.noteLend_peer (d : Device) (key ctx home p : Nat) : (d.noteLend key ctx home p).peer = d.peer := rfl
@[simp] theorem Device.noteLend_poison (d : Device) (key ctx home p : Nat) : (d.noteLend key ctx home p).poison = d.poison := rfl
@[simp] theorem Device.noteLend_spad (d : Device) (key ctx home p : Nat) : (d.noteLend key ctx home p).spad = d.spad := rfl
@[simp] theorem Device.noteLend_spadOwner (d : Device) (key ctx home p : Nat) : (d.noteLend key ctx home p).spadOwner = d.spadOwner := rfl
@[simp] theorem Device.noteLend_ctxs (d : Device) (key ctx home p : Nat) : (d.noteLend key ctx home p).ctxs = d.ctxs := rfl
@[simp] theorem Device.noteLend_groups (d : Device) (key ctx home p : Nat) : (d.noteLend key ctx home p).groups = d.groups := rfl
@[simp] theorem Device.noteLend_teams (d : Device) (key ctx home p : Nat) : (d.noteLend key ctx home p).teams = d.teams := rfl
@[simp] theorem Device.noteLend_launches (d : Device) (key ctx home p : Nat) : (d.noteLend key ctx home p).launches = d.launches := rfl
@[simp] theorem Device.noteLend_local_ (d : Device) (key ctx home p : Nat) : (d.noteLend key ctx home p).local_ = d.local_ := rfl
@[simp] theorem Device.noteLend_copies (d : Device) (key ctx home p : Nat) : (d.noteLend key ctx home p).copies = d.copies := rfl
@[simp] theorem Device.noteLend_entries (d : Device) (key ctx home p : Nat) : (d.noteLend key ctx home p).entries = d.entries := rfl
@[simp] theorem Device.noteLend_gqs (d : Device) (key ctx home p : Nat) : (d.noteLend key ctx home p).gqs = d.gqs := rfl
@[simp] theorem Device.noteLend_drains (d : Device) (key ctx home p : Nat) : (d.noteLend key ctx home p).drains = d.drains := rfl
@[simp] theorem Device.noteLend_parkedLends (d : Device) (key ctx home p : Nat) : (d.noteLend key ctx home p).parkedLends = d.parkedLends := rfl
@[simp] theorem Device.noteLend_balked (d : Device) (key ctx home p : Nat) : (d.noteLend key ctx home p).balked = d.balked := rfl
@[simp] theorem Device.noteLend_monitors (d : Device) (key ctx home p : Nat) : (d.noteLend key ctx home p).monitors = d.monitors := rfl
@[simp] theorem Device.noteLend_futStamps (d : Device) (key ctx home p : Nat) : (d.noteLend key ctx home p).futStamps = d.futStamps := rfl
@[simp] theorem Device.noteLend_joins (d : Device) (key ctx home p : Nat) : (d.noteLend key ctx home p).joins = d.joins := rfl
@[simp] theorem Device.noteLend_joinFired (d : Device) (key ctx home p : Nat) : (d.noteLend key ctx home p).joinFired = d.joinFired := rfl
@[simp] theorem Device.noteLend_heldPush (d : Device) (key ctx home p : Nat) : (d.noteLend key ctx home p).heldPush = d.heldPush := rfl
@[simp] theorem Device.noteLend_heldSealed (d : Device) (key ctx home p : Nat) : (d.noteLend key ctx home p).heldSealed = d.heldSealed := rfl
@[simp] theorem Device.noteLend_pageReqs (d : Device) (key ctx home p : Nat) : (d.noteLend key ctx home p).pageReqs = d.pageReqs := rfl
@[simp] theorem Device.noteLend_privUsed (d : Device) (key ctx home p : Nat) : (d.noteLend key ctx home p).privUsed = d.privUsed := rfl
@[simp] theorem Device.noteLend_touches (d : Device) (key ctx home p : Nat) : (d.noteLend key ctx home p).touches = d.touches := rfl
@[simp] theorem Device.noteLend_l1 (d : Device) (key ctx home p : Nat) : (d.noteLend key ctx home p).l1 = d.l1 := rfl
@[simp] theorem Device.noteLend_l1Lines (d : Device) (key ctx home p : Nat) : (d.noteLend key ctx home p).l1Lines = d.l1Lines := rfl
@[simp] theorem Device.noteLend_icache (d : Device) (key ctx home p : Nat) : (d.noteLend key ctx home p).icache = d.icache := rfl
@[simp] theorem Device.noteLend_old (d : Device) (key ctx home p : Nat) : (d.noteLend key ctx home p).old = d.old := rfl
@[simp] theorem Device.noteLend_tlb (d : Device) (key ctx home p : Nat) : (d.noteLend key ctx home p).tlb = d.tlb := rfl
@[simp] theorem Device.noteLend_tables (d : Device) (key ctx home p : Nat) : (d.noteLend key ctx home p).tables = d.tables := rfl
@[simp] theorem Device.noteLend_coreGate (d : Device) (key ctx home p : Nat) : (d.noteLend key ctx home p).coreGate = d.coreGate := rfl
@[simp] theorem Device.noteLend_engGate (d : Device) (key ctx home p : Nat) : (d.noteLend key ctx home p).engGate = d.engGate := rfl
@[simp] theorem Device.noteLend_errors (d : Device) (key ctx home p : Nat) : (d.noteLend key ctx home p).errors = d.errors := rfl
@[simp] theorem Device.noteLend_msix (d : Device) (key ctx home p : Nat) : (d.noteLend key ctx home p).msix = d.msix := rfl
@[simp] theorem Device.noteLend_sridx (d : Device) (key ctx home p : Nat) : (d.noteLend key ctx home p).sridx = d.sridx := rfl
@[simp] theorem Device.noteLend_nextId (d : Device) (key ctx home p : Nat) : (d.noteLend key ctx home p).nextId = d.nextId := rfl
@[simp] theorem Device.noteLend_rrBacking (d : Device) (key ctx home p : Nat) : (d.noteLend key ctx home p).rrBacking = d.rrBacking := rfl
@[simp] theorem Device.noteLend_rrQueue (d : Device) (key ctx home p : Nat) : (d.noteLend key ctx home p).rrQueue = d.rrQueue := rfl
@[simp] theorem Device.noteLend_roomFor (d : Device) (key ctx home p : Nat) : (d.noteLend key ctx home p).roomFor = d.roomFor := rfl
@[simp] theorem Device.noteLend_issues (d : Device) (key ctx home p : Nat) : (d.noteLend key ctx home p).issues = d.issues := rfl
@[simp] theorem Device.noteLend_cycleIssues (d : Device) (key ctx home p : Nat) : (d.noteLend key ctx home p).cycleIssues = d.cycleIssues := rfl
@[simp] theorem Device.noteLend_owed (d : Device) (key ctx home p : Nat) : (d.noteLend key ctx home p).owed = d.owed := rfl
@[simp] theorem Device.noteLend_hostRead (d : Device) (key ctx home p : Nat) : (d.noteLend key ctx home p).hostRead = d.hostRead := rfl

/-! ### Device.wake -/

@[simp] theorem Device.wake_mem (d : Device) (core slot token : Nat) : (d.wake core slot token).mem = d.mem := rfl
@[simp] theorem Device.wake_host (d : Device) (core slot token : Nat) : (d.wake core slot token).host = d.host := rfl
@[simp] theorem Device.wake_peer (d : Device) (core slot token : Nat) : (d.wake core slot token).peer = d.peer := rfl
@[simp] theorem Device.wake_poison (d : Device) (core slot token : Nat) : (d.wake core slot token).poison = d.poison := rfl
@[simp] theorem Device.wake_spad (d : Device) (core slot token : Nat) : (d.wake core slot token).spad = d.spad := rfl
@[simp] theorem Device.wake_spadOwner (d : Device) (core slot token : Nat) : (d.wake core slot token).spadOwner = d.spadOwner := rfl
@[simp] theorem Device.wake_ctxs (d : Device) (core slot token : Nat) : (d.wake core slot token).ctxs = d.ctxs := rfl
@[simp] theorem Device.wake_teams (d : Device) (core slot token : Nat) : (d.wake core slot token).teams = d.teams := rfl
@[simp] theorem Device.wake_launches (d : Device) (core slot token : Nat) : (d.wake core slot token).launches = d.launches := rfl
@[simp] theorem Device.wake_local_ (d : Device) (core slot token : Nat) : (d.wake core slot token).local_ = d.local_ := rfl
@[simp] theorem Device.wake_copies (d : Device) (core slot token : Nat) : (d.wake core slot token).copies = d.copies := rfl
@[simp] theorem Device.wake_entries (d : Device) (core slot token : Nat) : (d.wake core slot token).entries = d.entries := rfl
@[simp] theorem Device.wake_gqs (d : Device) (core slot token : Nat) : (d.wake core slot token).gqs = d.gqs := rfl
@[simp] theorem Device.wake_drains (d : Device) (core slot token : Nat) : (d.wake core slot token).drains = d.drains := rfl
@[simp] theorem Device.wake_lends (d : Device) (core slot token : Nat) : (d.wake core slot token).lends = d.lends := rfl
@[simp] theorem Device.wake_parkedLends (d : Device) (core slot token : Nat) : (d.wake core slot token).parkedLends = d.parkedLends := rfl
@[simp] theorem Device.wake_balked (d : Device) (core slot token : Nat) : (d.wake core slot token).balked = d.balked := rfl
@[simp] theorem Device.wake_monitors (d : Device) (core slot token : Nat) : (d.wake core slot token).monitors = d.monitors := rfl
@[simp] theorem Device.wake_futStamps (d : Device) (core slot token : Nat) : (d.wake core slot token).futStamps = d.futStamps := rfl
@[simp] theorem Device.wake_joins (d : Device) (core slot token : Nat) : (d.wake core slot token).joins = d.joins := rfl
@[simp] theorem Device.wake_joinFired (d : Device) (core slot token : Nat) : (d.wake core slot token).joinFired = d.joinFired := rfl
@[simp] theorem Device.wake_heldPush (d : Device) (core slot token : Nat) : (d.wake core slot token).heldPush = d.heldPush := rfl
@[simp] theorem Device.wake_heldSealed (d : Device) (core slot token : Nat) : (d.wake core slot token).heldSealed = d.heldSealed := rfl
@[simp] theorem Device.wake_pageReqs (d : Device) (core slot token : Nat) : (d.wake core slot token).pageReqs = d.pageReqs := rfl
@[simp] theorem Device.wake_privUsed (d : Device) (core slot token : Nat) : (d.wake core slot token).privUsed = d.privUsed := rfl
@[simp] theorem Device.wake_touches (d : Device) (core slot token : Nat) : (d.wake core slot token).touches = d.touches := rfl
@[simp] theorem Device.wake_l1 (d : Device) (core slot token : Nat) : (d.wake core slot token).l1 = d.l1 := rfl
@[simp] theorem Device.wake_l1Lines (d : Device) (core slot token : Nat) : (d.wake core slot token).l1Lines = d.l1Lines := rfl
@[simp] theorem Device.wake_icache (d : Device) (core slot token : Nat) : (d.wake core slot token).icache = d.icache := rfl
@[simp] theorem Device.wake_old (d : Device) (core slot token : Nat) : (d.wake core slot token).old = d.old := rfl
@[simp] theorem Device.wake_tlb (d : Device) (core slot token : Nat) : (d.wake core slot token).tlb = d.tlb := rfl
@[simp] theorem Device.wake_tables (d : Device) (core slot token : Nat) : (d.wake core slot token).tables = d.tables := rfl
@[simp] theorem Device.wake_coreGate (d : Device) (core slot token : Nat) : (d.wake core slot token).coreGate = d.coreGate := rfl
@[simp] theorem Device.wake_engGate (d : Device) (core slot token : Nat) : (d.wake core slot token).engGate = d.engGate := rfl
@[simp] theorem Device.wake_errors (d : Device) (core slot token : Nat) : (d.wake core slot token).errors = d.errors := rfl
@[simp] theorem Device.wake_msix (d : Device) (core slot token : Nat) : (d.wake core slot token).msix = d.msix := rfl
@[simp] theorem Device.wake_sridx (d : Device) (core slot token : Nat) : (d.wake core slot token).sridx = d.sridx := rfl
@[simp] theorem Device.wake_nextId (d : Device) (core slot token : Nat) : (d.wake core slot token).nextId = d.nextId := rfl
@[simp] theorem Device.wake_rrBacking (d : Device) (core slot token : Nat) : (d.wake core slot token).rrBacking = d.rrBacking := rfl
@[simp] theorem Device.wake_rrQueue (d : Device) (core slot token : Nat) : (d.wake core slot token).rrQueue = d.rrQueue := rfl
@[simp] theorem Device.wake_roomFor (d : Device) (core slot token : Nat) : (d.wake core slot token).roomFor = d.roomFor := rfl
@[simp] theorem Device.wake_issues (d : Device) (core slot token : Nat) : (d.wake core slot token).issues = d.issues := rfl
@[simp] theorem Device.wake_cycleIssues (d : Device) (core slot token : Nat) : (d.wake core slot token).cycleIssues = d.cycleIssues := rfl
@[simp] theorem Device.wake_owed (d : Device) (core slot token : Nat) : (d.wake core slot token).owed = d.owed := rfl
@[simp] theorem Device.wake_hostRead (d : Device) (core slot token : Nat) : (d.wake core slot token).hostRead = d.hostRead := rfl

/-! ### Device.commit -/

@[simp] theorem Device.commit_mem (d : Device) (key : Nat) (x : View) : (d.commit key x).mem = d.mem := rfl
@[simp] theorem Device.commit_host (d : Device) (key : Nat) (x : View) : (d.commit key x).host = d.host := rfl
@[simp] theorem Device.commit_peer (d : Device) (key : Nat) (x : View) : (d.commit key x).peer = d.peer := rfl
@[simp] theorem Device.commit_poison (d : Device) (key : Nat) (x : View) : (d.commit key x).poison = d.poison := rfl
@[simp] theorem Device.commit_spad (d : Device) (key : Nat) (x : View) : (d.commit key x).spad = d.spad := rfl
@[simp] theorem Device.commit_spadOwner (d : Device) (key : Nat) (x : View) : (d.commit key x).spadOwner = d.spadOwner := rfl
@[simp] theorem Device.commit_ctxs (d : Device) (key : Nat) (x : View) : (d.commit key x).ctxs = d.ctxs := rfl
@[simp] theorem Device.commit_teams (d : Device) (key : Nat) (x : View) : (d.commit key x).teams = d.teams := rfl
@[simp] theorem Device.commit_launches (d : Device) (key : Nat) (x : View) : (d.commit key x).launches = d.launches := rfl
@[simp] theorem Device.commit_local_ (d : Device) (key : Nat) (x : View) : (d.commit key x).local_ = d.local_ := rfl
@[simp] theorem Device.commit_copies (d : Device) (key : Nat) (x : View) : (d.commit key x).copies = d.copies := rfl
@[simp] theorem Device.commit_entries (d : Device) (key : Nat) (x : View) : (d.commit key x).entries = d.entries := rfl
@[simp] theorem Device.commit_gqs (d : Device) (key : Nat) (x : View) : (d.commit key x).gqs = d.gqs := rfl
@[simp] theorem Device.commit_drains (d : Device) (key : Nat) (x : View) : (d.commit key x).drains = d.drains := rfl
@[simp] theorem Device.commit_lends (d : Device) (key : Nat) (x : View) : (d.commit key x).lends = d.lends := rfl
@[simp] theorem Device.commit_parkedLends (d : Device) (key : Nat) (x : View) : (d.commit key x).parkedLends = d.parkedLends := rfl
@[simp] theorem Device.commit_balked (d : Device) (key : Nat) (x : View) : (d.commit key x).balked = d.balked := rfl
@[simp] theorem Device.commit_monitors (d : Device) (key : Nat) (x : View) : (d.commit key x).monitors = d.monitors := rfl
@[simp] theorem Device.commit_futStamps (d : Device) (key : Nat) (x : View) : (d.commit key x).futStamps = d.futStamps := rfl
@[simp] theorem Device.commit_joins (d : Device) (key : Nat) (x : View) : (d.commit key x).joins = d.joins := rfl
@[simp] theorem Device.commit_joinFired (d : Device) (key : Nat) (x : View) : (d.commit key x).joinFired = d.joinFired := rfl
@[simp] theorem Device.commit_heldPush (d : Device) (key : Nat) (x : View) : (d.commit key x).heldPush = d.heldPush := rfl
@[simp] theorem Device.commit_heldSealed (d : Device) (key : Nat) (x : View) : (d.commit key x).heldSealed = d.heldSealed := rfl
@[simp] theorem Device.commit_pageReqs (d : Device) (key : Nat) (x : View) : (d.commit key x).pageReqs = d.pageReqs := rfl
@[simp] theorem Device.commit_privUsed (d : Device) (key : Nat) (x : View) : (d.commit key x).privUsed = d.privUsed := rfl
@[simp] theorem Device.commit_touches (d : Device) (key : Nat) (x : View) : (d.commit key x).touches = d.touches := rfl
@[simp] theorem Device.commit_l1 (d : Device) (key : Nat) (x : View) : (d.commit key x).l1 = d.l1 := rfl
@[simp] theorem Device.commit_l1Lines (d : Device) (key : Nat) (x : View) : (d.commit key x).l1Lines = d.l1Lines := rfl
@[simp] theorem Device.commit_icache (d : Device) (key : Nat) (x : View) : (d.commit key x).icache = d.icache := rfl
@[simp] theorem Device.commit_old (d : Device) (key : Nat) (x : View) : (d.commit key x).old = d.old := rfl
@[simp] theorem Device.commit_tlb (d : Device) (key : Nat) (x : View) : (d.commit key x).tlb = d.tlb := rfl
@[simp] theorem Device.commit_tables (d : Device) (key : Nat) (x : View) : (d.commit key x).tables = d.tables := rfl
@[simp] theorem Device.commit_coreGate (d : Device) (key : Nat) (x : View) : (d.commit key x).coreGate = d.coreGate := rfl
@[simp] theorem Device.commit_engGate (d : Device) (key : Nat) (x : View) : (d.commit key x).engGate = d.engGate := rfl
@[simp] theorem Device.commit_errors (d : Device) (key : Nat) (x : View) : (d.commit key x).errors = d.errors := rfl
@[simp] theorem Device.commit_msix (d : Device) (key : Nat) (x : View) : (d.commit key x).msix = d.msix := rfl
@[simp] theorem Device.commit_sridx (d : Device) (key : Nat) (x : View) : (d.commit key x).sridx = d.sridx := rfl
@[simp] theorem Device.commit_nextId (d : Device) (key : Nat) (x : View) : (d.commit key x).nextId = d.nextId := rfl
@[simp] theorem Device.commit_rrBacking (d : Device) (key : Nat) (x : View) : (d.commit key x).rrBacking = d.rrBacking := rfl
@[simp] theorem Device.commit_rrQueue (d : Device) (key : Nat) (x : View) : (d.commit key x).rrQueue = d.rrQueue := rfl
@[simp] theorem Device.commit_roomFor (d : Device) (key : Nat) (x : View) : (d.commit key x).roomFor = d.roomFor := rfl
@[simp] theorem Device.commit_issues (d : Device) (key : Nat) (x : View) : (d.commit key x).issues = d.issues := rfl
@[simp] theorem Device.commit_cycleIssues (d : Device) (key : Nat) (x : View) : (d.commit key x).cycleIssues = d.cycleIssues := rfl
@[simp] theorem Device.commit_owed (d : Device) (key : Nat) (x : View) : (d.commit key x).owed = d.owed := rfl
@[simp] theorem Device.commit_hostRead (d : Device) (key : Nat) (x : View) : (d.commit key x).hostRead = d.hostRead := rfl
@[simp] theorem Device.commit_groups (d : Device) (key : Nat) (x : View) : (d.commit key x).groups = d.groups.set key { x.g with splits := d.splitsAt key x } := rfl

/-! ### Device.withSpace -/

@[simp] theorem Device.withSpace_poison (d : Device) (t : Space) (m : SMap 8) : (d.withSpace t m).poison = d.poison := by cases t <;> rfl
@[simp] theorem Device.withSpace_spad (d : Device) (t : Space) (m : SMap 8) : (d.withSpace t m).spad = d.spad := by cases t <;> rfl
@[simp] theorem Device.withSpace_spadOwner (d : Device) (t : Space) (m : SMap 8) : (d.withSpace t m).spadOwner = d.spadOwner := by cases t <;> rfl
@[simp] theorem Device.withSpace_ctxs (d : Device) (t : Space) (m : SMap 8) : (d.withSpace t m).ctxs = d.ctxs := by cases t <;> rfl
@[simp] theorem Device.withSpace_groups (d : Device) (t : Space) (m : SMap 8) : (d.withSpace t m).groups = d.groups := by cases t <;> rfl
@[simp] theorem Device.withSpace_teams (d : Device) (t : Space) (m : SMap 8) : (d.withSpace t m).teams = d.teams := by cases t <;> rfl
@[simp] theorem Device.withSpace_launches (d : Device) (t : Space) (m : SMap 8) : (d.withSpace t m).launches = d.launches := by cases t <;> rfl
@[simp] theorem Device.withSpace_local_ (d : Device) (t : Space) (m : SMap 8) : (d.withSpace t m).local_ = d.local_ := by cases t <;> rfl
@[simp] theorem Device.withSpace_copies (d : Device) (t : Space) (m : SMap 8) : (d.withSpace t m).copies = d.copies := by cases t <;> rfl
@[simp] theorem Device.withSpace_entries (d : Device) (t : Space) (m : SMap 8) : (d.withSpace t m).entries = d.entries := by cases t <;> rfl
@[simp] theorem Device.withSpace_gqs (d : Device) (t : Space) (m : SMap 8) : (d.withSpace t m).gqs = d.gqs := by cases t <;> rfl
@[simp] theorem Device.withSpace_drains (d : Device) (t : Space) (m : SMap 8) : (d.withSpace t m).drains = d.drains := by cases t <;> rfl
@[simp] theorem Device.withSpace_lends (d : Device) (t : Space) (m : SMap 8) : (d.withSpace t m).lends = d.lends := by cases t <;> rfl
@[simp] theorem Device.withSpace_parkedLends (d : Device) (t : Space) (m : SMap 8) : (d.withSpace t m).parkedLends = d.parkedLends := by cases t <;> rfl
@[simp] theorem Device.withSpace_balked (d : Device) (t : Space) (m : SMap 8) : (d.withSpace t m).balked = d.balked := by cases t <;> rfl
@[simp] theorem Device.withSpace_monitors (d : Device) (t : Space) (m : SMap 8) : (d.withSpace t m).monitors = d.monitors := by cases t <;> rfl
@[simp] theorem Device.withSpace_futStamps (d : Device) (t : Space) (m : SMap 8) : (d.withSpace t m).futStamps = d.futStamps := by cases t <;> rfl
@[simp] theorem Device.withSpace_joins (d : Device) (t : Space) (m : SMap 8) : (d.withSpace t m).joins = d.joins := by cases t <;> rfl
@[simp] theorem Device.withSpace_joinFired (d : Device) (t : Space) (m : SMap 8) : (d.withSpace t m).joinFired = d.joinFired := by cases t <;> rfl
@[simp] theorem Device.withSpace_heldPush (d : Device) (t : Space) (m : SMap 8) : (d.withSpace t m).heldPush = d.heldPush := by cases t <;> rfl
@[simp] theorem Device.withSpace_heldSealed (d : Device) (t : Space) (m : SMap 8) : (d.withSpace t m).heldSealed = d.heldSealed := by cases t <;> rfl
@[simp] theorem Device.withSpace_pageReqs (d : Device) (t : Space) (m : SMap 8) : (d.withSpace t m).pageReqs = d.pageReqs := by cases t <;> rfl
@[simp] theorem Device.withSpace_privUsed (d : Device) (t : Space) (m : SMap 8) : (d.withSpace t m).privUsed = d.privUsed := by cases t <;> rfl
@[simp] theorem Device.withSpace_touches (d : Device) (t : Space) (m : SMap 8) : (d.withSpace t m).touches = d.touches := by cases t <;> rfl
@[simp] theorem Device.withSpace_l1 (d : Device) (t : Space) (m : SMap 8) : (d.withSpace t m).l1 = d.l1 := by cases t <;> rfl
@[simp] theorem Device.withSpace_l1Lines (d : Device) (t : Space) (m : SMap 8) : (d.withSpace t m).l1Lines = d.l1Lines := by cases t <;> rfl
@[simp] theorem Device.withSpace_icache (d : Device) (t : Space) (m : SMap 8) : (d.withSpace t m).icache = d.icache := by cases t <;> rfl
@[simp] theorem Device.withSpace_old (d : Device) (t : Space) (m : SMap 8) : (d.withSpace t m).old = d.old := by cases t <;> rfl
@[simp] theorem Device.withSpace_tlb (d : Device) (t : Space) (m : SMap 8) : (d.withSpace t m).tlb = d.tlb := by cases t <;> rfl
@[simp] theorem Device.withSpace_tables (d : Device) (t : Space) (m : SMap 8) : (d.withSpace t m).tables = d.tables := by cases t <;> rfl
@[simp] theorem Device.withSpace_coreGate (d : Device) (t : Space) (m : SMap 8) : (d.withSpace t m).coreGate = d.coreGate := by cases t <;> rfl
@[simp] theorem Device.withSpace_engGate (d : Device) (t : Space) (m : SMap 8) : (d.withSpace t m).engGate = d.engGate := by cases t <;> rfl
@[simp] theorem Device.withSpace_errors (d : Device) (t : Space) (m : SMap 8) : (d.withSpace t m).errors = d.errors := by cases t <;> rfl
@[simp] theorem Device.withSpace_msix (d : Device) (t : Space) (m : SMap 8) : (d.withSpace t m).msix = d.msix := by cases t <;> rfl
@[simp] theorem Device.withSpace_sridx (d : Device) (t : Space) (m : SMap 8) : (d.withSpace t m).sridx = d.sridx := by cases t <;> rfl
@[simp] theorem Device.withSpace_nextId (d : Device) (t : Space) (m : SMap 8) : (d.withSpace t m).nextId = d.nextId := by cases t <;> rfl
@[simp] theorem Device.withSpace_rrBacking (d : Device) (t : Space) (m : SMap 8) : (d.withSpace t m).rrBacking = d.rrBacking := by cases t <;> rfl
@[simp] theorem Device.withSpace_rrQueue (d : Device) (t : Space) (m : SMap 8) : (d.withSpace t m).rrQueue = d.rrQueue := by cases t <;> rfl
@[simp] theorem Device.withSpace_roomFor (d : Device) (t : Space) (m : SMap 8) : (d.withSpace t m).roomFor = d.roomFor := by cases t <;> rfl
@[simp] theorem Device.withSpace_issues (d : Device) (t : Space) (m : SMap 8) : (d.withSpace t m).issues = d.issues := by cases t <;> rfl
@[simp] theorem Device.withSpace_cycleIssues (d : Device) (t : Space) (m : SMap 8) : (d.withSpace t m).cycleIssues = d.cycleIssues := by cases t <;> rfl
@[simp] theorem Device.withSpace_owed (d : Device) (t : Space) (m : SMap 8) : (d.withSpace t m).owed = d.owed := by cases t <;> rfl
@[simp] theorem Device.withSpace_hostRead (d : Device) (t : Space) (m : SMap 8) : (d.withSpace t m).hostRead = d.hostRead := by cases t <;> rfl

/-! ### Device.noteWrite -/

@[simp] theorem Device.noteWrite_mem (d : Device) (line : Nat) : (d.noteWrite line).mem = d.mem := rfl
@[simp] theorem Device.noteWrite_host (d : Device) (line : Nat) : (d.noteWrite line).host = d.host := rfl
@[simp] theorem Device.noteWrite_peer (d : Device) (line : Nat) : (d.noteWrite line).peer = d.peer := rfl
@[simp] theorem Device.noteWrite_poison (d : Device) (line : Nat) : (d.noteWrite line).poison = d.poison := rfl
@[simp] theorem Device.noteWrite_spad (d : Device) (line : Nat) : (d.noteWrite line).spad = d.spad := rfl
@[simp] theorem Device.noteWrite_spadOwner (d : Device) (line : Nat) : (d.noteWrite line).spadOwner = d.spadOwner := rfl
@[simp] theorem Device.noteWrite_ctxs (d : Device) (line : Nat) : (d.noteWrite line).ctxs = d.ctxs := rfl
@[simp] theorem Device.noteWrite_teams (d : Device) (line : Nat) : (d.noteWrite line).teams = d.teams := rfl
@[simp] theorem Device.noteWrite_launches (d : Device) (line : Nat) : (d.noteWrite line).launches = d.launches := rfl
@[simp] theorem Device.noteWrite_local_ (d : Device) (line : Nat) : (d.noteWrite line).local_ = d.local_ := rfl
@[simp] theorem Device.noteWrite_copies (d : Device) (line : Nat) : (d.noteWrite line).copies = d.copies := rfl
@[simp] theorem Device.noteWrite_entries (d : Device) (line : Nat) : (d.noteWrite line).entries = d.entries := rfl
@[simp] theorem Device.noteWrite_gqs (d : Device) (line : Nat) : (d.noteWrite line).gqs = d.gqs := rfl
@[simp] theorem Device.noteWrite_drains (d : Device) (line : Nat) : (d.noteWrite line).drains = d.drains := rfl
@[simp] theorem Device.noteWrite_lends (d : Device) (line : Nat) : (d.noteWrite line).lends = d.lends := rfl
@[simp] theorem Device.noteWrite_parkedLends (d : Device) (line : Nat) : (d.noteWrite line).parkedLends = d.parkedLends := rfl
@[simp] theorem Device.noteWrite_balked (d : Device) (line : Nat) : (d.noteWrite line).balked = d.balked := rfl
@[simp] theorem Device.noteWrite_futStamps (d : Device) (line : Nat) : (d.noteWrite line).futStamps = d.futStamps := rfl
@[simp] theorem Device.noteWrite_joins (d : Device) (line : Nat) : (d.noteWrite line).joins = d.joins := rfl
@[simp] theorem Device.noteWrite_joinFired (d : Device) (line : Nat) : (d.noteWrite line).joinFired = d.joinFired := rfl
@[simp] theorem Device.noteWrite_heldPush (d : Device) (line : Nat) : (d.noteWrite line).heldPush = d.heldPush := rfl
@[simp] theorem Device.noteWrite_heldSealed (d : Device) (line : Nat) : (d.noteWrite line).heldSealed = d.heldSealed := rfl
@[simp] theorem Device.noteWrite_pageReqs (d : Device) (line : Nat) : (d.noteWrite line).pageReqs = d.pageReqs := rfl
@[simp] theorem Device.noteWrite_privUsed (d : Device) (line : Nat) : (d.noteWrite line).privUsed = d.privUsed := rfl
@[simp] theorem Device.noteWrite_touches (d : Device) (line : Nat) : (d.noteWrite line).touches = d.touches := rfl
@[simp] theorem Device.noteWrite_l1 (d : Device) (line : Nat) : (d.noteWrite line).l1 = d.l1 := rfl
@[simp] theorem Device.noteWrite_l1Lines (d : Device) (line : Nat) : (d.noteWrite line).l1Lines = d.l1Lines := rfl
@[simp] theorem Device.noteWrite_icache (d : Device) (line : Nat) : (d.noteWrite line).icache = d.icache := rfl
@[simp] theorem Device.noteWrite_old (d : Device) (line : Nat) : (d.noteWrite line).old = d.old := rfl
@[simp] theorem Device.noteWrite_tlb (d : Device) (line : Nat) : (d.noteWrite line).tlb = d.tlb := rfl
@[simp] theorem Device.noteWrite_tables (d : Device) (line : Nat) : (d.noteWrite line).tables = d.tables := rfl
@[simp] theorem Device.noteWrite_coreGate (d : Device) (line : Nat) : (d.noteWrite line).coreGate = d.coreGate := rfl
@[simp] theorem Device.noteWrite_engGate (d : Device) (line : Nat) : (d.noteWrite line).engGate = d.engGate := rfl
@[simp] theorem Device.noteWrite_errors (d : Device) (line : Nat) : (d.noteWrite line).errors = d.errors := rfl
@[simp] theorem Device.noteWrite_msix (d : Device) (line : Nat) : (d.noteWrite line).msix = d.msix := rfl
@[simp] theorem Device.noteWrite_sridx (d : Device) (line : Nat) : (d.noteWrite line).sridx = d.sridx := rfl
@[simp] theorem Device.noteWrite_nextId (d : Device) (line : Nat) : (d.noteWrite line).nextId = d.nextId := rfl
@[simp] theorem Device.noteWrite_rrBacking (d : Device) (line : Nat) : (d.noteWrite line).rrBacking = d.rrBacking := rfl
@[simp] theorem Device.noteWrite_rrQueue (d : Device) (line : Nat) : (d.noteWrite line).rrQueue = d.rrQueue := rfl
@[simp] theorem Device.noteWrite_roomFor (d : Device) (line : Nat) : (d.noteWrite line).roomFor = d.roomFor := rfl
@[simp] theorem Device.noteWrite_issues (d : Device) (line : Nat) : (d.noteWrite line).issues = d.issues := rfl
@[simp] theorem Device.noteWrite_cycleIssues (d : Device) (line : Nat) : (d.noteWrite line).cycleIssues = d.cycleIssues := rfl
@[simp] theorem Device.noteWrite_owed (d : Device) (line : Nat) : (d.noteWrite line).owed = d.owed := rfl
@[simp] theorem Device.noteWrite_hostRead (d : Device) (line : Nat) : (d.noteWrite line).hostRead = d.hostRead := rfl

/-! ### Group.put -/

@[simp] theorem Group.put_ctx (g : Group) (low : Nat) (l : List Split) : (g.put low l).ctx = g.ctx := rfl
@[simp] theorem Group.put_guid (g : Group) (low : Nat) (l : List Split) : (g.put low l).guid = g.guid := rfl
@[simp] theorem Group.put_team (g : Group) (low : Nat) (l : List Split) : (g.put low l).team = g.team := rfl
@[simp] theorem Group.put_gid (g : Group) (low : Nat) (l : List Split) : (g.put low l).gid = g.gid := rfl
@[simp] theorem Group.put_width (g : Group) (low : Nat) (l : List Split) : (g.put low l).width = g.width := rfl
@[simp] theorem Group.put_nreg (g : Group) (low : Nat) (l : List Split) : (g.put low l).nreg = g.nreg := rfl
@[simp] theorem Group.put_v (g : Group) (low : Nat) (l : List Split) : (g.put low l).v = g.v := rfl
@[simp] theorem Group.put_s (g : Group) (low : Nat) (l : List Split) : (g.put low l).s = g.s := rfl
@[simp] theorem Group.put_h (g : Group) (low : Nat) (l : List Split) : (g.put low l).h = g.h := rfl
@[simp] theorem Group.put_wBase (g : Group) (low : Nat) (l : List Split) : (g.put low l).wBase = g.wBase := rfl
@[simp] theorem Group.put_wSize (g : Group) (low : Nat) (l : List Split) : (g.put low l).wSize = g.wSize := rfl
@[simp] theorem Group.put_q (g : Group) (low : Nat) (l : List Split) : (g.put low l).q = g.q := rfl
@[simp] theorem Group.put_rng (g : Group) (low : Nat) (l : List Split) : (g.put low l).rng = g.rng := rfl
@[simp] theorem Group.put_fx (g : Group) (low : Nat) (l : List Split) : (g.put low l).fx = g.fx := rfl
@[simp] theorem Group.put_rmode (g : Group) (low : Nat) (l : List Split) : (g.put low l).rmode = g.rmode := rfl
@[simp] theorem Group.put_seed (g : Group) (low : Nat) (l : List Split) : (g.put low l).seed = g.seed := rfl
@[simp] theorem Group.put_tvec (g : Group) (low : Nat) (l : List Split) : (g.put low l).tvec = g.tvec := rfl
@[simp] theorem Group.put_prio (g : Group) (low : Nat) (l : List Split) : (g.put low l).prio = g.prio := rfl
@[simp] theorem Group.put_swarm (g : Group) (low : Nat) (l : List Split) : (g.put low l).swarm = g.swarm := rfl
@[simp] theorem Group.put_result (g : Group) (low : Nat) (l : List Split) : (g.put low l).result = g.result := rfl
@[simp] theorem Group.put_task (g : Group) (low : Nat) (l : List Split) : (g.put low l).task = g.task := rfl
@[simp] theorem Group.put_block (g : Group) (low : Nat) (l : List Split) : (g.put low l).block = g.block := rfl
@[simp] theorem Group.put_inHandler (g : Group) (low : Nat) (l : List Split) : (g.put low l).inHandler = g.inHandler := rfl
@[simp] theorem Group.put_waiting (g : Group) (low : Nat) (l : List Split) : (g.put low l).waiting = g.waiting := rfl
@[simp] theorem Group.put_cancelPend (g : Group) (low : Nat) (l : List Split) : (g.put low l).cancelPend = g.cancelPend := rfl
@[simp] theorem Group.put_lastIssued (g : Group) (low : Nat) (l : List Split) : (g.put low l).lastIssued = g.lastIssued := rfl
@[simp] theorem Group.put_lastCycle (g : Group) (low : Nat) (l : List Split) : (g.put low l).lastCycle = g.lastCycle := rfl
@[simp] theorem Group.put_boosted (g : Group) (low : Nat) (l : List Split) : (g.put low l).boosted = g.boosted := rfl
@[simp] theorem Group.put_inflight (g : Group) (low : Nat) (l : List Split) : (g.put low l).inflight = g.inflight := rfl
@[simp] theorem Group.put_writes (g : Group) (low : Nat) (l : List Split) : (g.put low l).writes = g.writes := rfl
@[simp] theorem Group.put_phases (g : Group) (low : Nat) (l : List Split) : (g.put low l).phases = g.phases := rfl
@[simp] theorem Group.put_placedAt (g : Group) (low : Nat) (l : List Split) : (g.put low l).placedAt = g.placedAt := rfl
@[simp] theorem Group.put_sealBuf (g : Group) (low : Nat) (l : List Split) : (g.put low l).sealBuf = g.sealBuf := rfl
@[simp] theorem Group.put_phase (g : Group) (low : Nat) (l : List Split) : (g.put low l).phase = g.phase := rfl
@[simp] theorem Group.put_startWait (g : Group) (low : Nat) (l : List Split) : (g.put low l).startWait = g.startWait := rfl
@[simp] theorem Group.put_usedGq (g : Group) (low : Nat) (l : List Split) : (g.put low l).usedGq = g.usedGq := rfl
@[simp] theorem Group.put_touchedPriv (g : Group) (low : Nat) (l : List Split) : (g.put low l).touchedPriv = g.touchedPriv := rfl

/-! ### Group.setV -/

@[simp] theorem Group.setV_ctx (g : Group) (r lane : Nat) (v : W32) : (g.setV r lane v).ctx = g.ctx := rfl
@[simp] theorem Group.setV_guid (g : Group) (r lane : Nat) (v : W32) : (g.setV r lane v).guid = g.guid := rfl
@[simp] theorem Group.setV_team (g : Group) (r lane : Nat) (v : W32) : (g.setV r lane v).team = g.team := rfl
@[simp] theorem Group.setV_gid (g : Group) (r lane : Nat) (v : W32) : (g.setV r lane v).gid = g.gid := rfl
@[simp] theorem Group.setV_width (g : Group) (r lane : Nat) (v : W32) : (g.setV r lane v).width = g.width := rfl
@[simp] theorem Group.setV_nreg (g : Group) (r lane : Nat) (v : W32) : (g.setV r lane v).nreg = g.nreg := rfl
@[simp] theorem Group.setV_s (g : Group) (r lane : Nat) (v : W32) : (g.setV r lane v).s = g.s := rfl
@[simp] theorem Group.setV_h (g : Group) (r lane : Nat) (v : W32) : (g.setV r lane v).h = g.h := rfl
@[simp] theorem Group.setV_wBase (g : Group) (r lane : Nat) (v : W32) : (g.setV r lane v).wBase = g.wBase := rfl
@[simp] theorem Group.setV_wSize (g : Group) (r lane : Nat) (v : W32) : (g.setV r lane v).wSize = g.wSize := rfl
@[simp] theorem Group.setV_q (g : Group) (r lane : Nat) (v : W32) : (g.setV r lane v).q = g.q := rfl
@[simp] theorem Group.setV_rng (g : Group) (r lane : Nat) (v : W32) : (g.setV r lane v).rng = g.rng := rfl
@[simp] theorem Group.setV_fx (g : Group) (r lane : Nat) (v : W32) : (g.setV r lane v).fx = g.fx := rfl
@[simp] theorem Group.setV_rmode (g : Group) (r lane : Nat) (v : W32) : (g.setV r lane v).rmode = g.rmode := rfl
@[simp] theorem Group.setV_seed (g : Group) (r lane : Nat) (v : W32) : (g.setV r lane v).seed = g.seed := rfl
@[simp] theorem Group.setV_tvec (g : Group) (r lane : Nat) (v : W32) : (g.setV r lane v).tvec = g.tvec := rfl
@[simp] theorem Group.setV_prio (g : Group) (r lane : Nat) (v : W32) : (g.setV r lane v).prio = g.prio := rfl
@[simp] theorem Group.setV_swarm (g : Group) (r lane : Nat) (v : W32) : (g.setV r lane v).swarm = g.swarm := rfl
@[simp] theorem Group.setV_result (g : Group) (r lane : Nat) (v : W32) : (g.setV r lane v).result = g.result := rfl
@[simp] theorem Group.setV_task (g : Group) (r lane : Nat) (v : W32) : (g.setV r lane v).task = g.task := rfl
@[simp] theorem Group.setV_block (g : Group) (r lane : Nat) (v : W32) : (g.setV r lane v).block = g.block := rfl
@[simp] theorem Group.setV_inHandler (g : Group) (r lane : Nat) (v : W32) : (g.setV r lane v).inHandler = g.inHandler := rfl
@[simp] theorem Group.setV_waiting (g : Group) (r lane : Nat) (v : W32) : (g.setV r lane v).waiting = g.waiting := rfl
@[simp] theorem Group.setV_cancelPend (g : Group) (r lane : Nat) (v : W32) : (g.setV r lane v).cancelPend = g.cancelPend := rfl
@[simp] theorem Group.setV_splits (g : Group) (r lane : Nat) (v : W32) : (g.setV r lane v).splits = g.splits := rfl
@[simp] theorem Group.setV_lastIssued (g : Group) (r lane : Nat) (v : W32) : (g.setV r lane v).lastIssued = g.lastIssued := rfl
@[simp] theorem Group.setV_lastCycle (g : Group) (r lane : Nat) (v : W32) : (g.setV r lane v).lastCycle = g.lastCycle := rfl
@[simp] theorem Group.setV_boosted (g : Group) (r lane : Nat) (v : W32) : (g.setV r lane v).boosted = g.boosted := rfl
@[simp] theorem Group.setV_inflight (g : Group) (r lane : Nat) (v : W32) : (g.setV r lane v).inflight = g.inflight := rfl
@[simp] theorem Group.setV_writes (g : Group) (r lane : Nat) (v : W32) : (g.setV r lane v).writes = g.writes := rfl
@[simp] theorem Group.setV_phases (g : Group) (r lane : Nat) (v : W32) : (g.setV r lane v).phases = g.phases := rfl
@[simp] theorem Group.setV_placedAt (g : Group) (r lane : Nat) (v : W32) : (g.setV r lane v).placedAt = g.placedAt := rfl
@[simp] theorem Group.setV_sealBuf (g : Group) (r lane : Nat) (v : W32) : (g.setV r lane v).sealBuf = g.sealBuf := rfl
@[simp] theorem Group.setV_phase (g : Group) (r lane : Nat) (v : W32) : (g.setV r lane v).phase = g.phase := rfl
@[simp] theorem Group.setV_startWait (g : Group) (r lane : Nat) (v : W32) : (g.setV r lane v).startWait = g.startWait := rfl
@[simp] theorem Group.setV_usedGq (g : Group) (r lane : Nat) (v : W32) : (g.setV r lane v).usedGq = g.usedGq := rfl
@[simp] theorem Group.setV_touchedPriv (g : Group) (r lane : Nat) (v : W32) : (g.setV r lane v).touchedPriv = g.touchedPriv := rfl

/-! ### Group.setRng -/

@[simp] theorem Group.setRng_ctx (g : Group) (lane : Nat) (v : W64) : (g.setRng lane v).ctx = g.ctx := rfl
@[simp] theorem Group.setRng_guid (g : Group) (lane : Nat) (v : W64) : (g.setRng lane v).guid = g.guid := rfl
@[simp] theorem Group.setRng_team (g : Group) (lane : Nat) (v : W64) : (g.setRng lane v).team = g.team := rfl
@[simp] theorem Group.setRng_gid (g : Group) (lane : Nat) (v : W64) : (g.setRng lane v).gid = g.gid := rfl
@[simp] theorem Group.setRng_width (g : Group) (lane : Nat) (v : W64) : (g.setRng lane v).width = g.width := rfl
@[simp] theorem Group.setRng_nreg (g : Group) (lane : Nat) (v : W64) : (g.setRng lane v).nreg = g.nreg := rfl
@[simp] theorem Group.setRng_v (g : Group) (lane : Nat) (v : W64) : (g.setRng lane v).v = g.v := rfl
@[simp] theorem Group.setRng_s (g : Group) (lane : Nat) (v : W64) : (g.setRng lane v).s = g.s := rfl
@[simp] theorem Group.setRng_h (g : Group) (lane : Nat) (v : W64) : (g.setRng lane v).h = g.h := rfl
@[simp] theorem Group.setRng_wBase (g : Group) (lane : Nat) (v : W64) : (g.setRng lane v).wBase = g.wBase := rfl
@[simp] theorem Group.setRng_wSize (g : Group) (lane : Nat) (v : W64) : (g.setRng lane v).wSize = g.wSize := rfl
@[simp] theorem Group.setRng_q (g : Group) (lane : Nat) (v : W64) : (g.setRng lane v).q = g.q := rfl
@[simp] theorem Group.setRng_fx (g : Group) (lane : Nat) (v : W64) : (g.setRng lane v).fx = g.fx := rfl
@[simp] theorem Group.setRng_rmode (g : Group) (lane : Nat) (v : W64) : (g.setRng lane v).rmode = g.rmode := rfl
@[simp] theorem Group.setRng_seed (g : Group) (lane : Nat) (v : W64) : (g.setRng lane v).seed = g.seed := rfl
@[simp] theorem Group.setRng_tvec (g : Group) (lane : Nat) (v : W64) : (g.setRng lane v).tvec = g.tvec := rfl
@[simp] theorem Group.setRng_prio (g : Group) (lane : Nat) (v : W64) : (g.setRng lane v).prio = g.prio := rfl
@[simp] theorem Group.setRng_swarm (g : Group) (lane : Nat) (v : W64) : (g.setRng lane v).swarm = g.swarm := rfl
@[simp] theorem Group.setRng_result (g : Group) (lane : Nat) (v : W64) : (g.setRng lane v).result = g.result := rfl
@[simp] theorem Group.setRng_task (g : Group) (lane : Nat) (v : W64) : (g.setRng lane v).task = g.task := rfl
@[simp] theorem Group.setRng_block (g : Group) (lane : Nat) (v : W64) : (g.setRng lane v).block = g.block := rfl
@[simp] theorem Group.setRng_inHandler (g : Group) (lane : Nat) (v : W64) : (g.setRng lane v).inHandler = g.inHandler := rfl
@[simp] theorem Group.setRng_waiting (g : Group) (lane : Nat) (v : W64) : (g.setRng lane v).waiting = g.waiting := rfl
@[simp] theorem Group.setRng_cancelPend (g : Group) (lane : Nat) (v : W64) : (g.setRng lane v).cancelPend = g.cancelPend := rfl
@[simp] theorem Group.setRng_splits (g : Group) (lane : Nat) (v : W64) : (g.setRng lane v).splits = g.splits := rfl
@[simp] theorem Group.setRng_lastIssued (g : Group) (lane : Nat) (v : W64) : (g.setRng lane v).lastIssued = g.lastIssued := rfl
@[simp] theorem Group.setRng_lastCycle (g : Group) (lane : Nat) (v : W64) : (g.setRng lane v).lastCycle = g.lastCycle := rfl
@[simp] theorem Group.setRng_boosted (g : Group) (lane : Nat) (v : W64) : (g.setRng lane v).boosted = g.boosted := rfl
@[simp] theorem Group.setRng_inflight (g : Group) (lane : Nat) (v : W64) : (g.setRng lane v).inflight = g.inflight := rfl
@[simp] theorem Group.setRng_writes (g : Group) (lane : Nat) (v : W64) : (g.setRng lane v).writes = g.writes := rfl
@[simp] theorem Group.setRng_phases (g : Group) (lane : Nat) (v : W64) : (g.setRng lane v).phases = g.phases := rfl
@[simp] theorem Group.setRng_placedAt (g : Group) (lane : Nat) (v : W64) : (g.setRng lane v).placedAt = g.placedAt := rfl
@[simp] theorem Group.setRng_sealBuf (g : Group) (lane : Nat) (v : W64) : (g.setRng lane v).sealBuf = g.sealBuf := rfl
@[simp] theorem Group.setRng_phase (g : Group) (lane : Nat) (v : W64) : (g.setRng lane v).phase = g.phase := rfl
@[simp] theorem Group.setRng_startWait (g : Group) (lane : Nat) (v : W64) : (g.setRng lane v).startWait = g.startWait := rfl
@[simp] theorem Group.setRng_usedGq (g : Group) (lane : Nat) (v : W64) : (g.setRng lane v).usedGq = g.usedGq := rfl
@[simp] theorem Group.setRng_touchedPriv (g : Group) (lane : Nat) (v : W64) : (g.setRng lane v).touchedPriv = g.touchedPriv := rfl
@[simp] theorem Group.setRng_rng (g : Group) (lane : Nat) (v : W64) : (g.setRng lane v).rng = g.rng.set lane v := rfl

/-! ### Group.restore -/

@[simp] theorem Group.restore_ctx (g : Group) (l : List W32) : (g.restore l).ctx = g.ctx := rfl
@[simp] theorem Group.restore_guid (g : Group) (l : List W32) : (g.restore l).guid = g.guid := rfl
@[simp] theorem Group.restore_team (g : Group) (l : List W32) : (g.restore l).team = g.team := rfl
@[simp] theorem Group.restore_gid (g : Group) (l : List W32) : (g.restore l).gid = g.gid := rfl
@[simp] theorem Group.restore_width (g : Group) (l : List W32) : (g.restore l).width = g.width := rfl
@[simp] theorem Group.restore_nreg (g : Group) (l : List W32) : (g.restore l).nreg = g.nreg := rfl
@[simp] theorem Group.restore_v (g : Group) (l : List W32) : (g.restore l).v = g.v := rfl
@[simp] theorem Group.restore_h (g : Group) (l : List W32) : (g.restore l).h = g.h := rfl
@[simp] theorem Group.restore_wBase (g : Group) (l : List W32) : (g.restore l).wBase = g.wBase := rfl
@[simp] theorem Group.restore_wSize (g : Group) (l : List W32) : (g.restore l).wSize = g.wSize := rfl
@[simp] theorem Group.restore_q (g : Group) (l : List W32) : (g.restore l).q = g.q := rfl
@[simp] theorem Group.restore_rng (g : Group) (l : List W32) : (g.restore l).rng = g.rng := rfl
@[simp] theorem Group.restore_fx (g : Group) (l : List W32) : (g.restore l).fx = g.fx := rfl
@[simp] theorem Group.restore_rmode (g : Group) (l : List W32) : (g.restore l).rmode = g.rmode := rfl
@[simp] theorem Group.restore_seed (g : Group) (l : List W32) : (g.restore l).seed = g.seed := rfl
@[simp] theorem Group.restore_tvec (g : Group) (l : List W32) : (g.restore l).tvec = g.tvec := rfl
@[simp] theorem Group.restore_prio (g : Group) (l : List W32) : (g.restore l).prio = g.prio := rfl
@[simp] theorem Group.restore_swarm (g : Group) (l : List W32) : (g.restore l).swarm = g.swarm := rfl
@[simp] theorem Group.restore_result (g : Group) (l : List W32) : (g.restore l).result = g.result := rfl
@[simp] theorem Group.restore_task (g : Group) (l : List W32) : (g.restore l).task = g.task := rfl
@[simp] theorem Group.restore_block (g : Group) (l : List W32) : (g.restore l).block = g.block := rfl
@[simp] theorem Group.restore_inHandler (g : Group) (l : List W32) : (g.restore l).inHandler = g.inHandler := rfl
@[simp] theorem Group.restore_waiting (g : Group) (l : List W32) : (g.restore l).waiting = g.waiting := rfl
@[simp] theorem Group.restore_cancelPend (g : Group) (l : List W32) : (g.restore l).cancelPend = g.cancelPend := rfl
@[simp] theorem Group.restore_splits (g : Group) (l : List W32) : (g.restore l).splits = g.splits := rfl
@[simp] theorem Group.restore_lastIssued (g : Group) (l : List W32) : (g.restore l).lastIssued = g.lastIssued := rfl
@[simp] theorem Group.restore_lastCycle (g : Group) (l : List W32) : (g.restore l).lastCycle = g.lastCycle := rfl
@[simp] theorem Group.restore_boosted (g : Group) (l : List W32) : (g.restore l).boosted = g.boosted := rfl
@[simp] theorem Group.restore_inflight (g : Group) (l : List W32) : (g.restore l).inflight = g.inflight := rfl
@[simp] theorem Group.restore_writes (g : Group) (l : List W32) : (g.restore l).writes = g.writes := rfl
@[simp] theorem Group.restore_phases (g : Group) (l : List W32) : (g.restore l).phases = g.phases := rfl
@[simp] theorem Group.restore_placedAt (g : Group) (l : List W32) : (g.restore l).placedAt = g.placedAt := rfl
@[simp] theorem Group.restore_sealBuf (g : Group) (l : List W32) : (g.restore l).sealBuf = g.sealBuf := rfl
@[simp] theorem Group.restore_phase (g : Group) (l : List W32) : (g.restore l).phase = g.phase := rfl
@[simp] theorem Group.restore_startWait (g : Group) (l : List W32) : (g.restore l).startWait = g.startWait := rfl
@[simp] theorem Group.restore_usedGq (g : Group) (l : List W32) : (g.restore l).usedGq = g.usedGq := rfl
@[simp] theorem Group.restore_touchedPriv (g : Group) (l : List W32) : (g.restore l).touchedPriv = g.touchedPriv := rfl

/-! ### Group.mergeFlags -/

@[simp] theorem Group.mergeFlags_ctx (g : Group) : (g.mergeFlags).ctx = g.ctx := rfl
@[simp] theorem Group.mergeFlags_guid (g : Group) : (g.mergeFlags).guid = g.guid := rfl
@[simp] theorem Group.mergeFlags_team (g : Group) : (g.mergeFlags).team = g.team := rfl
@[simp] theorem Group.mergeFlags_gid (g : Group) : (g.mergeFlags).gid = g.gid := rfl
@[simp] theorem Group.mergeFlags_width (g : Group) : (g.mergeFlags).width = g.width := rfl
@[simp] theorem Group.mergeFlags_nreg (g : Group) : (g.mergeFlags).nreg = g.nreg := rfl
@[simp] theorem Group.mergeFlags_v (g : Group) : (g.mergeFlags).v = g.v := rfl
@[simp] theorem Group.mergeFlags_s (g : Group) : (g.mergeFlags).s = g.s := rfl
@[simp] theorem Group.mergeFlags_h (g : Group) : (g.mergeFlags).h = g.h := rfl
@[simp] theorem Group.mergeFlags_wBase (g : Group) : (g.mergeFlags).wBase = g.wBase := rfl
@[simp] theorem Group.mergeFlags_wSize (g : Group) : (g.mergeFlags).wSize = g.wSize := rfl
@[simp] theorem Group.mergeFlags_q (g : Group) : (g.mergeFlags).q = g.q := rfl
@[simp] theorem Group.mergeFlags_rng (g : Group) : (g.mergeFlags).rng = g.rng := rfl
@[simp] theorem Group.mergeFlags_rmode (g : Group) : (g.mergeFlags).rmode = g.rmode := rfl
@[simp] theorem Group.mergeFlags_seed (g : Group) : (g.mergeFlags).seed = g.seed := rfl
@[simp] theorem Group.mergeFlags_tvec (g : Group) : (g.mergeFlags).tvec = g.tvec := rfl
@[simp] theorem Group.mergeFlags_prio (g : Group) : (g.mergeFlags).prio = g.prio := rfl
@[simp] theorem Group.mergeFlags_swarm (g : Group) : (g.mergeFlags).swarm = g.swarm := rfl
@[simp] theorem Group.mergeFlags_result (g : Group) : (g.mergeFlags).result = g.result := rfl
@[simp] theorem Group.mergeFlags_task (g : Group) : (g.mergeFlags).task = g.task := rfl
@[simp] theorem Group.mergeFlags_block (g : Group) : (g.mergeFlags).block = g.block := rfl
@[simp] theorem Group.mergeFlags_inHandler (g : Group) : (g.mergeFlags).inHandler = g.inHandler := rfl
@[simp] theorem Group.mergeFlags_waiting (g : Group) : (g.mergeFlags).waiting = g.waiting := rfl
@[simp] theorem Group.mergeFlags_cancelPend (g : Group) : (g.mergeFlags).cancelPend = g.cancelPend := rfl
@[simp] theorem Group.mergeFlags_splits (g : Group) : (g.mergeFlags).splits = g.splits := rfl
@[simp] theorem Group.mergeFlags_lastIssued (g : Group) : (g.mergeFlags).lastIssued = g.lastIssued := rfl
@[simp] theorem Group.mergeFlags_lastCycle (g : Group) : (g.mergeFlags).lastCycle = g.lastCycle := rfl
@[simp] theorem Group.mergeFlags_boosted (g : Group) : (g.mergeFlags).boosted = g.boosted := rfl
@[simp] theorem Group.mergeFlags_writes (g : Group) : (g.mergeFlags).writes = g.writes := rfl
@[simp] theorem Group.mergeFlags_phases (g : Group) : (g.mergeFlags).phases = g.phases := rfl
@[simp] theorem Group.mergeFlags_placedAt (g : Group) : (g.mergeFlags).placedAt = g.placedAt := rfl
@[simp] theorem Group.mergeFlags_sealBuf (g : Group) : (g.mergeFlags).sealBuf = g.sealBuf := rfl
@[simp] theorem Group.mergeFlags_phase (g : Group) : (g.mergeFlags).phase = g.phase := rfl
@[simp] theorem Group.mergeFlags_startWait (g : Group) : (g.mergeFlags).startWait = g.startWait := rfl
@[simp] theorem Group.mergeFlags_usedGq (g : Group) : (g.mergeFlags).usedGq = g.usedGq := rfl
@[simp] theorem Group.mergeFlags_touchedPriv (g : Group) : (g.mergeFlags).touchedPriv = g.touchedPriv := rfl
@[simp] theorem Group.mergeFlags_fx (g : Group) : (g.mergeFlags).fx = g.fx ||| orFlags g.inflight := rfl
@[simp] theorem Group.mergeFlags_inflight (g : Group) : (g.mergeFlags).inflight = [] := rfl

/-! ### View.next -/

@[simp] theorem View.next_g (x : View) (n : Nat) : (x.next n).g = x.g := rfl
@[simp] theorem View.next_sp (x : View) (n : Nat) : (x.next n).sp = { x.sp with pc := x.sp.pc + BitVec.ofNat 64 n } := rfl

/-! ### View.counted -/

@[simp] theorem View.counted_sp (x : View) : (x.counted).sp = x.sp := rfl

/-! ### View.putLanes -/

@[simp] theorem View.putLanes_sp (x : View) (r : Nat) (sx : Bool) (l : List (Nat × List Byte)) : (x.putLanes r sx l).sp = x.sp := rfl

/-! ### Split.demote -/

@[simp] theorem Split.demote_pc (sp : Split) (now : Nat) : (sp.demote now).pc = sp.pc := rfl
@[simp] theorem Split.demote_l (sp : Split) (now : Nat) : (sp.demote now).l = sp.l := rfl
@[simp] theorem Split.demote_e (sp : Split) (now : Nat) : (sp.demote now).e = sp.e := rfl
@[simp] theorem Split.demote_park (sp : Split) (now : Nat) : (sp.demote now).park = sp.park := rfl
@[simp] theorem Split.demote_clkHi (sp : Split) (now : Nat) : (sp.demote now).clkHi = sp.clkHi := rfl
@[simp] theorem Split.demote_timHi (sp : Split) (now : Nat) : (sp.demote now).timHi = sp.timHi := rfl
@[simp] theorem Split.demote_handling (sp : Split) (now : Nat) : (sp.demote now).handling = sp.handling := rfl
@[simp] theorem Split.demote_trapped (sp : Split) (now : Nat) : (sp.demote now).trapped = sp.trapped := rfl
@[simp] theorem Split.demote_spilled (sp : Split) (now : Nat) : (sp.demote now).spilled = sp.spilled := rfl
@[simp] theorem Split.demote_eligibleAt (sp : Split) (now : Nat) : (sp.demote now).eligibleAt = sp.eligibleAt := rfl
@[simp] theorem Split.demote_boosted (sp : Split) (now : Nat) : (sp.demote now).boosted = sp.boosted := rfl
@[simp] theorem Split.demote_token (sp : Split) (now : Nat) : (sp.demote now).token = sp.token := rfl
@[simp] theorem Split.demote_wstart (sp : Split) (now : Nat) : (sp.demote now).wstart = sp.wstart := rfl
@[simp] theorem Split.demote_rewait (sp : Split) (now : Nat) : (sp.demote now).rewait = sp.rewait := rfl
@[simp] theorem Split.demote_queued (sp : Split) (now : Nat) : (sp.demote now).queued = sp.queued := rfl
@[simp] theorem Split.demote_home (sp : Split) (now : Nat) : (sp.demote now).home = sp.home := rfl
@[simp] theorem Split.demote_issued (sp : Split) (now : Nat) : (sp.demote now).issued = sp.issued := rfl

end Sys2Proof.Machine
end

