-- ==== Sys2Proof/Laws/Store.lean ====
section
/-! SUPPORT. Laws of the sparse stores and tables: read after write, a write leaves every other key alone, and every
operation keeps the canonical form. -/

namespace Sys2Proof.Machine

@[simp] theorem SMap.get_nil {w : Nat} (a : Nat) : SMap.get ([] : SMap w) a = 0 := rfl

/-- Nothing is listed at a dropped key. -/
@[simp] theorem SMap.get_drop_same {w : Nat} (m : SMap w) (a : Nat) : (SMap.drop m a).get a = 0 := by
  induction m with
  | nil => rfl
  | cons p m ih => by_cases h : a = p.1 <;> simp [SMap.drop, SMap.get, h] <;> simpa [h] using ih

/-- Dropping a key leaves every other one alone. -/
theorem SMap.get_drop_ne {w : Nat} (m : SMap w) {a b : Nat} (hb : b ≠ a) : (SMap.drop m a).get b = m.get b := by
  induction m with
  | nil => rfl
  | cons p m ih =>
    by_cases h : a = p.1
    · have : b ≠ p.1 := by omega
      simp [SMap.drop, SMap.get, h, this] at ih ⊢
      simpa [h] using ih
    · simp [SMap.drop, SMap.get, h, ih]

/-- Read after write. -/
@[simp] theorem SMap.get_set_same {w : Nat} (m : SMap w) (a : Nat) (x : BitVec w) : (m.set a x).get a = x := by
  have hc : ∀ n : SMap w, (SMap.cons a x n).get a = x := by
    intro n
    by_cases hx : x = 0#w <;> simp [SMap.cons, SMap.get, hx]
  induction m with
  | nil => simpa [SMap.set] using hc []
  | cons p m ih =>
    by_cases h1 : a < p.1
    · simpa [SMap.set, h1] using hc (p :: m)
    · by_cases h2 : a = p.1
      · simpa [SMap.set, h2] using (h2 ▸ hc m)
      · simp [SMap.set, SMap.get, h1, h2, ih]

/-- A write leaves every other key alone. -/
theorem SMap.get_set_ne {w : Nat} (m : SMap w) {a b : Nat} (x : BitVec w) (hb : b ≠ a) : (m.set a x).get b = m.get b := by
  have hc : ∀ n : SMap w, (SMap.cons a x n).get b = n.get b := by
    intro n
    by_cases hx : x = 0#w <;> simp [SMap.cons, SMap.get, hx, hb, SMap.get_drop_ne n hb]
  induction m with
  | nil => simpa [SMap.set] using hc []
  | cons p m ih =>
    by_cases h1 : a < p.1
    · simpa [SMap.set, h1] using hc (p :: m)
    · by_cases h2 : a = p.1
      · have : b ≠ p.1 := by omega
        have := hc m
        simp [SMap.set, h2, SMap.get, ‹b ≠ p.1›] at this ⊢
        simpa [h2] using this
      · simp [SMap.set, SMap.get, h1, h2, ih]

/-- Read after write, at any key. -/
theorem SMap.get_set {w : Nat} (m : SMap w) (a b : Nat) (x : BitVec w) :
    (m.set a x).get b = if b = a then x else m.get b := by
  by_cases h : b = a
  · simp [h]
  · simp [h, SMap.get_set_ne m x h]

/-- A store whose keys start at a bound also starts below it. -/
theorem SMap.wfFrom_le {w : Nat} {m : SMap w} {b c : Nat} (h : SMap.wfFrom b m = true) (hc : c ≤ b) :
    SMap.wfFrom c m = true := by
  cases m with
  | nil => rfl
  | cons p m =>
    simp only [SMap.wfFrom, Bool.and_eq_true, decide_eq_true_eq] at h ⊢
    exact ⟨⟨by omega, h.1.2⟩, h.2⟩

/-- Dropping a key keeps the canonical form. -/
theorem SMap.wfFrom_drop {w : Nat} (m : SMap w) (a b : Nat) (h : SMap.wfFrom b m = true) :
    SMap.wfFrom b (SMap.drop m a) = true := by
  induction m generalizing b with
  | nil => rfl
  | cons p m ih =>
    simp only [SMap.wfFrom, Bool.and_eq_true, decide_eq_true_eq] at h
    have hp : p.2 ≠ 0#w := h.1.2
    by_cases hk : a = p.1
    · simpa [SMap.drop, hk] using ih b (SMap.wfFrom_le h.2 (by omega)) |> (hk ▸ ·)
    · simp [SMap.drop, hk, SMap.wfFrom, h.1.1, hp, ih _ h.2]

/-- A write keeps the canonical form, above any bound that its key respects. -/
theorem SMap.wfFrom_set {w : Nat} (m : SMap w) (a b : Nat) (x : BitVec w) (h : SMap.wfFrom b m = true) (hb : b ≤ a) :
    SMap.wfFrom b (m.set a x) = true := by
  induction m generalizing b with
  | nil => by_cases hx : x = 0#w <;> simp [SMap.set, SMap.cons, SMap.drop, SMap.wfFrom, hx, hb]
  | cons p m ih =>
    have h0 := h
    simp only [SMap.wfFrom, Bool.and_eq_true, decide_eq_true_eq] at h
    have hp : p.2 ≠ 0#w := h.1.2
    by_cases h1 : a < p.1
    · by_cases hx : x = 0#w
      · simpa [SMap.set, h1, SMap.cons, hx] using SMap.wfFrom_drop _ a b h0
      · simp [SMap.set, h1, SMap.cons, hx, SMap.wfFrom, hb, hp, h.2]
    · by_cases h2 : a = p.1
      · by_cases hx : x = 0#w
        · simpa [SMap.set, h2, SMap.cons, hx] using SMap.wfFrom_drop m p.1 b (SMap.wfFrom_le h.2 (by omega))
        · simp [SMap.set, h2, SMap.cons, hx, SMap.wfFrom, h.2, h.1.1]
      · simp [SMap.set, h1, h2, SMap.wfFrom, h.1.1, hp, ih _ h.2 (by omega)]

/-- A write keeps the canonical form. -/
theorem SMap.wf_set {w : Nat} (m : SMap w) (a : Nat) (x : BitVec w) (h : m.wf = true) : (m.set a x).wf = true :=
  SMap.wfFrom_set m a 0 x h (Nat.zero_le a)

/-! ### Tables -/

@[simp] theorem AMap.get_nil {α : Type} (a : Nat) : AMap.get ([] : AMap α) a = none := rfl

/-- Read after write. -/
@[simp] theorem AMap.get_set_same {α : Type} (m : AMap α) (a : Nat) (x : α) : (m.set a x).get a = some x := by
  induction m with
  | nil => simp [AMap.set, AMap.get]
  | cons p m ih =>
    by_cases h1 : a < p.1
    · simp [AMap.set, AMap.get, h1]
    · by_cases h2 : a = p.1
      · simp [AMap.set, AMap.get, h2]
      · simp [AMap.set, AMap.get, h1, h2, ih]

/-- A write leaves every other key alone. -/
theorem AMap.get_set_ne {α : Type} (m : AMap α) {a b : Nat} (x : α) (hb : b ≠ a) : (m.set a x).get b = m.get b := by
  induction m with
  | nil => simp [AMap.set, AMap.get, hb]
  | cons p m ih =>
    by_cases h1 : a < p.1
    · simp [AMap.set, AMap.get, h1, hb]
    · by_cases h2 : a = p.1
      · have : b ≠ p.1 := by omega
        simp [AMap.set, AMap.get, h2, this]
      · simp [AMap.set, AMap.get, h1, h2, ih]

/-- The later of two writes to one key stands. -/
@[simp] theorem AMap.set_set {α : Type} (m : AMap α) (a : Nat) (x y : α) : (m.set a x).set a y = m.set a y := by
  induction m with
  | nil => simp [AMap.set]
  | cons p m ih =>
    by_cases h1 : a < p.1
    · simp [AMap.set, h1]
    · by_cases h2 : a = p.1
      · simp [AMap.set, h2]
      · simp [AMap.set, h1, h2, ih]

/-- Nothing is listed at an erased key. -/
@[simp] theorem AMap.get_erase_same {α : Type} (m : AMap α) (a : Nat) : (m.erase a).get a = none := by
  induction m with
  | nil => rfl
  | cons p m ih => by_cases h : a = p.1 <;> simp [AMap.erase, AMap.get, h] <;> simpa [h] using ih

/-- Erasing a key leaves every other one alone. -/
theorem AMap.get_erase_ne {α : Type} (m : AMap α) {a b : Nat} (hb : b ≠ a) : (m.erase a).get b = m.get b := by
  induction m with
  | nil => rfl
  | cons p m ih =>
    by_cases h : a = p.1
    · have : b ≠ p.1 := by omega
      simp [AMap.erase, AMap.get, h, this] at ih ⊢
      simpa [h] using ih
    · simp [AMap.erase, AMap.get, h, ih]

/-- An entry changed in place. -/
theorem AMap.get_upd_same {α : Type} (m : AMap α) (a : Nat) (f : α → α) : (m.upd a f).get a = (m.get a).map f := by
  unfold AMap.upd
  cases h : m.get a <;> simp [h]

/-- Changing an entry leaves every other one alone. -/
theorem AMap.get_upd_ne {α : Type} (m : AMap α) {a b : Nat} (f : α → α) (hb : b ≠ a) : (m.upd a f).get b = m.get b := by
  unfold AMap.upd
  cases h : m.get a <;> simp [AMap.get_set_ne _ _ hb]

end Sys2Proof.Machine
end

