-- ==== Sys2Proof/Laws/Memory.lean ====
section
/-! SUPPORT. Laws of memory: bytes read back, and every operation on memory and scratchpad keeps the canonical form. -/

namespace Sys2Proof.Machine

/-- The memories of a device hold their canonical form. -/
def Device.MemOk (d : Device) : Prop := ∀ t, Memory.wf (d.space t) = true

/-- Writing bytes keeps the canonical form. -/
theorem wf_writeBytes (m : SMap 8) (a : Nat) (l : List Byte) (h : SMap.wf m = true) : SMap.wf (writeBytes m a l) = true := by
  induction l generalizing m a with
  | nil => exact h
  | cons b l ih => exact ih _ _ (SMap.wf_set m a b h)

/-- Dropping entries keeps the canonical form. -/
theorem SMap.wfFrom_filter {w : Nat} (p : Nat × BitVec w → Bool) (m : SMap w) (b : Nat) (h : SMap.wfFrom b m = true) :
    SMap.wfFrom b (m.filter p) = true := by
  induction m generalizing b with
  | nil => rfl
  | cons q m ih =>
    have h0 := h
    simp only [SMap.wfFrom, Bool.and_eq_true, decide_eq_true_eq] at h0
    by_cases hq : p q = true
    · simp only [List.filter_cons, hq, if_true, SMap.wfFrom, Bool.and_eq_true, decide_eq_true_eq]
      exact ⟨h0.1, ih _ h0.2⟩
    · simp only [List.filter_cons, hq]
      exact ih _ (SMap.wfFrom_le h0.2 (by omega))

/-- A written byte reads back; every other byte is as before. -/
theorem get_writeBytes (m : SMap 8) (a k : Nat) (l : List Byte) :
    (writeBytes m a l).get k = if a ≤ k ∧ k < a + l.length then l.getD (k - a) 0 else m.get k := by
  induction l generalizing m a with
  | nil => simp [writeBytes]
  | cons b l ih =>
    rw [writeBytes, ih, SMap.get_set]
    by_cases h : k = a
    · subst h; simp
    · by_cases h1 : a + 1 ≤ k ∧ k < a + 1 + l.length
      · have h2 : a ≤ k ∧ k < a + (b :: l).length := by simp; omega
        rw [if_pos h1, if_pos h2]
        obtain ⟨j, rfl⟩ : ∃ j, k = a + 1 + j := ⟨k - (a + 1), by omega⟩
        simp [show a + 1 + j - a = j + 1 by omega]
      · have h2 : ¬ (a ≤ k ∧ k < a + (b :: l).length) := by simp; omega
        rw [if_neg h1, if_neg h2, if_neg h]

@[simp] theorem Device.space_withSpace (d : Device) (t : Space) (m : SMap 8) : (d.withSpace t m).space t = m := by
  cases t <;> rfl

/-- A write of one space leaves the others alone. -/
theorem Device.space_withSpace_ne (d : Device) {t u : Space} (m : SMap 8) (h : u ≠ t) : (d.withSpace t m).space u = d.space u := by
  cases t <;> cases u <;> first | rfl | exact absurd rfl h

/-- Watchers of a line hold no memory. -/
@[simp] theorem Device.space_noteWrite (d : Device) (line : Nat) (t : Space) : (d.noteWrite line).space t = d.space t := by
  cases t <;> rfl

/-- Telling watchers of a line changes no memory. -/
@[simp] theorem Device.space_tell (d : Device) (line : Nat) (t : Space) : (d.tell line).space t = d.space t := by
  unfold Device.tell
  split
  · rfl
  · simp

/-- The L1's lines hold no memory. -/
@[simp] theorem Device.space_l1Lines (d : Device) (l : List L1Line) (t : Space) : ({ d with l1Lines := l } : Device).space t = d.space t := by
  cases t <;> rfl

/-- The L1's sectors hold no memory. -/
@[simp] theorem Device.space_l1 (d : Device) (l : List L1Sector) (t : Space) : ({ d with l1 := l } : Device).space t = d.space t := by
  cases t <;> rfl

/-- A write seen through the L1 alone holds no memory. -/
@[simp] theorem Device.space_noteOwn (d : Device) (pa : Nat) (priv : Bool) (t : Space) : (d.noteOwn pa priv).space t = d.space t := by
  unfold Device.noteOwn
  split <;> simp

/-- A line touched in the L1 holds no memory. -/
@[simp] theorem Device.space_l1Touch (d : Device) (core line : Nat) (t : Space) : (d.l1Touch core line).space t = d.space t := by
  cases t <;> rfl

/-- Bytes put into the sectors of an L1 hold no memory. -/
@[simp] theorem Device.space_l1Update (d : Device) (core pa : Nat) (l : List Byte) (t : Space) :
    (d.l1Update core pa l).space t = d.space t := by
  cases t <;> rfl

/-- Words remembered for fetches hold no memory. -/
@[simp] theorem Device.space_keepOld (d b : Device) (u : Space) (pa n : Nat) (t : Space) : (d.keepOld b u pa n).space t = d.space t := by
  cases t <;> rfl

/-- A TLB holds no memory. -/
@[simp] theorem Device.space_tlbPut (d : Device) (e : TlbEntry) (t : Space) : (d.tlbPut e).space t = d.space t := by
  cases t <;> rfl

/-- A walker's entries hold no memory. -/
@[simp] theorem Device.space_tablesPut (d : Device) (unit ctx : Nat) (va : W64) (p : List (Nat × W64)) (t : Space) :
    (d.tablesPut unit ctx va p).space t = d.space t := by
  unfold Device.tablesPut
  split
  · rfl
  · cases t <;> rfl

/-- Bytes of a space after a store that tells no one: those stored, where they are stored. -/
theorem Device.space_land (d : Device) (t u : Space) (pa : Nat) (l : List Byte) :
    (d.land t pa l).space u = if u = t then writeBytes (d.space t) pa l else d.space u := by
  unfold Device.land
  cases t <;> cases u <;> rfl

/-- Bytes of a space after a store: those stored, where they are stored. -/
theorem Device.space_store (d : Device) (t u : Space) (pa : Nat) (l : List Byte) :
    (d.store t pa l).space u = if u = t then writeBytes (d.space t) pa l else d.space u := by
  rw [Device.store, Device.space_tell, Device.space_land]

namespace Device.MemOk

theorem store {d : Device} (h : d.MemOk) (t : Space) (pa : Nat) (l : List Byte) : (d.store t pa l).MemOk := by
  intro u
  rw [Device.space_store]
  split
  · exact wf_writeBytes _ _ _ (h t)
  · exact h u

theorem land {d : Device} (h : d.MemOk) (t : Space) (pa : Nat) (l : List Byte) : (d.land t pa l).MemOk := by
  intro u
  rw [Device.space_land]
  split
  · exact wf_writeBytes _ _ _ (h t)
  · exact h u

theorem storeLong {d : Device} (h : d.MemOk) (t : Space) (pa : Nat) (l : List Byte) (fuel : Nat) : (d.storeLong t pa l fuel).MemOk := by
  induction fuel generalizing d pa l with
  | zero => exact h
  | succ n ih =>
    unfold Device.storeLong
    simp only
    split
    · exact h.store t pa l
    · exact ih (h.store t pa _) _ _

/-- A fold of operations that keep the form keeps it. -/
theorem foldl {α : Type} {f : Device → α → Device} (hf : ∀ d a, d.MemOk → (f d a).MemOk) {d : Device} (l : List α) (h : d.MemOk) :
    (l.foldl f d).MemOk := by
  induction l generalizing d with
  | nil => exact h
  | cons a l ih => exact ih (hf d a h)

/-- What changes no memory keeps the form. -/
theorem of_same {d c : Device} (h : d.MemOk) (hs : ∀ t, c.space t = d.space t) : c.MemOk := fun t => (hs t).symm ▸ h t

/-- Either way. -/
theorem ite {a b : Device} {p : Prop} [Decidable p] (ha : a.MemOk) (hb : b.MemOk) : (if p then a else b).MemOk := by
  split
  · exact ha
  · exact hb

/-- Poison marks are no memory. -/
theorem poisonMarks {d : Device} (h : d.MemOk) (m : SMap 16) : ({ d with poison := m } : Device).MemOk :=
  of_same h (fun t => by cases t <;> rfl)

theorem storeSector {d : Device} (h : d.MemOk) (t : Space) (base : Nat) (mask : BitVec 16) (byte : Nat → Byte) (new : Bool) :
    (d.storeSector t base mask byte new).MemOk :=
  have h1 := MemOk.ite (p := new = true) (h.store t base _) (h.land t base _)
  MemOk.ite (poisonMarks h1 _) h1

theorem l1WriteBack {d : Device} (h : d.MemOk) (x : L1Sector) : (d.l1WriteBack x).MemOk :=
  MemOk.ite h (MemOk.ite (poisonMarks (h.storeSector _ _ _ _ _) _) (h.storeSector _ _ _ _ _))

theorem l1Clean {d : Device} (h : d.MemOk) (pick drop : L1Sector → Bool) : (d.l1Clean pick drop).MemOk := by
  unfold Device.l1Clean
  split
  · exact h
  · refine of_same (foldl (f := fun d x => if pick x then d.l1WriteBack x else d) ?_ _ h) (fun t => by cases t <;> rfl)
    intro d a hd
    split
    · exact hd.l1WriteBack a
    · exact hd

theorem l1Fill {d : Device} (h : d.MemOk) (core pa : Nat) (priv : Bool) : (d.l1Fill core pa priv).MemOk := by
  unfold Device.l1Fill
  split
  · exact MemOk.ite (of_same h (fun t => by cases t <;> rfl)) h
  · exact of_same h (fun t => by cases t <;> rfl)

theorem l1Put {d : Device} (h : d.MemOk) (core pa : Nat) (b : Byte) (priv : Bool) : (d.l1Put core pa b priv).MemOk :=
  of_same (h.l1Fill core pa priv) (fun t => by simp [Device.l1Put])

theorem touch {d : Device} (h : d.MemOk) (ag : Agent) (ctx : Nat) (va : W64) (k : Access) (x : Xlate) :
    (d.touch ag ctx va k x).MemOk := by
  unfold Device.touch
  simp only
  have h0 (p : Bool) (l : List Touched) : ({ d with privUsed := p, touches := l } : Device).MemOk :=
    of_same h (fun t => by cases t <;> rfl)
  exact foldl (fun d u hd => MemOk.ite hd (of_same hd (fun t => Device.space_tlbPut _ _ t))) _
    (MemOk.ite (of_same (MemOk.ite ((h0 _ _).store _ _ _) (h0 _ _)) (fun t => Device.space_tablesPut _ _ _ _ _ t))
      (MemOk.ite ((h0 _ _).store _ _ _) (h0 _ _)))

theorem touchAll {d : Device} (h : d.MemOk) (ag : Agent) (ctx : Nat) (k : Access) (l : Run) : (d.touchAll ag ctx k l).MemOk :=
  foldl (fun _ _ hd => hd.touch _ _ _ _ _) l h

theorem writeThrough {d : Device} (h : d.MemOk) (core : Nat) (t : Space) (pa : Nat) (l : List Byte) :
    (d.writeThrough core t pa l).MemOk :=
  have h1 := h.storeLong t pa l (l.length / 128 + 2)
  MemOk.ite (of_same h1 (fun u => by simp)) h1

theorem writeBehind {d : Device} (h : d.MemOk) (core : Nat) (x : Xlate) (l : List Byte) : (d.writeBehind core x l).MemOk :=
  have h1 := foldl (f := fun d (p : Byte × Nat) => d.l1Put core (x.pa + p.2) p.1 (x.cls = 2)) (fun _ _ hd => MemOk.l1Put hd _ _ _ _)
    (l.zip (List.range l.length)) h
  MemOk.ite (of_same h1 (fun u => by simp)) h1

theorem writeAt {d : Device} (h : d.MemOk) (ag : Agent) (x : Xlate) (l : List Byte) : (d.writeAt ag x l).MemOk := by
  unfold Device.writeAt
  have h1 := h.storeLong x.space x.pa l (l.length / 128 + 2)
  simp only
  split
  · refine MemOk.ite h1 (foldl (fun _ _ hd => of_same hd (fun t => by simp)) _ ?_)
    exact MemOk.ite (h.writeBehind _ x l) (h.writeThrough _ _ _ _)
  · split
    · exact MemOk.ite (h.writeThrough _ _ _ _) h1
    · exact h1

theorem writeRun {d : Device} (h : d.MemOk) (ag : Agent) (l : Run) (bytes : List Byte) : (d.writeRun ag l bytes).MemOk := by
  induction l generalizing d bytes with
  | nil => exact h
  | cons t l ih => exact ih (h.writeAt ag t.1 _) _

/-- A checked write that succeeds. -/
theorem write {d c : Device} (h : d.MemOk) {p : Platform} {tick ctx : Nat} {ag : Agent} {linkOk : Bool} {va : W64} {l : List Byte}
    (hw : d.write p tick ctx ag linkOk va l = .ok c) : c.MemOk := by
  unfold Device.write at hw
  split at hw
  · cases hw
  · cases hw
    exact (h.touchAll ag ctx .store _).writeRun ag _ l

theorem storeRun {d : Device} (h : d.MemOk) (l : Run) (bytes : List Byte) : (d.storeRun l bytes).MemOk := by
  induction l generalizing d bytes with
  | nil => exact h
  | cons t l ih => exact ih (h.storeLong _ _ _ _) _

theorem beforeAtomic {d : Device} (h : d.MemOk) (ag : Agent) (x : Xlate) : (d.beforeAtomic ag x).MemOk := by
  unfold Device.beforeAtomic
  split
  · simp only
    split
    · exact of_same (h.l1Clean _ _) (fun t => by cases t <;> rfl)
    · exact h
  · exact h

theorem order {d : Device} (h : d.MemOk) (core : Nat) (o : MemOrd) (sc : Scope) : (d.order core o sc).MemOk := by
  unfold Device.order
  split
  · exact h.l1Clean _ _
  · exact h

/-- One lane's atomic. -/
theorem atomicLane {d : Device} (h : d.MemOk) (ag : Agent) (ctx op n v c : Nat) (l : Run) : (d.atomicLane ag ctx op n v c l).1.MemOk :=
  (foldl (fun _ _ hd => hd.beforeAtomic _ _) l (h.touchAll ag ctx .atomic l)).storeRun _ _

theorem atomicLanes {d : Device} (h : d.MemOk) (ag : Agent) (ctx op n : Nat) (l : List (Nat × Run × Nat × Nat)) :
    (d.atomicLanes ag ctx op n l).1.MemOk := by
  induction l generalizing d with
  | nil => exact h
  | cons p l ih => exact ih (h.atomicLane ag ctx op n p.2.2.1 p.2.2.2 p.2.1)

/-- A candidate offered to an incumbent cell. -/
theorem offer {d : Device} (h : d.MemOk) (t : Space) (pa cell : Nat) : (d.offer t pa cell).MemOk := by
  unfold Device.offer
  simp only
  split
  · exact h.store _ _ _
  · exact h

/-- A granule discarded. -/
theorem discard {d : Device} (h : d.MemOk) (pa : Nat) : (d.discard pa).MemOk := by
  unfold Device.discard
  refine foldl (f := fun d k => if d.unwatched (lineKey .dev (pa + 128 * k)) then d else d.noteWrite (lineKey .dev (pa + 128 * k)))
    ?_ (List.range 32) ?_
  · intro c a hc
    split
    · exact hc
    · exact of_same hc (fun t => by simp)
  · intro t
    cases t
    · exact SMap.wfFrom_filter _ _ _ (h .dev)
    · exact h .host
    · exact h .peer

theorem rangeEntries {d : Device} (h : d.MemOk) (f : W64 → W64) (l : List RangeLeaf) : (d.rangeEntries f l).MemOk :=
  foldl (fun _ _ hd => hd.store _ _ _) l h

end Device.MemOk

/-- Scratchpad and its owners keep their form. -/
theorem wf_spadWrite (d : Device) (ctx at_ : Nat) (l : List Byte) (h : SMap.wf d.spad = true ∧ SMap.wf d.spadOwner = true) :
    SMap.wf (d.spadWrite ctx at_ l).spad = true ∧ SMap.wf (d.spadWrite ctx at_ l).spadOwner = true := by
  let f (d : Device) (line : Nat) : Device := if d.unwatched line then d else d.noteWrite line
  have hf (n : List Nat) (c : Device) : SMap.wf c.spad = true ∧ SMap.wf c.spadOwner = true →
      SMap.wf (n.foldl f c).spad = true ∧ SMap.wf (n.foldl f c).spadOwner = true := by
    induction n generalizing c with
    | nil => exact id
    | cons a n ih =>
      intro hc
      rw [List.foldl_cons]
      refine ih _ ?_
      by_cases hu : c.unwatched a = true
      · simp only [f, if_pos hu]; exact hc
      · simp only [f, if_neg hu]; exact hc
  exact hf (spadLines at_ l.length) _ ⟨wf_writeBytes _ _ _ h.1, wf_writeBytes _ _ _ h.2⟩

/-- Reset's memories hold their form. -/
theorem memOk_reset : State.reset.dev.MemOk := fun t => by cases t <;> rfl

end Sys2Proof.Machine
end

