-- ==== Sys2Proof/Laws/Ops.lean ====
section
/-! SUPPORT. What the shared operations of Machine/Ops.lean can do, each said once: how an instruction that leaves a view,
waits, or traps ends, and what an event that is due leaves. -/

namespace Sys2Proof.Machine

/-! ### Splits -/

theorem insertSplit_ne_nil (a : Split) (l : List Split) : insertSplit a l ≠ [] := by
  cases l with
  | nil => simp [insertSplit]
  | cons b l => unfold insertSplit; split <;> simp

theorem addSplit_ne_nil (l : List Split) (a : Split) : addSplit l a ≠ [] := by
  cases l with
  | nil => simp [addSplit]
  | cons b l => unfold addSplit; split <;> simp

theorem foldl_addSplit_ne_nil (m l : List Split) (h : l ≠ []) : m.foldl addSplit l ≠ [] := by
  induction m generalizing l with
  | nil => exact h
  | cons a m ih => exact ih _ (addSplit_ne_nil l a)

theorem mergeSplits_ne_nil (l : List Split) (h : l ≠ []) : mergeSplits l ≠ [] := by
  unfold mergeSplits
  have hi : l.foldr insertSplit [] ≠ [] := by
    cases l with
    | nil => exact absurd rfl h
    | cons a l => exact insertSplit_ne_nil a _
  cases hc : l.foldr insertSplit [] with
  | nil => exact absurd hc hi
  | cons b m => exact foldl_addSplit_ne_nil m _ (addSplit_ne_nil [] b)

/-- Settling splits never empties a list. -/
theorem settleSplits_ne_nil (l : List Split) (h : l ≠ []) : settleSplits l ≠ [] := by
  unfold settleSplits releaseSyncs
  split
  · simpa using mergeSplits_ne_nil l h
  · exact mergeSplits_ne_nil l h

/-- A group in which a split goes on has a split. -/
theorem Group.put_splits_ne_nil (g : Group) (low : Nat) (a : Split) (l : List Split) : (g.put low (a :: l)).splits ≠ [] := by
  simpa [Group.put] using settleSplits_ne_nil _ (by simp)

/-- An instruction whose splits go on ends with its group put back. -/
theorem Device.finish_cons (d : Device) (e : Env) (key : Nat) (g : Group) (low : Nat) (handling : Bool) (a : Split)
    (l : List Split) : d.finish e key g low handling (a :: l) = .ok (d.putGroup key (g.put low (a :: l))) := by
  simp [Device.finish, Group.put_splits_ne_nil]

@[simp] theorem Device.putGroup_get (d : Device) (key : Nat) (g : Group) : (d.putGroup key g).groups.get key = some g := by
  simp [Device.putGroup]

theorem Device.putGroup_get_ne (d : Device) {key k : Nat} (g : Group) (h : k ≠ key) :
    (d.putGroup key g).groups.get k = d.groups.get k := AMap.get_set_ne _ _ h

/-! ### Instructions that leave a view (classes 0 to 5) -/

/-- An instruction in range that leaves splits goes on with its group put back. -/
theorem State.onView_ok {s : State} {x : View} {spans : List (Nat × Nat)} {f : View → Out} {g : Group} {a : Split}
    {l : List Split} (hx : s.issuer = some x) (hr : x.g.inRange spans = true) (hf : f x = .ok g (a :: l)) :
    s.onView spans f = .next (s.withDev (s.dev.putGroup s.cur.key (g.put x.sp.low (a :: l)))) := by
  simp [State.onView, hx, hr, hf, State.close, Device.finish_cons]

/-- An instruction in range that leaves a view goes on with it. -/
theorem State.onView_view {s : State} {x y : View} {spans : List (Nat × Nat)} {f : View → Out}
    (hx : s.issuer = some x) (hr : x.g.inRange spans = true) (hf : f x = Out.view y) :
    s.onView spans f = .next (s.after x y) := State.onView_ok hx hr hf

/-- An instruction that traps raises its trap on the issuing split. -/
theorem State.onView_trap {s : State} {x : View} {spans : List (Nat × Nat)} {f : View → Out} {t : TrapReq}
    (hx : s.issuer = some x) (hr : x.g.inRange spans = true) (hf : f x = .trap t) :
    s.onView spans f = s.close x (s.dev.raise s.env s.cur.key x.g x.sp t) := by
  simp [State.onView, hx, hr, hf]

/-- An instruction that names a register past the group's allocation raises REGRANGE (R14). -/
theorem State.onView_range {s : State} {x : View} {spans : List (Nat × Nat)} {f : View → Out}
    (hx : s.issuer = some x) (hr : x.g.inRange spans = false) :
    s.onView spans f = s.close x (s.dev.raise s.env s.cur.key x.g x.sp (regRange x)) := by
  simp [State.onView, hx, hr]

/-! ### Instructions that act on the device (classes 6 and 7) -/

/-- The later of two groups put in a slot stands. -/
@[simp] theorem Device.putGroup_putGroup (d : Device) (key : Nat) (g h : Group) :
    (d.putGroup key g).putGroup key h = d.putGroup key h := by simp [Device.putGroup]

/-- A device and a view, taken in by a slot of the group. -/
theorem Device.apply_view (d0 d : Device) (e : Env) (key : Nat) (x y : View) :
    d0.apply e key x (Res.view d key y) =
      .ok (d.putGroup key (({ y.g with splits := d.splitsAt key y } : Group).put x.sp.low [y.sp])) := by
  simp [Device.apply, Res.view, Device.commit, Device.finish_cons]

/-- An instruction that leaves a device and a view goes on with them. -/
theorem State.onDevice_view {s : State} {x y : View} {spans : List (Nat × Nat)} {d : Device}
    {f : Env → SplitRef → Device → View → Res} (hx : s.issuer = some x) (hr : x.g.inRange spans = true)
    (hf : f s.env s.cur s.dev x = Res.view d s.cur.key y) :
    s.onDevice spans f = .next (s.afterOn d x y) := by
  have ha := Device.apply_view s.dev d s.env s.cur.key x y
  simp only [Res.view] at hf ha
  simp only [State.onDevice, hx, hr, if_true, hf, ha, State.close, State.afterOn]

/-- An instruction that leaves the splits of the group as the device holds them and its own as `sp` goes on. -/
theorem State.onDevice_done {s : State} {x : View} {spans : List (Nat × Nat)} {d : Device} {sp : Split} {g : Group}
    {f : Env → SplitRef → Device → View → Res} (hx : s.issuer = some x) (hr : x.g.inRange spans = true)
    (hf : f s.env s.cur s.dev x = .done d sp) (hg : d.groups.get s.cur.key = some g) :
    s.onDevice spans f = .next (s.withDev (d.putGroup s.cur.key (g.put x.sp.low [sp]))) := by
  simp only [State.onDevice, hx, hr, if_true, hf]
  simp [Device.apply, hg, Device.finish_cons, State.close]

/-- An instruction that leaves the whole device goes on. -/
theorem State.onDevice_whole {s : State} {x : View} {spans : List (Nat × Nat)} {d : Device}
    {f : Env → SplitRef → Device → View → Res} (hx : s.issuer = some x) (hr : x.g.inRange spans = true)
    (hf : f s.env s.cur s.dev x = .whole d) : s.onDevice spans f = .next (s.withDev d) := by
  simp only [State.onDevice, hx, hr, if_true, hf]
  simp [Device.apply, State.close]

/-- A memory instruction with an active lane that leaves a device and a view goes on with them. -/
theorem State.access_view {s : State} {x y : View} {i : Instr} {n : Nat} {ms : Pred} {d : Device}
    {f : Env → SplitRef → Device → View → Mask → Res} (hx : s.issuer = some x) (hr : x.g.inRange i.spans = true)
    (ha : x.active ms ≠ 0) (hf : f s.env s.cur s.dev x (x.active ms) = Res.view d s.cur.key y) :
    s.access i n ms f = .next (s.afterOn d x y) := State.onDevice_view hx hr ((if_neg ha).trans hf)

/-- A memory instruction with an active lane that leaves the group's other splits as the device holds them goes on. -/
theorem State.access_done {s : State} {x : View} {i : Instr} {n : Nat} {ms : Pred} {d : Device} {sp : Split} {g : Group}
    {f : Env → SplitRef → Device → View → Mask → Res} (hx : s.issuer = some x) (hr : x.g.inRange i.spans = true)
    (ha : x.active ms ≠ 0) (hf : f s.env s.cur s.dev x (x.active ms) = .done d sp)
    (hg : d.groups.get s.cur.key = some g) :
    s.access i n ms f = .next (s.withDev (d.putGroup s.cur.key (g.put x.sp.low [sp]))) :=
  State.onDevice_done hx hr ((if_neg ha).trans hf) hg

/-- With no lane active a memory instruction only moves past itself (R168). -/
theorem State.access_none {s : State} {x : View} {i : Instr} {n : Nat} {ms : Pred}
    {f : Env → SplitRef → Device → View → Mask → Res} (hx : s.issuer = some x) (hr : x.g.inRange i.spans = true)
    (ha : x.active ms = 0) : s.access i n ms f = .next (s.afterOn s.dev x (x.next n)) :=
  State.onDevice_view hx hr (by simp [ha])

/-! ### Events -/

/-- A due event of the device leaves its device. -/
theorem State.onDev_ok {s : State} {ctx core swarm : Nat} {f : Env → Device → Option (Except Miss Device)} {d : Device}
    (hf : f s.env s.dev = some (.ok d)) : s.onDev ctx core f swarm = .next (s.withDev d) := by simp [State.onDev, hf]

/-- An event that is not due leaves the state. -/
theorem State.onDev_none {s : State} {ctx core swarm : Nat} {f : Env → Device → Option (Except Miss Device)}
    (hf : f s.env s.dev = none) : s.onDev ctx core f swarm = .next s := by simp [State.onDev, hf]

/-- Every event of the device goes on. -/
theorem State.onDev_next (s : State) (ctx core swarm : Nat) (f : Env → Device → Option (Except Miss Device)) :
    ∃ d, s.onDev ctx core f swarm = .next (s.withDev d) := by
  unfold State.onDev
  split
  · exact ⟨s.dev, rfl⟩
  · exact ⟨_, rfl⟩
  · exact ⟨_, rfl⟩
  · exact ⟨s.dev, rfl⟩

/-- An event of a group that is due leaves its group. -/
theorem State.onGroup_some {s : State} {core slot : Nat} {f : Env → Device → Group → Option Group} {g h : Group}
    (hg : s.dev.groups.get (slotKey core slot) = some g) (hf : f s.env s.dev g = some h) :
    s.onGroup core slot f = .next (s.withDev (s.dev.putGroup (slotKey core slot) h)) := by simp [State.onGroup, hg, hf]

/-- The group of a view is the one its slot holds. -/
theorem State.viewAt_group {s : State} {core slot lane : Nat} {x : View} (hx : s.viewAt core slot lane = some x) :
    s.dev.groups.get (slotKey core slot) = some x.g := by
  unfold State.viewAt State.issuer at hx
  simp only [SplitRef.key] at hx
  split at hx
  · exact absurd hx (by simp)
  · rename_i g hg
    split at hx
    · exact absurd hx (by simp)
    · rename_i sp _
      cases hx
      exact hg

/-- A due event of a split leaves its device and view. -/
theorem State.onParked_view {s : State} {core slot lane : Nat} {x y : View} {d : Device}
    {f : Env → SplitRef → Device → View → Option Res} (hx : s.viewAt core slot lane = some x)
    (hf : f s.env { core, slot, lane } s.dev x = some (Res.view d (slotKey core slot) y)) :
    s.onParked core slot lane f = .next (s.afterParked core slot d x y) := by
  have ha := Device.apply_view s.dev d s.env (slotKey core slot) x y
  simp only [Res.view] at hf ha
  simp only [State.onParked, hx, hf, ha, State.closeParked, State.afterParked]

/-- A due event of one split leaves the split it gives. -/
theorem State.onSplit_some {s : State} {core slot lane : Nat} {x : View} {sp : Split} {f : Env → View → Option Split}
    (hx : s.viewAt core slot lane = some x) (hf : f s.env x = some sp) :
    s.onSplit core slot lane f = .next (s.afterSplit core slot x sp) := by
  simp only [State.onSplit, State.onParked, hx, hf, Option.map_some]
  simp [State.closeParked, Device.apply, State.viewAt_group hx, Device.finish_cons, State.afterSplit]

/-! ### Nothing but the group -/

/-- An instruction that leaves a view changes nothing but its group. -/
theorem State.after_only (s : State) (x y : View) : Safety.OnlyGroup s.cur.key s (s.after x y) :=
  ⟨rfl, rfl, rfl, rfl, rfl, fun _ h => Device.putGroup_get_ne _ _ h⟩

/-- It leaves every byte as it was. -/
theorem State.after_bytes (s : State) (x y : View) : Safety.SameBytes s (s.after x y) :=
  ⟨fun sp _ => by cases sp <;> rfl, fun _ => rfl⟩

end Sys2Proof.Machine
end

