-- ==== Sys2Proof/Laws/PerInstr.lean ====
section
/-! SUPPORT. Family F, one lemma for each constructor of Instr: the first word of an instruction gives its length (R59, R61). -/

namespace Sys2Proof.Laws.F

/-- The first word of the instruction's words says how many words there are; an event of the device has none. -/
def Statement (i : Instr) : Prop := ∀ w0 rest, encode i = w0 :: rest → insnWords w0 = some (rest.length + 1)

theorem opcode_of {m n k : Nat} (x : BitVec m) (a : BitVec n) (b : BitVec k) : (x ++ (a ++ b)).extractLsb' k n = a := by
  ext i hi
  simp [BitVec.getLsbD_append, BitVec.getElem_append, show k + i < n + k by omega]

theorem length_of {m n k : Nat} (x : BitVec m) (a : BitVec n) (b : BitVec k) : (x ++ (a ++ b)).extractLsb' 0 k = b := by
  ext i hi
  simp [BitVec.getLsbD_append, BitVec.getElem_append, show i < n + k by omega, hi]

/-- A word that ends with an opcode and the length of its format. -/
theorem insnWords_head (x : BitVec 22) {opc len : Nat} {fmt : Fmt} (hf : opFormat opc = some fmt) (ho : opc < 256) (hl : len < 4)
    (h : fmt.len = len) : insnWords (x ++ head opc len) = some (len + 1) := by
  have h1 : (show W32 from x ++ head opc len).extractLsb' 2 8 = BitVec.ofNat 8 opc := opcode_of x _ _
  have h2 : (show W32 from x ++ head opc len).extractLsb' 0 2 = BitVec.ofNat 2 len := length_of x _ _
  change insnWords (show W32 from x ++ head opc len) = some (len + 1)
  unfold insnWords
  rw [h1, h2, BitVec.toNat_ofNat, BitVec.toNat_ofNat, Nat.mod_eq_of_lt ho, hf]
  simp only
  rw [if_pos (by omega), h]

theorem nop : Statement (.nop) :=
  fun w0 rest h => by cases h; rfl

theorem smov (d a : SReg) : Statement (.smov d a) :=
  fun w0 rest h => by cases h; exact insnWords_head _ rfl (by decide) (by decide) rfl

theorem smovPair (d a : SReg) : Statement (.smovPair d a) :=
  fun w0 rest h => by cases h; exact insnWords_head _ rfl (by decide) (by decide) rfl

theorem smovImm (d : SReg) (imm : BitVec 9) : Statement (.smovImm d imm) :=
  fun w0 rest h => by cases h; exact insnWords_head _ rfl (by decide) (by decide) rfl

theorem sli (f : FmtSI) : Statement (.sli f) :=
  fun w0 rest h => by cases h; exact insnWords_head _ rfl (by decide) (by decide) rfl

theorem sadd (d a b : SReg) : Statement (.sadd d a b) :=
  fun w0 rest h => by cases h; exact insnWords_head _ rfl (by decide) (by decide) rfl

theorem saddImm (d a : SReg) (imm : BitVec 9) : Statement (.saddImm d a imm) :=
  fun w0 rest h => by cases h; exact insnWords_head _ rfl (by decide) (by decide) rfl

theorem ssub (d a b : SReg) : Statement (.ssub d a b) :=
  fun w0 rest h => by cases h; exact insnWords_head _ rfl (by decide) (by decide) rfl

theorem ssubImm (d a : SReg) (imm : BitVec 9) : Statement (.ssubImm d a imm) :=
  fun w0 rest h => by cases h; exact insnWords_head _ rfl (by decide) (by decide) rfl

theorem smul (d a b : SReg) : Statement (.smul d a b) :=
  fun w0 rest h => by cases h; exact insnWords_head _ rfl (by decide) (by decide) rfl

theorem smulImm (d a : SReg) (imm : BitVec 9) : Statement (.smulImm d a imm) :=
  fun w0 rest h => by cases h; exact insnWords_head _ rfl (by decide) (by decide) rfl

theorem smulhs (d a b : SReg) : Statement (.smulhs d a b) :=
  fun w0 rest h => by cases h; exact insnWords_head _ rfl (by decide) (by decide) rfl

theorem smulhsImm (d a : SReg) (imm : BitVec 9) : Statement (.smulhsImm d a imm) :=
  fun w0 rest h => by cases h; exact insnWords_head _ rfl (by decide) (by decide) rfl

theorem smulhn (d a b : SReg) : Statement (.smulhn d a b) :=
  fun w0 rest h => by cases h; exact insnWords_head _ rfl (by decide) (by decide) rfl

theorem smulhnImm (d a : SReg) (imm : BitVec 9) : Statement (.smulhnImm d a imm) :=
  fun w0 rest h => by cases h; exact insnWords_head _ rfl (by decide) (by decide) rfl

theorem sand (d a b : SReg) : Statement (.sand d a b) :=
  fun w0 rest h => by cases h; exact insnWords_head _ rfl (by decide) (by decide) rfl

theorem sandImm (d a : SReg) (imm : BitVec 9) : Statement (.sandImm d a imm) :=
  fun w0 rest h => by cases h; exact insnWords_head _ rfl (by decide) (by decide) rfl

theorem sor (d a b : SReg) : Statement (.sor d a b) :=
  fun w0 rest h => by cases h; exact insnWords_head _ rfl (by decide) (by decide) rfl

theorem sorImm (d a : SReg) (imm : BitVec 9) : Statement (.sorImm d a imm) :=
  fun w0 rest h => by cases h; exact insnWords_head _ rfl (by decide) (by decide) rfl

theorem sxor (d a b : SReg) : Statement (.sxor d a b) :=
  fun w0 rest h => by cases h; exact insnWords_head _ rfl (by decide) (by decide) rfl

theorem sxorImm (d a : SReg) (imm : BitVec 9) : Statement (.sxorImm d a imm) :=
  fun w0 rest h => by cases h; exact insnWords_head _ rfl (by decide) (by decide) rfl

theorem sandn (d a b : SReg) : Statement (.sandn d a b) :=
  fun w0 rest h => by cases h; exact insnWords_head _ rfl (by decide) (by decide) rfl

theorem sandnImm (d a : SReg) (imm : BitVec 9) : Statement (.sandnImm d a imm) :=
  fun w0 rest h => by cases h; exact insnWords_head _ rfl (by decide) (by decide) rfl

theorem sshl (d a b : SReg) : Statement (.sshl d a b) :=
  fun w0 rest h => by cases h; exact insnWords_head _ rfl (by decide) (by decide) rfl

theorem sshlImm (d a : SReg) (imm : BitVec 5) : Statement (.sshlImm d a imm) :=
  fun w0 rest h => by cases h; exact insnWords_head _ rfl (by decide) (by decide) rfl

theorem sshr (d a b : SReg) : Statement (.sshr d a b) :=
  fun w0 rest h => by cases h; exact insnWords_head _ rfl (by decide) (by decide) rfl

theorem sshrImm (d a : SReg) (imm : BitVec 5) : Statement (.sshrImm d a imm) :=
  fun w0 rest h => by cases h; exact insnWords_head _ rfl (by decide) (by decide) rfl

theorem ssar (d a b : SReg) : Statement (.ssar d a b) :=
  fun w0 rest h => by cases h; exact insnWords_head _ rfl (by decide) (by decide) rfl

theorem ssarImm (d a : SReg) (imm : BitVec 5) : Statement (.ssarImm d a imm) :=
  fun w0 rest h => by cases h; exact insnWords_head _ rfl (by decide) (by decide) rfl

theorem smin (d a b : SReg) : Statement (.smin d a b) :=
  fun w0 rest h => by cases h; exact insnWords_head _ rfl (by decide) (by decide) rfl

theorem sminImm (d a : SReg) (imm : BitVec 9) : Statement (.sminImm d a imm) :=
  fun w0 rest h => by cases h; exact insnWords_head _ rfl (by decide) (by decide) rfl

theorem smax (d a b : SReg) : Statement (.smax d a b) :=
  fun w0 rest h => by cases h; exact insnWords_head _ rfl (by decide) (by decide) rfl

theorem smaxImm (d a : SReg) (imm : BitVec 9) : Statement (.smaxImm d a imm) :=
  fun w0 rest h => by cases h; exact insnWords_head _ rfl (by decide) (by decide) rfl

theorem sminn (d a b : SReg) : Statement (.sminn d a b) :=
  fun w0 rest h => by cases h; exact insnWords_head _ rfl (by decide) (by decide) rfl

theorem sminnImm (d a : SReg) (imm : BitVec 9) : Statement (.sminnImm d a imm) :=
  fun w0 rest h => by cases h; exact insnWords_head _ rfl (by decide) (by decide) rfl

theorem smaxn (d a b : SReg) : Statement (.smaxn d a b) :=
  fun w0 rest h => by cases h; exact insnWords_head _ rfl (by decide) (by decide) rfl

theorem smaxnImm (d a : SReg) (imm : BitVec 9) : Statement (.smaxnImm d a imm) :=
  fun w0 rest h => by cases h; exact insnWords_head _ rfl (by decide) (by decide) rfl

theorem sdivn (d a b : SReg) : Statement (.sdivn d a b) :=
  fun w0 rest h => by cases h; exact insnWords_head _ rfl (by decide) (by decide) rfl

theorem sdivnImm (d a : SReg) (imm : BitVec 9) : Statement (.sdivnImm d a imm) :=
  fun w0 rest h => by cases h; exact insnWords_head _ rfl (by decide) (by decide) rfl

theorem sremn (d a b : SReg) : Statement (.sremn d a b) :=
  fun w0 rest h => by cases h; exact insnWords_head _ rfl (by decide) (by decide) rfl

theorem sremnImm (d a : SReg) (imm : BitVec 9) : Statement (.sremnImm d a imm) :=
  fun w0 rest h => by cases h; exact insnWords_head _ rfl (by decide) (by decide) rfl

theorem scmp (f : FmtSI) : Statement (.scmp f) :=
  fun w0 rest h => by cases h; exact insnWords_head _ rfl (by decide) (by decide) rfl

theorem sadd64 (d a b : SReg) : Statement (.sadd64 d a b) :=
  fun w0 rest h => by cases h; exact insnWords_head _ rfl (by decide) (by decide) rfl

theorem sadd64Imm (d a : SReg) (imm : BitVec 9) : Statement (.sadd64Imm d a imm) :=
  fun w0 rest h => by cases h; exact insnWords_head _ rfl (by decide) (by decide) rfl

theorem ssub64 (d a b : SReg) : Statement (.ssub64 d a b) :=
  fun w0 rest h => by cases h; exact insnWords_head _ rfl (by decide) (by decide) rfl

theorem ssub64Imm (d a : SReg) (imm : BitVec 9) : Statement (.ssub64Imm d a imm) :=
  fun w0 rest h => by cases h; exact insnWords_head _ rfl (by decide) (by decide) rfl

theorem slea (fn : BitVec 3) (d a b : SReg) : Statement (.slea fn d a b) :=
  fun w0 rest h => by cases h; exact insnWords_head _ rfl (by decide) (by decide) rfl

theorem sleaImm (d a : SReg) (imm : BitVec 9) : Statement (.sleaImm d a imm) :=
  fun w0 rest h => by cases h; exact insnWords_head _ rfl (by decide) (by decide) rfl

theorem spopc (d a : SReg) : Statement (.spopc d a) :=
  fun w0 rest h => by cases h; exact insnWords_head _ rfl (by decide) (by decide) rfl

theorem spopcL (d a : SReg) : Statement (.spopcL d a) :=
  fun w0 rest h => by cases h; exact insnWords_head _ rfl (by decide) (by decide) rfl

theorem sclz (d a : SReg) : Statement (.sclz d a) :=
  fun w0 rest h => by cases h; exact insnWords_head _ rfl (by decide) (by decide) rfl

theorem sclzL (d a : SReg) : Statement (.sclzL d a) :=
  fun w0 rest h => by cases h; exact insnWords_head _ rfl (by decide) (by decide) rfl

theorem sbfx (f : FmtSI) : Statement (.sbfx f) :=
  fun w0 rest h => by cases h; exact insnWords_head _ rfl (by decide) (by decide) rfl

theorem sbfi (f : FmtSI) : Statement (.sbfi f) :=
  fun w0 rest h => by cases h; exact insnWords_head _ rfl (by decide) (by decide) rfl

theorem smask (fn : BitVec 3) (d a b : SReg) : Statement (.smask fn d a b) :=
  fun w0 rest h => by cases h; exact insnWords_head _ rfl (by decide) (by decide) rfl

theorem br (f : FmtB) : Statement (.br f) :=
  fun w0 rest h => by cases h; exact insnWords_head _ rfl (by decide) (by decide) rfl

theorem brs (f : FmtB) : Statement (.brs f) :=
  fun w0 rest h => by cases h; exact insnWords_head _ rfl (by decide) (by decide) rfl

theorem brv (f : FmtB) : Statement (.brv f) :=
  fun w0 rest h => by cases h; exact insnWords_head _ rfl (by decide) (by decide) rfl

theorem bway (f : FmtW) : Statement (.bway f) :=
  fun w0 rest h => by cases h; exact insnWords_head _ rfl (by decide) (by decide) rfl

theorem brany (f : FmtB) : Statement (.brany f) :=
  fun w0 rest h => by cases h; exact insnWords_head _ rfl (by decide) (by decide) rfl

theorem jmp (a : SReg) : Statement (.jmp a) :=
  fun w0 rest h => by cases h; exact insnWords_head _ rfl (by decide) (by decide) rfl

theorem call (f : FmtB) : Statement (.call f) :=
  fun w0 rest h => by cases h; exact insnWords_head _ rfl (by decide) (by decide) rfl

theorem calli (d a : SReg) : Statement (.calli d a) :=
  fun w0 rest h => by cases h; exact insnWords_head _ rfl (by decide) (by decide) rfl

theorem ret (a : SReg) : Statement (.ret a) :=
  fun w0 rest h => by cases h; exact insnWords_head _ rfl (by decide) (by decide) rfl

theorem syncs : Statement (.syncs) :=
  fun w0 rest h => by cases h; exact insnWords_head _ rfl (by decide) (by decide) rfl

theorem exit : Statement (.exit) :=
  fun w0 rest h => by cases h; exact insnWords_head _ rfl (by decide) (by decide) rfl

theorem exitAll : Statement (.exitAll) :=
  fun w0 rest h => by cases h; exact insnWords_head _ rfl (by decide) (by decide) rfl

theorem yield : Statement (.yield) :=
  fun w0 rest h => by cases h; exact insnWords_head _ rfl (by decide) (by decide) rfl

theorem yieldImm (imm : BitVec 9) : Statement (.yieldImm imm) :=
  fun w0 rest h => by cases h; exact insnWords_head _ rfl (by decide) (by decide) rfl

theorem trap (i : BitVec 7) : Statement (.trap i) :=
  fun w0 rest h => by cases h; exact insnWords_head _ rfl (by decide) (by decide) rfl

theorem smovr (f : FmtSI) : Statement (.smovr f) :=
  fun w0 rest h => by cases h; exact insnWords_head _ rfl (by decide) (by decide) rfl

theorem smovw (f : FmtSI) : Statement (.smovw f) :=
  fun w0 rest h => by cases h; exact insnWords_head _ rfl (by decide) (by decide) rfl

theorem watch (d a : SReg) : Statement (.watch d a) :=
  fun w0 rest h => by cases h; exact insnWords_head _ rfl (by decide) (by decide) rfl

theorem tret : Statement (.tret) :=
  fun w0 rest h => by cases h; exact insnWords_head _ rfl (by decide) (by decide) rfl

theorem vmov (f : FmtV) : Statement (.vmov f) :=
  fun w0 rest h => by cases h; exact insnWords_head _ rfl (by decide) (by decide) rfl

theorem vli (f : FmtVI) : Statement (.vli f) :=
  fun w0 rest h => by cases h; exact insnWords_head _ rfl (by decide) (by decide) rfl

theorem vadd (f : FmtV) : Statement (.vadd f) :=
  fun w0 rest h => by cases h; exact insnWords_head _ rfl (by decide) (by decide) rfl

theorem vsub (f : FmtV) : Statement (.vsub f) :=
  fun w0 rest h => by cases h; exact insnWords_head _ rfl (by decide) (by decide) rfl

theorem vmul (f : FmtV) : Statement (.vmul f) :=
  fun w0 rest h => by cases h; exact insnWords_head _ rfl (by decide) (by decide) rfl

theorem vmulh (f : FmtV) : Statement (.vmulh f) :=
  fun w0 rest h => by cases h; exact insnWords_head _ rfl (by decide) (by decide) rfl

theorem vmad (f : FmtV) : Statement (.vmad f) :=
  fun w0 rest h => by cases h; exact insnWords_head _ rfl (by decide) (by decide) rfl

theorem vand (f : FmtV) : Statement (.vand f) :=
  fun w0 rest h => by cases h; exact insnWords_head _ rfl (by decide) (by decide) rfl

theorem vor (f : FmtV) : Statement (.vor f) :=
  fun w0 rest h => by cases h; exact insnWords_head _ rfl (by decide) (by decide) rfl

theorem vxor (f : FmtV) : Statement (.vxor f) :=
  fun w0 rest h => by cases h; exact insnWords_head _ rfl (by decide) (by decide) rfl

theorem vandn (f : FmtV) : Statement (.vandn f) :=
  fun w0 rest h => by cases h; exact insnWords_head _ rfl (by decide) (by decide) rfl

theorem vshl (f : FmtV) : Statement (.vshl f) :=
  fun w0 rest h => by cases h; exact insnWords_head _ rfl (by decide) (by decide) rfl

theorem vshr (f : FmtV) : Statement (.vshr f) :=
  fun w0 rest h => by cases h; exact insnWords_head _ rfl (by decide) (by decide) rfl

theorem vsar (f : FmtV) : Statement (.vsar f) :=
  fun w0 rest h => by cases h; exact insnWords_head _ rfl (by decide) (by decide) rfl

theorem vmin (f : FmtV) : Statement (.vmin f) :=
  fun w0 rest h => by cases h; exact insnWords_head _ rfl (by decide) (by decide) rfl

theorem vmax (f : FmtV) : Statement (.vmax f) :=
  fun w0 rest h => by cases h; exact insnWords_head _ rfl (by decide) (by decide) rfl

theorem vabs (f : FmtV) : Statement (.vabs f) :=
  fun w0 rest h => by cases h; exact insnWords_head _ rfl (by decide) (by decide) rfl

theorem vcmp (f : FmtV) : Statement (.vcmp f) :=
  fun w0 rest h => by cases h; exact insnWords_head _ rfl (by decide) (by decide) rfl

theorem vsel (f : FmtV) : Statement (.vsel f) :=
  fun w0 rest h => by cases h; exact insnWords_head _ rfl (by decide) (by decide) rfl

theorem vpopc (f : FmtV) : Statement (.vpopc f) :=
  fun w0 rest h => by cases h; exact insnWords_head _ rfl (by decide) (by decide) rfl

theorem vclz (f : FmtV) : Statement (.vclz f) :=
  fun w0 rest h => by cases h; exact insnWords_head _ rfl (by decide) (by decide) rfl

theorem vshuf (f : FmtV) : Statement (.vshuf f) :=
  fun w0 rest h => by cases h; exact insnWords_head _ rfl (by decide) (by decide) rfl

theorem vbcst (f : FmtV) : Statement (.vbcst f) :=
  fun w0 rest h => by cases h; exact insnWords_head _ rfl (by decide) (by decide) rfl

theorem vlane (f : FmtV) : Statement (.vlane f) :=
  fun w0 rest h => by cases h; exact insnWords_head _ rfl (by decide) (by decide) rfl

theorem vscan (f : FmtV) : Statement (.vscan f) :=
  fun w0 rest h => by cases h; exact insnWords_head _ rfl (by decide) (by decide) rfl

theorem vrowmap (f : FmtV) : Statement (.vrowmap f) :=
  fun w0 rest h => by cases h; exact insnWords_head _ rfl (by decide) (by decide) rfl

theorem vpack (f : FmtV) : Statement (.vpack f) :=
  fun w0 rest h => by cases h; exact insnWords_head _ rfl (by decide) (by decide) rfl

theorem vunpk (f : FmtV) : Statement (.vunpk f) :=
  fun w0 rest h => by cases h; exact insnWords_head _ rfl (by decide) (by decide) rfl

theorem vbfx (f : FmtVI) : Statement (.vbfx f) :=
  fun w0 rest h => by cases h; exact insnWords_head _ rfl (by decide) (by decide) rfl

theorem vv2s (f : FmtV) : Statement (.vv2s f) :=
  fun w0 rest h => by cases h; exact insnWords_head _ rfl (by decide) (by decide) rfl

theorem vfadd (f : FmtV) : Statement (.vfadd f) :=
  fun w0 rest h => by cases h; exact insnWords_head _ rfl (by decide) (by decide) rfl

theorem vfsub (f : FmtV) : Statement (.vfsub f) :=
  fun w0 rest h => by cases h; exact insnWords_head _ rfl (by decide) (by decide) rfl

theorem vfmul (f : FmtV) : Statement (.vfmul f) :=
  fun w0 rest h => by cases h; exact insnWords_head _ rfl (by decide) (by decide) rfl

theorem vfma (f : FmtV) : Statement (.vfma f) :=
  fun w0 rest h => by cases h; exact insnWords_head _ rfl (by decide) (by decide) rfl

theorem vfms (f : FmtV) : Statement (.vfms f) :=
  fun w0 rest h => by cases h; exact insnWords_head _ rfl (by decide) (by decide) rfl

theorem vfmin (f : FmtV) : Statement (.vfmin f) :=
  fun w0 rest h => by cases h; exact insnWords_head _ rfl (by decide) (by decide) rfl

theorem vfmax (f : FmtV) : Statement (.vfmax f) :=
  fun w0 rest h => by cases h; exact insnWords_head _ rfl (by decide) (by decide) rfl

theorem vfabs (f : FmtV) : Statement (.vfabs f) :=
  fun w0 rest h => by cases h; exact insnWords_head _ rfl (by decide) (by decide) rfl

theorem vfneg (f : FmtV) : Statement (.vfneg f) :=
  fun w0 rest h => by cases h; exact insnWords_head _ rfl (by decide) (by decide) rfl

theorem vfcmp (f : FmtV) : Statement (.vfcmp f) :=
  fun w0 rest h => by cases h; exact insnWords_head _ rfl (by decide) (by decide) rfl

theorem vfdiv (f : FmtV) : Statement (.vfdiv f) :=
  fun w0 rest h => by cases h; exact insnWords_head _ rfl (by decide) (by decide) rfl

theorem vfsqrt (f : FmtV) : Statement (.vfsqrt f) :=
  fun w0 rest h => by cases h; exact insnWords_head _ rfl (by decide) (by decide) rfl

theorem vfclass (f : FmtV) : Statement (.vfclass f) :=
  fun w0 rest h => by cases h; exact insnWords_head _ rfl (by decide) (by decide) rfl

theorem vfadda (f : FmtV) : Statement (.vfadda f) :=
  fun w0 rest h => by cases h; exact insnWords_head _ rfl (by decide) (by decide) rfl

theorem vfdot2 (f : FmtV) : Statement (.vfdot2 f) :=
  fun w0 rest h => by cases h; exact insnWords_head _ rfl (by decide) (by decide) rfl

theorem vfscale (f : FmtV) : Statement (.vfscale f) :=
  fun w0 rest h => by cases h; exact insnWords_head _ rfl (by decide) (by decide) rfl

theorem vfrnd (f : FmtV) : Statement (.vfrnd f) :=
  fun w0 rest h => by cases h; exact insnWords_head _ rfl (by decide) (by decide) rfl

theorem vcvt (f : FmtV) : Statement (.vcvt f) :=
  fun w0 rest h => by cases h; exact insnWords_head _ rfl (by decide) (by decide) rfl

theorem vcvts (f : FmtV) : Statement (.vcvts f) :=
  fun w0 rest h => by cases h; exact insnWords_head _ rfl (by decide) (by decide) rfl

theorem vrcp (f : FmtV) : Statement (.vrcp f) :=
  fun w0 rest h => by cases h; exact insnWords_head _ rfl (by decide) (by decide) rfl

theorem vrsq (f : FmtV) : Statement (.vrsq f) :=
  fun w0 rest h => by cases h; exact insnWords_head _ rfl (by decide) (by decide) rfl

theorem vexp2 (f : FmtV) : Statement (.vexp2 f) :=
  fun w0 rest h => by cases h; exact insnWords_head _ rfl (by decide) (by decide) rfl

theorem vlog2 (f : FmtV) : Statement (.vlog2 f) :=
  fun w0 rest h => by cases h; exact insnWords_head _ rfl (by decide) (by decide) rfl

theorem vsin (f : FmtV) : Statement (.vsin f) :=
  fun w0 rest h => by cases h; exact insnWords_head _ rfl (by decide) (by decide) rfl

theorem vcos (f : FmtV) : Statement (.vcos f) :=
  fun w0 rest h => by cases h; exact insnWords_head _ rfl (by decide) (by decide) rfl

theorem vtanh (f : FmtV) : Statement (.vtanh f) :=
  fun w0 rest h => by cases h; exact insnWords_head _ rfl (by decide) (by decide) rfl

theorem vsigm (f : FmtV) : Statement (.vsigm f) :=
  fun w0 rest h => by cases h; exact insnWords_head _ rfl (by decide) (by decide) rfl

theorem vrand (f : FmtV) : Statement (.vrand f) :=
  fun w0 rest h => by cases h; exact insnWords_head _ rfl (by decide) (by decide) rfl

theorem vseed (f : FmtV) : Statement (.vseed f) :=
  fun w0 rest h => by cases h; exact insnWords_head _ rfl (by decide) (by decide) rfl

theorem qld (f : FmtM) : Statement (.qld f) :=
  fun w0 rest h => by cases h; exact insnWords_head _ rfl (by decide) (by decide) rfl

theorem vmkabs (f : FmtV) : Statement (.vmkabs f) :=
  fun w0 rest h => by cases h; exact insnWords_head _ rfl (by decide) (by decide) rfl

theorem visabs (f : FmtV) : Statement (.visabs f) :=
  fun w0 rest h => by cases h; exact insnWords_head _ rfl (by decide) (by decide) rfl

theorem mma (f : FmtX) : Statement (.mma f) :=
  fun w0 rest h => by cases h; exact insnWords_head _ rfl (by decide) (by decide) rfl

theorem mmas (f : FmtX) : Statement (.mmas f) :=
  fun w0 rest h => by cases h; exact insnWords_head _ rfl (by decide) (by decide) rfl

theorem aclr (f : FmtX) : Statement (.aclr f) :=
  fun w0 rest h => by cases h; exact insnWords_head _ rfl (by decide) (by decide) rfl

theorem adrain (f : FmtX) : Statement (.adrain f) :=
  fun w0 rest h => by cases h; exact insnWords_head _ rfl (by decide) (by decide) rfl

theorem amerge (f : FmtX) : Statement (.amerge f) :=
  fun w0 rest h => by cases h; exact insnWords_head _ rfl (by decide) (by decide) rfl

theorem vdot8 (f : FmtV) : Statement (.vdot8 f) :=
  fun w0 rest h => by cases h; exact insnWords_head _ rfl (by decide) (by decide) rfl

theorem vdot4 (f : FmtV) : Statement (.vdot4 f) :=
  fun w0 rest h => by cases h; exact insnWords_head _ rfl (by decide) (by decide) rfl

theorem vred (f : FmtV) : Statement (.vred f) :=
  fun w0 rest h => by cases h; exact insnWords_head _ rfl (by decide) (by decide) rfl

theorem mtrans (f : FmtV) : Statement (.mtrans f) :=
  fun w0 rest h => by cases h; exact insnWords_head _ rfl (by decide) (by decide) rfl

theorem ldg (f : FmtM) : Statement (.ldg f) :=
  fun w0 rest h => by cases h; exact insnWords_head _ rfl (by decide) (by decide) rfl

theorem stg (f : FmtM) : Statement (.stg f) :=
  fun w0 rest h => by cases h; exact insnWords_head _ rfl (by decide) (by decide) rfl

theorem lds (f : FmtM) : Statement (.lds f) :=
  fun w0 rest h => by cases h; exact insnWords_head _ rfl (by decide) (by decide) rfl

theorem sts (f : FmtM) : Statement (.sts f) :=
  fun w0 rest h => by cases h; exact insnWords_head _ rfl (by decide) (by decide) rfl

theorem ldsm (f : FmtM) : Statement (.ldsm f) :=
  fun w0 rest h => by cases h; exact insnWords_head _ rfl (by decide) (by decide) rfl

theorem stsm (f : FmtM) : Statement (.stsm f) :=
  fun w0 rest h => by cases h; exact insnWords_head _ rfl (by decide) (by decide) rfl

theorem ldfrag (f : FmtM) : Statement (.ldfrag f) :=
  fun w0 rest h => by cases h; exact insnWords_head _ rfl (by decide) (by decide) rfl

theorem ldu (f : FmtM) : Statement (.ldu f) :=
  fun w0 rest h => by cases h; exact insnWords_head _ rfl (by decide) (by decide) rfl

theorem stsc (f : FmtM) : Statement (.stsc f) :=
  fun w0 rest h => by cases h; exact insnWords_head _ rfl (by decide) (by decide) rfl

theorem atomg (f : FmtMI) : Statement (.atomg f) :=
  fun w0 rest h => by cases h; exact insnWords_head _ rfl (by decide) (by decide) rfl

theorem atoms (f : FmtMI) : Statement (.atoms f) :=
  fun w0 rest h => by cases h; exact insnWords_head _ rfl (by decide) (by decide) rfl

theorem redg (f : FmtMI) : Statement (.redg f) :=
  fun w0 rest h => by cases h; exact insnWords_head _ rfl (by decide) (by decide) rfl

theorem bestmax (f : FmtM) : Statement (.bestmax f) :=
  fun w0 rest h => by cases h; exact insnWords_head _ rfl (by decide) (by decide) rfl

theorem tld (f : FmtM) : Statement (.tld f) :=
  fun w0 rest h => by cases h; exact insnWords_head _ rfl (by decide) (by decide) rfl

theorem tst (f : FmtM) : Statement (.tst f) :=
  fun w0 rest h => by cases h; exact insnWords_head _ rfl (by decide) (by decide) rfl

theorem hld (f : FmtM) : Statement (.hld f) :=
  fun w0 rest h => by cases h; exact insnWords_head _ rfl (by decide) (by decide) rfl

theorem citer (f : FmtMI) : Statement (.citer f) :=
  fun w0 rest h => by cases h; exact insnWords_head _ rfl (by decide) (by decide) rfl

theorem ccount (f : FmtM) : Statement (.ccount f) :=
  fun w0 rest h => by cases h; exact insnWords_head _ rfl (by decide) (by decide) rfl

theorem fence (f : FmtM) : Statement (.fence f) :=
  fun w0 rest h => by cases h; exact insnWords_head _ rfl (by decide) (by decide) rfl

theorem cache (f : FmtM) : Statement (.cache f) :=
  fun w0 rest h => by cases h; exact insnWords_head _ rfl (by decide) (by decide) rfl

theorem disc (f : FmtM) : Statement (.disc f) :=
  fun w0 rest h => by cases h; exact insnWords_head _ rfl (by decide) (by decide) rfl

theorem spawn (f : FmtT) : Statement (.spawn f) :=
  fun w0 rest h => by cases h; exact insnWords_head _ rfl (by decide) (by decide) rfl

theorem jrec (f : FmtT) : Statement (.jrec f) :=
  fun w0 rest h => by cases h; exact insnWords_head _ rfl (by decide) (by decide) rfl

theorem fnew (f : FmtT) : Statement (.fnew f) :=
  fun w0 rest h => by cases h; exact insnWords_head _ rfl (by decide) (by decide) rfl

theorem fres (f : FmtT) : Statement (.fres f) :=
  fun w0 rest h => by cases h; exact insnWords_head _ rfl (by decide) (by decide) rfl

theorem fwait (f : FmtT) : Statement (.fwait f) :=
  fun w0 rest h => by cases h; exact insnWords_head _ rfl (by decide) (by decide) rfl

theorem fpoll (f : FmtT) : Statement (.fpoll f) :=
  fun w0 rest h => by cases h; exact insnWords_head _ rfl (by decide) (by decide) rfl

theorem freg (f : FmtT) : Statement (.freg f) :=
  fun w0 rest h => by cases h; exact insnWords_head _ rfl (by decide) (by decide) rfl

theorem fcan (f : FmtT) : Statement (.fcan f) :=
  fun w0 rest h => by cases h; exact insnWords_head _ rfl (by decide) (by decide) rfl

theorem swnew (f : FmtT) : Statement (.swnew f) :=
  fun w0 rest h => by cases h; exact insnWords_head _ rfl (by decide) (by decide) rfl

theorem swdl (f : FmtT) : Statement (.swdl f) :=
  fun w0 rest h => by cases h; exact insnWords_head _ rfl (by decide) (by decide) rfl

theorem swcan (f : FmtT) : Statement (.swcan f) :=
  fun w0 rest h => by cases h; exact insnWords_head _ rfl (by decide) (by decide) rfl

theorem swendClose (f : FmtT) : Statement (.swendClose f) :=
  fun w0 rest h => by cases h; exact insnWords_head _ rfl (by decide) (by decide) rfl

theorem swendRun (f : FmtT) : Statement (.swendRun f) :=
  fun w0 rest h => by cases h; exact insnWords_head _ rfl (by decide) (by decide) rfl

theorem barInit (f : FmtT) : Statement (.barInit f) :=
  fun w0 rest h => by cases h; exact insnWords_head _ rfl (by decide) (by decide) rfl

theorem barArrive (f : FmtT) : Statement (.barArrive f) :=
  fun w0 rest h => by cases h; exact insnWords_head _ rfl (by decide) (by decide) rfl

theorem barWait (f : FmtT) : Statement (.barWait f) :=
  fun w0 rest h => by cases h; exact insnWords_head _ rfl (by decide) (by decide) rfl

theorem barExpect (f : FmtT) : Statement (.barExpect f) :=
  fun w0 rest h => by cases h; exact insnWords_head _ rfl (by decide) (by decide) rfl

theorem barTest (f : FmtT) : Statement (.barTest f) :=
  fun w0 rest h => by cases h; exact insnWords_head _ rfl (by decide) (by decide) rfl

theorem cpy (f : FmtT) : Statement (.cpy f) :=
  fun w0 rest h => by cases h; exact insnWords_head _ rfl (by decide) (by decide) rfl

theorem cpydn (f : FmtT) : Statement (.cpydn f) :=
  fun w0 rest h => by cases h; exact insnWords_head _ rfl (by decide) (by decide) rfl

theorem colqQpoint (f : FmtT) : Statement (.colqQpoint f) :=
  fun w0 rest h => by cases h; exact insnWords_head _ rfl (by decide) (by decide) rfl

theorem colqQsphere (f : FmtT) : Statement (.colqQsphere f) :=
  fun w0 rest h => by cases h; exact insnWords_head _ rfl (by decide) (by decide) rfl

theorem colqQseg (f : FmtT) : Statement (.colqQseg f) :=
  fun w0 rest h => by cases h; exact insnWords_head _ rfl (by decide) (by decide) rfl

theorem dyns (f : FmtT) : Statement (.dyns f) :=
  fun w0 rest h => by cases h; exact insnWords_head _ rfl (by decide) (by decide) rfl

theorem gqcfg (f : FmtT) : Statement (.gqcfg f) :=
  fun w0 rest h => by cases h; exact insnWords_head _ rfl (by decide) (by decide) rfl

theorem gqpush (f : FmtT) : Statement (.gqpush f) :=
  fun w0 rest h => by cases h; exact insnWords_head _ rfl (by decide) (by decide) rfl

theorem gqpop (f : FmtT) : Statement (.gqpop f) :=
  fun w0 rest h => by cases h; exact insnWords_head _ rfl (by decide) (by decide) rfl

theorem gqflush (f : FmtT) : Statement (.gqflush f) :=
  fun w0 rest h => by cases h; exact insnWords_head _ rfl (by decide) (by decide) rfl

theorem pdef (f : FmtT) : Statement (.pdef f) :=
  fun w0 rest h => by cases h; exact insnWords_head _ rfl (by decide) (by decide) rfl

theorem palloc (f : FmtT) : Statement (.palloc f) :=
  fun w0 rest h => by cases h; exact insnWords_head _ rfl (by decide) (by decide) rfl

theorem pfree (f : FmtT) : Statement (.pfree f) :=
  fun w0 rest h => by cases h; exact insnWords_head _ rfl (by decide) (by decide) rfl

theorem preset (f : FmtT) : Statement (.preset f) :=
  fun w0 rest h => by cases h; exact insnWords_head _ rfl (by decide) (by decide) rfl

theorem regdef (f : FmtT) : Statement (.regdef f) :=
  fun w0 rest h => by cases h; exact insnWords_head _ rfl (by decide) (by decide) rfl

theorem hstw (f : FmtT) : Statement (.hstw f) :=
  fun w0 rest h => by cases h; exact insnWords_head _ rfl (by decide) (by decide) rfl

theorem sigdec (f : FmtT) : Statement (.sigdec f) :=
  fun w0 rest h => by cases h; exact insnWords_head _ rfl (by decide) (by decide) rfl

theorem fetchFault (code detail : Nat) (addr : W64) : Statement (.fetchFault code detail addr) :=
  fun _ _ h => by cases h

theorem createQueue (ctx q : Nat) : Statement (.createQueue ctx q) :=
  fun _ _ h => by cases h

theorem qwidxWrite (ctx q width : Nat) (v : W64) : Statement (.qwidxWrite ctx q width v) :=
  fun _ _ h => by cases h

theorem sridxWrite (ctx k width : Nat) (v : W64) : Statement (.sridxWrite ctx k width v) :=
  fun _ _ h => by cases h

theorem registerWrite (space : RegSpace) (off width : Nat) (v : W64) : Statement (.registerWrite space off width v) :=
  fun _ _ h => by cases h

theorem packetRead (ctx q : Nat) : Statement (.packetRead ctx q) :=
  fun _ _ h => by cases h

theorem nopPacket (ctx q : Nat) : Statement (.nopPacket ctx q) :=
  fun _ _ h => by cases h

theorem launch (ctx q : Nat) : Statement (.launch ctx q) :=
  fun _ _ h => by cases h

theorem tasks (ctx q : Nat) : Statement (.tasks ctx q) :=
  fun _ _ h => by cases h

theorem copyPacket (ctx q : Nat) : Statement (.copyPacket ctx q) :=
  fun _ _ h => by cases h

theorem signalPacket (ctx q : Nat) : Statement (.signalPacket ctx q) :=
  fun _ _ h => by cases h

theorem waitPacket (ctx q : Nat) : Statement (.waitPacket ctx q) :=
  fun _ _ h => by cases h

theorem graph (ctx q : Nat) : Statement (.graph ctx q) :=
  fun _ _ h => by cases h

theorem rangeInval (ctx q : Nat) : Statement (.rangeInval ctx q) :=
  fun _ _ h => by cases h

theorem rangeAcquire (ctx q : Nat) : Statement (.rangeAcquire ctx q) :=
  fun _ _ h => by cases h

theorem rangeRelease (ctx q : Nat) : Statement (.rangeRelease ctx q) :=
  fun _ _ h => by cases h

theorem rangeClass (ctx q : Nat) : Statement (.rangeClass ctx q) :=
  fun _ _ h => by cases h

theorem stream (ctx q : Nat) : Statement (.stream ctx q) :=
  fun _ _ h => by cases h

theorem packetComplete (ctx q n : Nat) : Statement (.packetComplete ctx q n) :=
  fun _ _ h => by cases h

theorem graphNodeComplete (ctx q n node : Nat) : Statement (.graphNodeComplete ctx q n node) :=
  fun _ _ h => by cases h

theorem teamAdmit (place : Nat) : Statement (.teamAdmit place) :=
  fun _ _ h => by cases h

theorem yieldEnd (core slot lane : Nat) : Statement (.yieldEnd core slot lane) :=
  fun _ _ h => by cases h

theorem watchWake (core slot lane : Nat) : Statement (.watchWake core slot lane) :=
  fun _ _ h => by cases h

theorem watchTimeout (core slot lane : Nat) : Statement (.watchTimeout core slot lane) :=
  fun _ _ h => by cases h

theorem cancelDelivery (core slot : Nat) : Statement (.cancelDelivery core slot) :=
  fun _ _ h => by cases h

theorem instructionComplete (core slot : Nat) : Statement (.instructionComplete core slot) :=
  fun _ _ h => by cases h

theorem drainStampReached (stamp : Nat) : Statement (.drainStampReached stamp) :=
  fun _ _ h => by cases h

theorem pageWalkDone (cluster ctx : Nat) (va : W64) : Statement (.pageWalkDone cluster ctx va) :=
  fun _ _ h => by cases h

theorem sealStoreStallEnd (core slot : Nat) : Statement (.sealStoreStallEnd core slot) :=
  fun _ _ h => by cases h

theorem sealCommitDone (core slot : Nat) : Statement (.sealCommitDone core slot) :=
  fun _ _ h => by cases h

theorem teamFree (team : Nat) : Statement (.teamFree team) :=
  fun _ _ h => by cases h

theorem copyComplete (core id : Nat) : Statement (.copyComplete core id) :=
  fun _ _ h => by cases h

theorem copyFault (core id : Nat) : Statement (.copyFault core id) :=
  fun _ _ h => by cases h

theorem barWaitTimeout (core slot lane : Nat) : Statement (.barWaitTimeout core slot lane) :=
  fun _ _ h => by cases h

theorem gqTimeout (core q : Nat) : Statement (.gqTimeout core q) :=
  fun _ _ h => by cases h

theorem gqTileDeliver (core q : Nat) : Statement (.gqTileDeliver core q) :=
  fun _ _ h => by cases h

theorem gqpushRetry (core slot lane : Nat) : Statement (.gqpushRetry core slot lane) :=
  fun _ _ h => by cases h

theorem joinDecrement (idx : Nat) : Statement (.joinDecrement idx) :=
  fun _ _ h => by cases h

theorem spawnRetry (core slot lane : Nat) : Statement (.spawnRetry core slot lane) :=
  fun _ _ h => by cases h

theorem fwaitRecheck (core slot lane : Nat) : Statement (.fwaitRecheck core slot lane) :=
  fun _ _ h => by cases h

theorem fwaitPollTimeout (core slot lane : Nat) : Statement (.fwaitPollTimeout core slot lane) :=
  fun _ _ h => by cases h

theorem deadlineExpiry (ctx swarm : Nat) : Statement (.deadlineExpiry ctx swarm) :=
  fun _ _ h => by cases h

theorem engineEntryStart (cluster : Nat) (kind : EngineKind) : Statement (.engineEntryStart cluster kind) :=
  fun _ _ h => by cases h

theorem colqQueryDone (cluster id lane : Nat) : Statement (.colqQueryDone cluster id lane) :=
  fun _ _ h => by cases h

theorem dynsBodyStep (cluster id : Nat) : Statement (.dynsBodyStep cluster id) :=
  fun _ _ h => by cases h

theorem hstwResume (core slot lane : Nat) : Statement (.hstwResume core slot lane) :=
  fun _ _ h => by cases h

theorem bar2Access (a : HostAccess) : Statement (.bar2Access a) :=
  fun _ _ h => by cases h

theorem thermtrip (k : Nat) (t : BitVec 16) : Statement (.thermtrip k t) :=
  fun _ _ h => by cases h

theorem linkTraining (high : Bool) : Statement (.linkTraining high) :=
  fun _ _ h => by cases h

theorem ppsctlWrite (v : W32) : Statement (.ppsctlWrite v) :=
  fun _ _ h => by cases h

theorem functionReady (bit : Nat) : Statement (.functionReady bit) :=
  fun _ _ h => by cases h

theorem destroyContext (ctx : Nat) : Statement (.destroyContext ctx) :=
  fun _ _ h => by cases h

theorem destroyQueue (ctx q : Nat) : Statement (.destroyQueue ctx q) :=
  fun _ _ h => by cases h

theorem queueFree (ctx q : Nat) : Statement (.queueFree ctx q) :=
  fun _ _ h => by cases h

theorem erridxWrite (width : Nat) (v : W64) : Statement (.erridxWrite width v) :=
  fun _ _ h => by cases h

theorem pcapWrite (width : Nat) (v : W64) : Statement (.pcapWrite width v) :=
  fun _ _ h => by cases h

theorem waitSatisfied (ctx q n : Nat) : Statement (.waitSatisfied ctx q n) :=
  fun _ _ h => by cases h

theorem coalesceTimeout (vec : Nat) : Statement (.coalesceTimeout vec) :=
  fun _ _ h => by cases h

theorem streamTimeout (ctx k : Nat) : Statement (.streamTimeout ctx k) :=
  fun _ _ h => by cases h

theorem starvationBoost (core slot : Nat) : Statement (.starvationBoost core slot) :=
  fun _ _ h => by cases h

theorem splitEligibilityBoost (core slot lane : Nat) : Statement (.splitEligibilityBoost core slot lane) :=
  fun _ _ h => by cases h

theorem splitFillDone (core slot lane : Nat) : Statement (.splitFillDone core slot lane) :=
  fun _ _ h => by cases h

theorem spinDemote (core slot lane : Nat) : Statement (.spinDemote core slot lane) :=
  fun _ _ h => by cases h

theorem spinRestore (core slot lane : Nat) : Statement (.spinRestore core slot lane) :=
  fun _ _ h => by cases h

theorem spinRestoreTimeout (core slot lane : Nat) : Statement (.spinRestoreTimeout core slot lane) :=
  fun _ _ h => by cases h

theorem residencyWaitEnd (ctx : Nat) (va : W64) : Statement (.residencyWaitEnd ctx va) :=
  fun _ _ h => by cases h

theorem sealedRequeue (idx : Nat) : Statement (.sealedRequeue idx) :=
  fun _ _ h => by cases h

theorem devicePushRetry (idx : Nat) : Statement (.devicePushRetry idx) :=
  fun _ _ h => by cases h

theorem swarmCancelComplete (ctx swarm : Nat) : Statement (.swarmCancelComplete ctx swarm) :=
  fun _ _ h => by cases h

theorem swarmFree (ctx swarm : Nat) : Statement (.swarmFree ctx swarm) :=
  fun _ _ h => by cases h

theorem preempt (team : Nat) : Statement (.preempt team) :=
  fun _ _ h => by cases h

theorem teamResume (image place : Nat) : Statement (.teamResume image place) :=
  fun _ _ h => by cases h

theorem energyCharge (r : EnergyReading) : Statement (.energyCharge r) :=
  fun _ _ h => by cases h

theorem clockControl : Statement (.clockControl temps) :=
  fun _ _ h => by cases h

theorem coreGateDecide (core : Nat) : Statement (.coreGateDecide core) :=
  fun _ _ h => by cases h

theorem coreGateCommit (core : Nat) : Statement (.coreGateCommit core) :=
  fun _ _ h => by cases h

theorem engineGate (cluster : Nat) (kind : EngineKind) : Statement (.engineGate cluster kind) :=
  fun _ _ h => by cases h

theorem coreWake (core : Nat) : Statement (.coreWake core) :=
  fun _ _ h => by cases h

theorem correctedError (loc : ErrLoc) : Statement (.correctedError loc) :=
  fun _ _ h => by cases h

theorem uncorrectableError (loc : ErrLoc) : Statement (.uncorrectableError loc) :=
  fun _ _ h => by cases h

theorem controlParityError (cluster : Nat) : Statement (.controlParityError cluster) :=
  fun _ _ h => by cases h

theorem reset : Statement (.reset) :=
  fun _ _ h => by cases h

theorem resetRelease : Statement (.resetRelease) :=
  fun _ _ h => by cases h

theorem ppsEdge : Statement .ppsEdge :=
  fun _ _ h => by cases h

theorem ppsEdgeMissed : Statement (.ppsEdgeMissed) :=
  fun _ _ h => by cases h

theorem ppscaploRead : Statement (.ppscaploRead) :=
  fun _ _ h => by cases h

theorem attctlGo : Statement (.attctlGo) :=
  fun _ _ h => by cases h

theorem attestationReport : Statement (.attestationReport) :=
  fun _ _ h => by cases h

theorem boot : Statement (.boot) :=
  fun _ _ h => by cases h

theorem createContext : Statement (.createContext) :=
  fun _ _ h => by cases h

theorem erdropRead : Statement (.erdropRead) :=
  fun _ _ h => by cases h

theorem illop : Statement (.illop) :=
  fun _ _ h => by cases h

theorem refclkEdge : Statement (.refclkEdge) :=
  fun _ _ h => by cases h

theorem ppsSeenExpiry : Statement (.ppsSeenExpiry) :=
  fun _ _ h => by cases h

end Sys2Proof.Laws.F
end

