-- ==== Sys2Proof/Tests/Slice0.lean ====
section
/-! SUPPORT. Tests: words written out from the encodings of the specification, terms that the checks refuse, single steps,
and for every statement with hypotheses a state and operands that meet them. -/

namespace Sys2Proof.Tests

open Sys2Proof Sys2Proof.Machine Sys2Proof.Safety Sys2Proof.Spec

set_option maxRecDepth 100000
set_option Elab.async false

/-! ### Words (R58 to R78) -/

def fSI : FmtSI := { i := false, fn := 0, sb := 0, sa := 0, sd := 0, xf := 0, lit := 0 }
def fV : FmtV := { s := false, rm := .dflt, ty := .b32, ms := .none, vc := 0, vb := 0, md := 0, va := 0, vd := 0 }
def fM : FmtM :=
  { off := 0, ms := .none, scope := .grp, ord := .plain, xi := false, sc := 0, w := .w8, sa := 0, md := 0, vx := 0, vd := 0 }
def fX : FmtX := { xop := 0, rm := .dflt, sf := 0, bs := 0, tb := .b32, xs := 0, xb := 0, ta := .b32, xa := 0, xd := 0 }
def fB : FmtB := { tsel := 0, off := 0, all := false, cnd := 0, sb := 0, sa := 0, sd := 0 }
def fW : FmtW := { off3 := 0, off2 := 0, off1 := 0, off0 := 0, sel3 := 0, sel2 := 0, sel1 := 0, sel0 := 0 }
def fT : FmtT := { t := false, opt := 0, sub := 0, ms := .none, vb := 0, va := 0, md := 0, sb := 0, sa := 0, sd := 0 }

/-- The words decode to the instruction, whatever follows. -/
def reads (p : List W32 × Instr) : Bool := match decode (p.1 ++ [7]) with
  | .ok i => i = p.2
  | .error _ => false

theorem test_words_scalar : ([
    ([0x0FFFFC00], .nop),
    ([0x003E0C04], .smov 3 62),
    ([0x103E1004], .smovPair 4 62),
    ([0xFFC00C04], .smovImm 3 511),
    ([0xA000180A, 0x00000000, 0xDEADBEEF], .sli { fSI with i := true, fn := 2, sd := 6, lit := 3735928559 }),
    ([0x80081C4E, 0x00000019, 0x80000001], .scmp { fSI with i := true, sd := 7, sa := 8, xf := 25, lit := 2147483649 }),
    ([0x0F840854], .sadd64 2 4 62),
    ([0xC0040854], .sadd64Imm 2 4 256),
    ([0x0F840858], .ssub64 2 4 62),
    ([0xC0040858], .ssub64Imm 2 4 256),
    ([0x000B245C], .spopc 9 11),
    ([0x100C245C], .spopcL 9 12),
    ([0x000B2460], .sclz 9 11),
    ([0x100C2460], .sclzL 9 12),
    ([0x000B2466, 0x00008F10, 0x00000000], .sbfx { fSI with sd := 9, sa := 11, xf := 36624 }),
    ([0x000B246A, 0x00001E01, 0x00000000], .sbfi { fSI with sd := 9, sa := 11, xf := 7681 }),
    ([0x4FC40874], .slea 4 2 4 63),
    ([0xFFC40874], .sleaImm 2 4 511),
    ([0x30815078], .smask 3 20 1 2) ] : List (List W32 × Instr)).all reads = true := by
  decide +kernel

theorem test_words_two_operand : ([
    ([0x0F02040C], .sadd 1 2 60),
    ([0xCB05FC0C], .saddImm 63 5 300),
    ([0x0F020410], .ssub 1 2 60),
    ([0xCB05FC10], .ssubImm 63 5 300),
    ([0x0F020414], .smul 1 2 60),
    ([0xCB05FC14], .smulImm 63 5 300),
    ([0x0F020418], .smulhs 1 2 60),
    ([0xCB05FC18], .smulhsImm 63 5 300),
    ([0x0F02041C], .smulhn 1 2 60),
    ([0xCB05FC1C], .smulhnImm 63 5 300),
    ([0x0F020420], .sand 1 2 60),
    ([0xCB05FC20], .sandImm 63 5 300),
    ([0x0F020424], .sor 1 2 60),
    ([0xCB05FC24], .sorImm 63 5 300),
    ([0x0F020428], .sxor 1 2 60),
    ([0xCB05FC28], .sxorImm 63 5 300),
    ([0x0F02042C], .sandn 1 2 60),
    ([0xCB05FC2C], .sandnImm 63 5 300),
    ([0x0F020430], .sshl 1 2 60),
    ([0x87C5FC30], .sshlImm 63 5 31),
    ([0x0F020434], .sshr 1 2 60),
    ([0x87C5FC34], .sshrImm 63 5 31),
    ([0x0F020438], .ssar 1 2 60),
    ([0x87C5FC38], .ssarImm 63 5 31),
    ([0x0F02043C], .smin 1 2 60),
    ([0xCB05FC3C], .sminImm 63 5 300),
    ([0x0F020440], .smax 1 2 60),
    ([0xCB05FC40], .smaxImm 63 5 300),
    ([0x0F020444], .sminn 1 2 60),
    ([0xCB05FC44], .sminnImm 63 5 300),
    ([0x0F020448], .smaxn 1 2 60),
    ([0xCB05FC48], .smaxnImm 63 5 300),
    ([0x0F02046C], .sdivn 1 2 60),
    ([0xCB05FC6C], .sdivnImm 63 5 300),
    ([0x0F020470], .sremn 1 2 60),
    ([0xCB05FC70], .sremnImm 63 5 300) ] : List (List W32 × Instr)).all reads = true := by
  decide +kernel

theorem test_words_control : ([
    ([0x00000081, 0x00FFFFFE], .br { fB with off := 16777214 }),
    ([0x51C60085, 0x00000003], .brs { fB with cnd := 5, sb := 7, sa := 6, off := 3 }),
    ([0x00000089, 0x14000008], .brv { fB with tsel := 20, off := 8 }),
    ([0x2831048E, 0x80000009, 0xFFFF0004], .bway { fW with off3 := 65535, off2 := 4, off1 := 32768, off0 := 9, sel3 := 20, sel2 := 3, sel1 := 2, sel0 := 1 }),
    ([0x80000091, 0x07000001], .brany { fB with tsel := 7, all := true, off := 1 }),
    ([0x003E0094], .jmp 62),
    ([0x0000B099, 0x00800000], .call { fB with sd := 44, off := 8388608 }),
    ([0x0004089C], .calli 2 4),
    ([0x000200A0], .ret 2),
    ([0x000000A4], .syncs),
    ([0x000000A8], .exit),
    ([0x100000A8], .exitAll),
    ([0x000000AC], .yield),
    ([0xFFC000AC], .yieldImm 511),
    ([0xBFC000B0], .trap 127),
    ([0x00000CB6, 0x0000017F, 0x00000000], .smovr { fSI with sd := 3, xf := 383 }),
    ([0x800000BA, 0x00000021, 0x00000005], .smovw { fSI with i := true, xf := 33, lit := 5 }),
    ([0x00040CBC], .watch 3 4),
    ([0x000000C4], .tret) ] : List (List W32 × Instr)).all reads = true := by
  decide +kernel

theorem test_words_vector_integer : ([
    ([0x08000501, 0x000C0000], .vmov { fV with ms := .t 2, va := 256, vd := 1 }),
    ([0x00000506, 0x000C0000, 0xFFFFFFFF], .vli { v := { fV with ms := .t 2, vd := 1 }, lit := 4294967295 }),
    ([0x08000509, 0x010C013F], .vadd { fV with ms := .t 2, vb := 319, va := 256, vd := 1, ty := .n32 }),
    ([0x0800050D, 0x040C013F], .vsub { fV with ms := .t 2, vb := 319, va := 256, vd := 1, ty := .i16 }),
    ([0x08000511, 0x060C013F], .vmul { fV with ms := .t 2, vb := 319, va := 256, vd := 1, ty := .i4 }),
    ([0x08000519, 0x030C0F3F], .vmad { fV with ms := .t 2, vb := 319, va := 256, vd := 1, ty := .i32, vc := 7 }),
    ([0x08000539, 0x020C013F], .vmin { fV with ms := .t 2, vb := 319, va := 256, vd := 1, ty := .s32 }),
    ([0x0800053D, 0x050C013F], .vmax { fV with ms := .t 2, vb := 319, va := 256, vd := 1, ty := .i8 }),
    ([0x08000515, 0x020C013F], .vmulh { fV with ms := .t 2, vb := 319, va := 256, vd := 1, ty := .s32 }),
    ([0x0800051D, 0x000C013F], .vand { fV with ms := .t 2, vb := 319, va := 256, vd := 1 }),
    ([0x08000521, 0x000C013F], .vor { fV with ms := .t 2, vb := 319, va := 256, vd := 1 }),
    ([0x08000525, 0x000C013F], .vxor { fV with ms := .t 2, vb := 319, va := 256, vd := 1 }),
    ([0x08000529, 0x000C013F], .vandn { fV with ms := .t 2, vb := 319, va := 256, vd := 1 }),
    ([0x0800052D, 0x000C013F], .vshl { fV with ms := .t 2, vb := 319, va := 256, vd := 1 }),
    ([0x08000531, 0x000C013F], .vshr { fV with ms := .t 2, vb := 319, va := 256, vd := 1 }),
    ([0x08000535, 0x800C003F], .vsar { fV with ms := .t 2, vb := 63, va := 256, vd := 1, s := true }),
    ([0x08000541, 0x030C0000], .vabs { fV with ms := .t 2, va := 256, vd := 1, ty := .i32 }),
    ([0x58005145, 0x010C013F], .vcmp { fV with ms := .t 2, vb := 319, va := 256, vd := 20, ty := .n32, md := 5 }),
    ([0x08000549, 0x000C293F], .vsel { fV with ms := .t 2, vb := 319, va := 256, vd := 1, vc := 20 }),
    ([0x0800054D, 0x000C0000], .vpopc { fV with ms := .t 2, va := 256, vd := 1 }),
    ([0x08000551, 0x000C0000], .vclz { fV with ms := .t 2, va := 256, vd := 1 }),
    ([0x38000555, 0x000C013F], .vshuf { fV with ms := .t 2, vb := 319, va := 256, vd := 1, md := 3 }),
    ([0x08000559, 0x800C0009], .vbcst { fV with ms := .t 2, vb := 9, va := 256, vd := 1, s := true }),
    ([0x2000055D, 0x000C0000], .vlane { fV with ms := .t 2, vd := 1, md := 2 }),
    ([0x18000561, 0x470C0000], .vscan { fV with ms := .t 2, va := 256, vd := 1, ty := .f32, md := 1, rm := .ru }),
    ([0x18000565, 0x800C7E04], .vrowmap { fV with ms := .t 2, vb := 4, va := 256, vd := 1, s := true, vc := 63, md := 1 }),
    ([0x18000569, 0x060C013F], .vpack { fV with ms := .t 2, vb := 319, va := 256, vd := 1, ty := .i4, md := 1 }),
    ([0xB800056D, 0x050C0000], .vunpk { fV with ms := .t 2, va := 256, vd := 1, ty := .i8, md := 11 }),
    ([0x08000572, 0x000C0000, 0x00010F10], .vbfx { v := { fV with ms := .t 2, va := 256, vd := 1 }, lit := 69392 }),
    ([0x0800F175, 0x000C005F], .vv2s { fV with ms := .t 2, vb := 95, va := 256, vd := 60 }) ] : List (List W32 × Instr)).all reads = true := by
  decide +kernel

theorem test_words_vector_float : ([
    ([0x08000581, 0x270C013F], .vfadd { fV with ms := .t 2, vb := 319, va := 256, vd := 1, ty := .f32, rm := .rz }),
    ([0x08000585, 0x280C013F], .vfsub { fV with ms := .t 2, vb := 319, va := 256, vd := 1, ty := .f16, rm := .rz }),
    ([0x08000589, 0x290C013F], .vfmul { fV with ms := .t 2, vb := 319, va := 256, vd := 1, ty := .bf16, rm := .rz }),
    ([0x080005A9, 0x270C013F], .vfdiv { fV with ms := .t 2, vb := 319, va := 256, vd := 1, ty := .f32, rm := .rz }),
    ([0x080005B5, 0x280C013F], .vfadda { fV with ms := .t 2, vb := 319, va := 256, vd := 1, ty := .f16, rm := .rz }),
    ([0x080005BD, 0x270C013F], .vfscale { fV with ms := .t 2, vb := 319, va := 256, vd := 1, ty := .f32, rm := .rz }),
    ([0x0800058D, 0x370C0B3F], .vfma { fV with ms := .t 2, vb := 319, va := 256, vd := 1, ty := .f32, rm := .rd, vc := 5 }),
    ([0x08000591, 0x370C0B3F], .vfms { fV with ms := .t 2, vb := 319, va := 256, vd := 1, ty := .f32, rm := .rd, vc := 5 }),
    ([0x08000595, 0x090C013F], .vfmin { fV with ms := .t 2, vb := 319, va := 256, vd := 1, ty := .bf16 }),
    ([0x08000599, 0x090C013F], .vfmax { fV with ms := .t 2, vb := 319, va := 256, vd := 1, ty := .bf16 }),
    ([0x0800059D, 0x080C0000], .vfabs { fV with ms := .t 2, va := 256, vd := 1, ty := .f16 }),
    ([0x080005A1, 0x080C0000], .vfneg { fV with ms := .t 2, va := 256, vd := 1, ty := .f16 }),
    ([0x080005B1, 0x080C0000], .vfclass { fV with ms := .t 2, va := 256, vd := 1, ty := .f16 }),
    ([0x78004DA5, 0x070C013F], .vfcmp { fV with ms := .t 2, vb := 319, va := 256, vd := 19, ty := .f32, md := 7 }),
    ([0x080005AD, 0x170C0000], .vfsqrt { fV with ms := .t 2, va := 256, vd := 1, ty := .f32, rm := .rne }),
    ([0x080005B9, 0x190C0B3F], .vfdot2 { fV with ms := .t 2, vb := 319, va := 256, vd := 1, ty := .bf16, rm := .rne, vc := 5 }),
    ([0x180005C1, 0x470C0000], .vfrnd { fV with ms := .t 2, va := 256, vd := 1, ty := .f32, md := 1, rm := .ru }),
    ([0x78000601, 0x5A0C0600], .vcvt { fV with ms := .t 2, va := 256, vd := 1, ty := .e4m3, md := 7, rm := .rs, vc := 3 }),
    ([0x28000605, 0x5C0C0F3F], .vcvts { fV with ms := .t 2, vb := 319, va := 256, vd := 1, ty := .e2m1, md := 2, rm := .rs, vc := 7 }),
    ([0x08000609, 0x080C0000], .vrcp { fV with ms := .t 2, va := 256, vd := 1, ty := .f16 }),
    ([0x0800060D, 0x080C0000], .vrsq { fV with ms := .t 2, va := 256, vd := 1, ty := .f16 }),
    ([0x08000611, 0x080C0000], .vexp2 { fV with ms := .t 2, va := 256, vd := 1, ty := .f16 }),
    ([0x08000615, 0x080C0000], .vlog2 { fV with ms := .t 2, va := 256, vd := 1, ty := .f16 }),
    ([0x08000619, 0x080C0000], .vsin { fV with ms := .t 2, va := 256, vd := 1, ty := .f16 }),
    ([0x0800061D, 0x080C0000], .vcos { fV with ms := .t 2, va := 256, vd := 1, ty := .f16 }),
    ([0x08000621, 0x080C0000], .vtanh { fV with ms := .t 2, va := 256, vd := 1, ty := .f16 }),
    ([0x08000625, 0x080C0000], .vsigm { fV with ms := .t 2, va := 256, vd := 1, ty := .f16 }),
    ([0x00000629, 0x070C0000], .vrand { fV with ms := .t 2, vd := 1, ty := .f32 }),
    ([0x1000022D, 0x800C003E], .vseed { fV with ms := .t 2, vb := 62, md := 1, s := true }),
    ([0x00000635, 0x0E0C0000], .vmkabs { fV with ms := .t 2, vd := 1, ty := .e8m0 }),
    ([0x18005239, 0x0D0C0007], .visabs { fV with ms := .t 2, vb := 7, va := 256, vd := 20, ty := .c4, md := 1 }),
    ([0x70000231, 0xFF01A00A], .qld { fM with off := 255, sa := 10, md := 7, ord := .acq, scope := .dev }) ] : List (List W32 × Instr)).all reads = true := by
  decide +kernel

theorem test_words_matrix : ([
    ([0x89E4D281, 0x04240130], .mma { fX with rm := .rne, tb := .bf16, xb := 304, ta := .f16, xa := 316, xd := 308 }),
    ([0xC0208285, 0xE2767A10], .mmas { fX with xop := 7, sf := 2, bs := 1, tb := .c4, xs := 317, xb := 16, ta := .e2m1, xa := 4, xd := 32 }),
    ([0x0004D289, 0x80000000], .aclr { fX with xop := 4, xd := 308 }),
    ([0xA9F0228D, 0xB4000000], .adrain { fX with xop := 5, rm := .rs, ta := .e4m3, xa := 318, xd := 8 }),
    ([0x00A02291, 0x08000000], .amerge { fX with rm := .rz, xa := 20, xd := 8 }),
    ([0x9804F295, 0x0C0C133F], .vdot8 { fV with ms := .t 2, vb := 319, va := 256, vd := 316, ty := .e2m1, vc := 9, md := 9 }),
    ([0x38000A99, 0x1A0C013F], .vdot4 { fV with ms := .t 2, vb := 319, va := 256, vd := 2, ty := .e4m3, rm := .rne, md := 3 }),
    ([0x38000A9D, 0x170C0000], .vred { fV with ms := .t 2, va := 256, vd := 2, ty := .f32, md := 3, rm := .rne }),
    ([0x0044F2A5, 0x05540200], .mtrans { fV with ty := .i8, ms := .t 20, vc := 1, va := 8, vd := 316 }) ] : List (List W32 × Instr)).all reads = true := by
  decide +kernel

theorem test_words_memory : ([
    ([0x19FCFB01, 0x8006387E], .ldg { fM with off := 128, ms := .t 0, ord := .acq, scope := .sys, xi := true, sc := 4, w := .w16, sa := 62, md := 1, vx := 319, vd := 318 }),
    ([0x0004F305, 0x0100C102], .stg { fM with off := 1, ord := .rel, scope := .team, w := .w128, sa := 2, vd := 316 }),
    ([0x00181309, 0x000014BF], .lds { fM with xi := true, sc := 2, w := .w32, sa := 63, vx := 3, vd := 4 }),
    ([0x0004FB0D, 0x000000C1], .sts { fM with w := .w64, sa := 1, vd := 318 }),
    ([0xF0001311, 0x00000081], .ldsm { fM with w := .w32, sa := 1, md := 15, vd := 4 }),
    ([0x80001315, 0x00000081], .stsm { fM with w := .w32, sa := 1, md := 8, vd := 4 }),
    ([0xD004C319, 0x0000003C], .ldfrag { fM with sa := 60, md := 13, vd := 304 }),
    ([0x0000FB1D, 0x000000C2], .ldu { fM with w := .w64, sa := 2, vd := 62 }),
    ([0x0000FF21, 0x0001C082], .stsc { fM with w := .w32, sa := 2, vd := 63, ord := .rel, scope := .dev }),
    ([0xC004FB26, 0x0001E0C2, 0x00000806], .atomg { m := { fM with ord := .acqrel, scope := .dev, w := .w64, sa := 2, md := 12, vd := 318 }, vc := 4, vb := 6 }),
    ([0xE000072A, 0x00010083, 0x00000006], .atoms { m := { fM with scope := .core, w := .w32, sa := 3, md := 14, vd := 1 }, vc := 0, vb := 6 }),
    ([0x4000032E, 0x00024082, 0x0000013F], .redg { m := { fM with ord := .rel, scope := .sys, w := .w32, sa := 2, md := 4 }, vc := 0, vb := 319 }),
    ([0x004CF331, 0x0001D902], .bestmax { fM with ord := .rel, scope := .dev, w := .w128, sa := 2, xi := true, sc := 4, vx := 9, vd := 316 }),
    ([0xF9E01335, 0x01001080], .tld { fM with off := 1, xi := true, w := .w32, md := 15, vx := 316, vd := 4 }),
    ([0x2044FB39, 0x0001D0C0], .tst { fM with xi := true, w := .w64, md := 2, vx := 8, vd := 318, ord := .rel, scope := .dev }),
    ([0xF000033D, 0x7F000002], .hld { fM with off := 127, sa := 2, md := 15 }),
    ([0x3004EF42, 0x00000000, 0x0000013D], .citer { m := { fM with md := 3, vd := 315 }, vc := 0, vb := 317 }),
    ([0x3000FB45, 0x00000000], .ccount { fM with md := 3, vd := 62 }),
    ([0x00000349, 0x00026000], .fence { fM with ord := .acqrel, scope := .sys }),
    ([0x4038034D, 0xFF001202], .cache { fM with off := 255, xi := true, sc := 1, sa := 2, md := 4, vx := 7 }),
    ([0x00380351, 0x00541002], .disc { fM with ms := .t 20, xi := true, sa := 2, vx := 7 }) ] : List (List W32 × Instr)).all reads = true := by
  decide +kernel

theorem test_words_tasks : ([
    ([0x00005381, 0x9008013E], .spawn { fT with t := true, opt := 1, ms := .t 1, va := 318, sd := 20 }),
    ([0x0002FF85, 0x10000000], .jrec { fT with opt := 1, sa := 2, sd := 63 }),
    ([0x00001789, 0xB000013E], .fnew { fT with t := true, opt := 3, va := 318, sd := 5 }),
    ([0x0000178D, 0x80000802], .fres { fT with t := true, vb := 4, va := 2, sd := 5 }),
    ([0x0F800391, 0x10027802], .fwait { fT with opt := 1, vb := 316, va := 2, sb := 62 }),
    ([0x00000395, 0x00027802], .fpoll { fT with vb := 316, va := 2 }),
    ([0x00005399, 0x00027E02], .freg { fT with vb := 319, va := 2, sd := 20 }),
    ([0x0000039D, 0x00000002], .fcan { fT with va := 2 }),
    ([0x000227A1, 0x00000000], .swnew { fT with sa := 2, sd := 9 }),
    ([0x010327A5, 0x00000000], .swdl { fT with sa := 3, sb := 4, sd := 9 }),
    ([0x000327A9, 0x00000000], .swcan { fT with sa := 3, sd := 9 }),
    ([0x000327AD, 0x00000000], .swendClose { fT with sa := 3, sd := 9 }),
    ([0x100327AD, 0x00000000], .swendRun { fT with md := 1, sa := 3, sd := 9 }),
    ([0x000303B1, 0x0000005F], .barInit { fT with va := 95, sa := 3 }),
    ([0x00C013B1, 0x1100005F], .barArrive { fT with sub := 1, opt := 1, va := 95, sb := 3, sd := 4 }),
    ([0x00C213B1, 0x02000001], .barWait { fT with sub := 2, va := 1, sa := 2, sb := 3, sd := 4 }),
    ([0x00C003B1, 0x03000001], .barExpect { fT with sub := 3, va := 1, sb := 3 }),
    ([0x000313B1, 0x04000001], .barTest { fT with sub := 4, va := 1, sa := 3, sd := 4 }) ] : List (List W32 × Instr)).all reads = true := by
  decide +kernel

theorem test_words_engines : ([
    ([0x000227BD, 0x80000000], .cpy { fT with t := true, sa := 2, sd := 9 }),
    ([0xF00203C1, 0x00000000], .cpydn { fT with md := 15, sa := 2 }),
    ([0x400003C5, 0x00067A02], .colqQpoint { fT with ms := .t 0, vb := 317, va := 2, md := 4 }),
    ([0x000003C5, 0x01027802], .colqQsphere { fT with sub := 1, vb := 316, va := 2 }),
    ([0x000003C5, 0x02027402], .colqQseg { fT with sub := 2, vb := 314, va := 2 }),
    ([0x003E03C9, 0x00000000], .dyns { fT with sa := 62 }),
    ([0x70020FCD, 0x00000000], .gqcfg { fT with md := 7, sa := 2, sd := 3 }),
    ([0x700053D1, 0x70027C02], .gqpush { fT with opt := 7, vb := 318, va := 2, md := 7, sd := 20 }),
    ([0x10000FD5, 0x01567D3C], .gqpop { fT with sub := 1, ms := .t 20, vb := 318, va := 316, md := 1, sd := 3 }),
    ([0x600003D9, 0x00000000], .gqflush { fT with md := 6 }),
    ([0x00C213DD, 0x00000000], .pdef { fT with sa := 2, sb := 3, sd := 4 }),
    ([0x00C053E1, 0x1000013E], .palloc { fT with opt := 1, va := 318, sb := 3, sd := 20 }),
    ([0x00C003E5, 0x0000013E], .pfree { fT with va := 318, sb := 3 }),
    ([0x00C013E9, 0x00000000], .preset { fT with sb := 3, sd := 4 }),
    ([0x00C213ED, 0x00000000], .regdef { fT with sa := 2, sb := 3, sd := 4 }),
    ([0xF00053F1, 0x02000138], .hstw { fT with sub := 2, va := 312, md := 15, sd := 20 }),
    ([0x00C203F5, 0x10000000], .sigdec { fT with opt := 1, sa := 2, sb := 3 }) ] : List (List W32 × Instr)).all reads = true := by
  decide +kernel
/-! ### Ill-formed terms (R61, steps 4 to 6) -/

/-- Register fields: an unused one, a span past v319, an odd pair or accumulator, a scalar past s63, an odd scalar pair, a
triple past t20, a lane or barrier number past its bound. -/
theorem test_ill_formed_registers : ([
    .vmov { fV with vc := 1 }, .vmov { fV with va := 320 }, .ldg { fM with w := .w128, vd := 317 },
    .mma { fX with ta := .f16, tb := .f16, xd := 1 }, .mma { fX with ta := .f16, tb := .f16, xd := 310 },
    .vadd { fV with ty := .n32, s := true, vb := 64 }, .vseed { fV with md := 1, s := true, vb := 3 },
    .vcmp { fV with vd := 21 }, .vv2s { fV with vb := 96 }, .barTest { fT with sub := 4, va := 96 },
    .vsel { fV with vc := 21 }, .ldu { fM with w := .w64, vd := 3 }, .stsc { fM with w := .w32, vd := 64 },
    .fwait { fT with va := 1 }, .fwait { fT with vb := 318 }, .hstw { fT with sub := 2, va := 313 },
    .citer { m := fM, vc := 1, vb := 0 }, .redg { m := { fM with w := .w32, vd := 1 }, vc := 0, vb := 0 } ]
    : List Instr).all (fun i => !i.wf) = true := by
  decide +kernel

/-- Scalar fields: an unused one, an odd pair, a triple past t20. -/
theorem test_ill_formed_scalars : ([
    .smovPair 1 2, .smovPair 2 1, .sadd64 2 3 4, .jmp 1, .calli 1 2, .watch 0 1, .smask 0 21 0 0, .smask 4 0 0 1,
    .ldg { fM with sa := 1 }, .sbfx { fSI with sb := 1 }, .sli { fSI with i := true, fn := 1, sd := 1 },
    .br { fB with sa := 1 }, .call { fB with sd := 1 }, .brs { fB with cnd := 6, sb := 1 }, .tld { fM with xi := true, sa := 1 },
    .swdl { fT with sb := 1 }, .freg { fT with sd := 21 }, .palloc { fT with t := true, sd := 1 } ]
    : List Instr).all (fun i => !i.wf) = true := by
  decide +kernel

/-- Codes: S, RM, TY, MOD, predicates, selectors, orders, scopes, widths, options, sub-operations, literals, special-register
indexes and bit fields that an instruction does not accept. -/
theorem test_ill_formed_codes : ([
    .vabs { fV with ty := .s32, s := true }, .vadd { fV with ty := .n32, rm := .rne }, .vfadd { fV with ty := .f32, rm := .rs },
    .vadd { fV with ty := .f32 }, .vshuf { fV with md := 4 }, .vcmp { fV with md := 2 }, .vbcst fV, .vrowmap fV,
    .vunpk { fV with ty := .i16, md := 2 }, .vbfx { v := fV, lit := 32 }, .vbfx { v := fV, lit := 0x1F01 },
    .vcvt { fV with ty := .f32, md := 7, vb := 1 }, .vcvt { fV with ty := .f16, md := 7, vc := 2 }, .vcvt { fV with ty := .c4, md := 7 },
    .vdot8 { fV with ty := .i4, md := 6 }, .mtrans { fV with ty := .i8, ms := .t 0 },
    .mma { fX with ta := .f16, tb := .i8 }, .mma { fX with ta := .f16, tb := .f16, xop := 1 },
    .mmas { fX with ta := .i8, tb := .i8, sf := 3 }, .aclr { fX with xop := 1 }, .adrain { fX with ta := .i32, xop := 3 },
    .ldg { fM with ord := .rel }, .stg { fM with ord := .acq }, .ldg { fM with scope := .dev }, .ldg { fM with md := 1, w := .w32 },
    .lds { fM with ord := .acq, scope := .dev }, .ldfrag { fM with md := 2 }, .qld fM, .hld { fM with xi := true },
    .bestmax { fM with w := .w64 }, .tld { fM with xi := true, w := .w128 }, .fence fM, .cache { fM with md := 5 },
    .disc { fM with off := 1 }, .ccount { fM with scope := .dev }, .ccount { fM with ms := .t 0 },
    .atomg { m := { fM with w := .w16 }, vc := 0, vb := 0 }, .atomg { m := { fM with w := .w64, md := 1 }, vc := 0, vb := 0 },
    .redg { m := { fM with w := .w32, md := 11 }, vc := 0, vb := 0 }, .redg { m := { fM with w := .w64 }, vc := 0, vb := 3 },
    .atomg { m := { fM with w := .w64, vd := 1 }, vc := 0, vb := 0 }, .atoms { m := { fM with w := .w64, md := 12 }, vc := 5, vb := 0 },
    .fres { fT with opt := 1 }, .fwait { fT with t := true }, .spawn { fT with md := 1 }, .gqcfg { fT with md := 8 },
    .hstw { fT with sub := 3 }, .gqpop { fT with ms := .t 3 }, .swendRun fT, .barWait fT, .colqQseg fT,
    .scmp { fSI with xf := 10 }, .scmp { fSI with lit := 1 }, .sbfx { fSI with xf := 0x1F01 }, .slea 5 2 2 2,
    .smovr { fSI with xf := 0x00F }, .smovw { fSI with xf := 0x000 }, .bway fW, .bway { fW with off0 := 1, sel1 := 1 },
    .bway { fW with off0 := 1, sel0 := 21 }, .brv { fB with tsel := 21 }, .br { fB with all := true } ]
    : List Instr).all (fun i => !i.wf) = true := by
  decide +kernel

/-- Words that the decoder refuses, each with its reason: LEN 3, an unassigned opcode, a length that is not the format's, words
that are missing, a reserved field, and a field that the instruction does not accept (R61). -/
theorem test_refused_words :
    ([ ([0xFFFFFFFF], .badLength), ([0x00000050], .unassigned), ([0x0000000D, 0], .wrongLength), ([0x00000109], .short),
       ([0x0000000C + 0x10000000], .reserved), ([0x00000504, 0], .wrongLength), ([0x00000054 + 0x400], .badField) ]
      : List (List W32 × Reject)).all (fun p => match decode p.1 with
        | .ok _ => false
        | .error r => r = p.2) = true := by
  decide +kernel

/-! ### States for the witnesses -/

/-- A group of 32 lanes about to issue, in reset's machine: context 0, team 0, its page tables map the lowest GiB. -/
def base : State := State.reset.fetchReady 0

/-- With the group changed. -/
def grp (f : Group → Group) (s : State) : State := { s with dev := { s.dev with groups := s.dev.groups.upd 0 f } }
/-- With the device changed. -/
def dev (f : Device → Device) (s : State) : State := { s with dev := f s.dev }
/-- With the platform changed. -/
def plat (f : Platform → Platform) (s : State) : State := { s with plat := f s.plat }
/-- With context 0 changed. -/
def ctx0 (f : Ctx → Ctx) (s : State) : State := dev (fun d => d.updCtx 0 f) s
/-- With the splits of the group changed. -/
def spl (f : Split → Split) (s : State) : State := grp (fun g => { g with splits := g.splits.map f }) s
/-- With the exec mask set. -/
def only (e : Mask) (s : State) : State := spl (fun sp => { sp with e }) s
/-- With scalar registers set. -/
def sregs (l : List (Nat × W32)) (s : State) : State :=
  grp (fun g => { g with s := l.foldl (fun m p => SMap.set m p.1 p.2) g.s }) s
/-- With lane 0 of vector registers set. -/
def vregs (l : List (Nat × W32)) (s : State) : State := grp (fun g => l.foldl (fun g p => g.setV p.1 0 p.2) g) s
/-- With bytes in device memory. -/
def bytes (a : Nat) (l : List Byte) (s : State) : State := dev (fun d => { d with mem := writeBytes d.mem a l }) s

/-- The issuing view satisfies `p`. -/
def view (s : State) (p : View → Bool) : Bool := match s.issuer with
  | some x => p x
  | none => false
/-- The split of core 0, slot 0 whose lowest lane is 0 satisfies `p`. -/
def parked (s : State) (p : View → Bool) : Bool := match s.viewAt 0 0 0 with
  | some x => p x
  | none => false
/-- A result that is no error satisfies `p`. -/
def okay {ε α : Type} (e : Except ε α) (p : α → Bool) : Bool := match e with
  | .ok a => p a
  | .error _ => false
/-- Checks that every lane passes satisfy `p`. -/
def passed {α : Type} (c : Checked α) (p : List (Nat × α) → Bool) : Bool := match c with
  | .ok l => p l
  | _ => false
/-- The operation answers a next state that satisfies `p`. -/
def goes (o : Host.Outcome State Fault Refusal) (p : State → Bool) : Bool := match o with
  | .next t => p t
  | _ => false
/-- The group in slot 0. -/
def group0 (s : State) (p : Group → Bool) : Bool := match s.dev.groups.get 0 with
  | some g => p g
  | none => false

/-- One lane is active. -/
def one : State := only 1 base

/-! ### Witnesses: the step and its invariants -/

theorem test_met_DecodeEncode : (Instr.trap 127).wf && decide (encode (.trap 127) ≠ []) && (Instr.illop).wf = true := by
  decide +kernel

theorem test_met_EncodeDecode : reads ([0x00810C0C], .sadd 3 1 2) = true := by decide +kernel

theorem test_met_StepRunsDecoded :
    let s0 := turnOf base [] { core := 0, slot := 0, lane := 0 }
    base.agenda = .issue 0 0 0 :: [] ∧ view s0 (fun x => s0.mayIssue x &&
      okay ((s0.unstall x).dev.fetch s0.plat s0.tick x.g.ctx 0 x.sp.pc) (fun p => decide (p.2 ≠ []))) = true := by
  decide +kernel

theorem test_met_StepFollowsAgenda :
    isEvent .refclkEdge = true ∧ (State.reset.agenda = [] ∧ State.reset.choose = none) ∧
      ({ base with agenda := [] } : State).choose.isSome = true := by
  decide +kernel

theorem test_met_ErasedMemoryIsIllop :
    let s (w : Nat) := State.reset.fetchReady w
    let s0 (w : Nat) := turnOf (s w) [] { core := 0, slot := 0, lane := 0 }
    ([0xFFFFFFFF, 0, 0x0FFFF800] : List Nat).all (fun w => view (s0 w) (fun x => (s0 w).mayIssue x &&
      okay (((s0 w).unstall x).dev.fetch (s0 w).plat (s0 w).tick x.g.ctx 0 x.sp.pc) (fun p =>
        decide (p.2.head? = some (BitVec.ofNat 32 w)) && view (((s0 w).unstall x).withDev p.1) (fun _ => true)))) = true := by
  decide +kernel

theorem test_met_FusesFixed : goes (step (State.reset.fetchReady 0x0FFFFC00)) (fun t => t.plat.uid = State.reset.plat.uid) = true := by
  decide +kernel

theorem test_met_PlatformKept : PlatformOk State.reset.plat ∧ goes (step State.reset) (fun _ => true) = true := by
  unfold PlatformOk
  decide +kernel

/-- Two splits, whose step goes on. -/
theorem test_met_LanesKept :
    let s := grp (fun g => { g with
      splits := [Split.start 0x10000 1 1, { Split.start 0x10100 6 2 with park := .yieldUntil 1000 }] }) (State.reset.fetchReady 0x0FFFFC00)
    LanesOk s.dev ∧ (∀ e : Env, s.dev.entriesBack e = s.dev) ∧ (∀ core slot lane rest, s.agenda ≠ .event (.splitFillDone core slot lane) :: rest) ∧
      (∀ image place rest, s.agenda ≠ .event (.teamResume image place) :: rest) ∧ goes (step s) (fun _ => true) = true := by
  refine ⟨?_, ?_, ?_, ?_, by decide +kernel⟩
  · unfold LanesOk
    decide +kernel
  · intro e; rfl
  · intro _ _ _ _ h; cases h
  · intro _ _ _ h; cases h

theorem test_met_BytesReadBack : SMap.wf (w := 8) [(3, 1)] = true ∧ SMap.wf (base.dev.space .dev) = true ∧
    ((2 < 3 ∧ Space.host ≠ Space.dev) ∨ 3 + 1 ≤ 2) := by decide +kernel

/-! ### Witnesses: scalar and control instructions -/

theorem test_met_ScalarCompletes : view (only 0 base) (fun x => (scalarView (.smask 5 20 0 0)).isSome && decide (x.sp.e = 0)) = true := by
  decide +kernel

theorem test_met_ScalarOperations :
    ImmKind.count.value 31 = some 31 ∧ ImmKind.count.value 32 = none ∧ ImmKind.sext.value 256 = some 0xFFFFFF00 ∧
      ImmKind.zext.value 511 = some 511 ∧ view base (fun _ => true) = true ∧ ((62 : SReg).toNat % 2 = 0 ∧ (63 : SReg).toNat % 2 = 1) := by
  decide +kernel

theorem test_met_ScalarFrame :
    view base (fun _ => (scalarView (.smovPair 62 0)).isSome && (Instr.smovPair 62 0).wf && goes (exec (.smovPair 62 0) base) (fun _ => true)) = true := by
  decide +kernel

theorem test_met_ScalarRegisters : view (only 0 base) (fun x => decide (x.sp.e = 0 ∧ x.sp.e &&& ~~~x.sp.l = 0 ∧
    x.sp.e &&& ~~~laneMask x.g.width = 0 ∧ x.sp.l &&& ~~~laneMask x.g.width = 0)) = true := by
  decide +kernel

/-- Branches of format B; an indirect transfer to an aligned target and to one that is not. -/
theorem test_met_BranchCompletes :
    view (sregs [(2, 0x10100), (4, 0x10102)] base) (fun x => (taken x (.brany { fB with all := true, tsel := 20 })).isSome &&
      (match indirectTo x (.calli 6 2), indirectTo x (.jmp 4) with
        | some (a, _), some (b, _) => decide (a.toNat % 4 = 0 ∧ b.toNat % 4 ≠ 0)
        | _, _ => false)) = true := by
  decide +kernel

theorem test_met_RoutingCompletes :
    view base (fun x => (waysOf x (.brv { fB with off := 4, tsel := 20 })).isSome && decide (x.sp.e &&& ~~~x.sp.l = 0)) = true := by
  decide +kernel

/-- A partial EXIT; the end of a split beside another; the end of a group. -/
theorem test_met_ParkAndExitComplete :
    view one (fun x => decide (x.sp.l &&& ~~~x.sp.e ≠ 0)) = true ∧
    view base (fun x => decide (x.sp.l &&& ~~~x.sp.e = 0 ∧ x.sp.handling = false ∧ x.g.sealBuf = none ∧
      ∀ y ∈ x.g.splits, y.low = x.sp.low) && okay (base.dev.endGroup base.env base.cur.key (x.g.put x.sp.low []) .normal) (fun _ => true)) = true ∧
    view (grp (fun g => { g with splits := [Split.start 0x10000 1 1, Split.start 0x10100 2 2] }) base) (fun x =>
      decide (x.sp.handling = false ∧ ∃ y ∈ x.g.splits, y.low ≠ x.sp.low)) = true := by
  decide +kernel

/-- The end of a handling split beside another, and of a sealed group's last split. -/
theorem test_met_ParkAndExitComplete_more :
    let s := grp (fun g => { g with inHandler := true, tvec := 0x20000
                                    splits := [{ Split.start 0x10000 1 1 with handling := true }, Split.start 0x10100 2 2] }) base
    view s (fun x => decide (x.sp.l &&& ~~~x.sp.e = 0 ∧ x.sp.handling = true ∧ ∃ y ∈ x.g.splits, y.low ≠ x.sp.low) &&
      okay (s.dev.frameRead s.env s.cur.key (x.g.put x.sp.low []) 64 32) (fun p =>
        okay (p.1.released s.env s.cur.key ((x.g.put x.sp.low []).restore (savedWords p.2))) (fun _ => true))) &&
    view (grp (fun g => { g with sealBuf := some { entries := [], units := 0, pool := [], poolN := 0 } }) base) (fun x =>
      x.g.sealBuf.isSome && decide (∀ y ∈ x.g.splits, y.low = x.sp.low)) = true := by
  decide +kernel

/-- A swarm with no deadline and one with a deadline; words at the ends of the modulo descriptors, codebooks and handles. -/
theorem test_met_SpecialRegisters :
    view base (fun x => decide (base.dev.deadlineOf x.g.ctx 4097 x.g.swarm = 0)) &&
    (let s := grp (fun g => { g with swarm := 7 }) (ctx0 (fun c => { c with swarms := c.swarms.set 7 { Swarm.ofDesc 0 0 with deadline := 4000 } }) base)
     view s (fun x => decide (s.dev.deadlineOf x.g.ctx 4097 x.g.swarm = (4000 : W64).toNat ∧ (4000 : W64) ≠ 0))) &&
    decide ((0x040 ≤ 0x04F ∧ 0x04F < 0x050) ∧ (0x068 ≤ 0x068 ∧ 0x09F < 0x0A0) ∧ (0x100 + 8 * 15 + 7 < 0x180)) = true := by
  decide +kernel

/-- The word of a handle and that of a codebook, written and read: bits 64 to 95 of h2, and word 3 of q1 with q0 beside it. -/
theorem test_special_words : view base (fun x =>
    let y : View := { x with g := { x.g with h := SMap.set x.g.h 2 (BitVec.ofNat 256 (2 ^ 64 * 0x12345678)) } }
    let z : View := { y with g := writeSpecial y.g 0x06B 0xABCD }
    decide ((readSpecial base.plat base.cur base.dev z 0x112).2 = 0x12345678 ∧ (readSpecial base.plat base.cur base.dev z 0x06B).2 = 0xABCD ∧
      (readSpecial base.plat base.cur base.dev z 0x061).2 = 0x3FC03F80)) = true := by
  decide +kernel

/-! ### Witnesses: traps -/

/-- A group with a handler, and its frame's place writable. -/
def trapping : State := grp (fun g => { g with tvec := 0x20000 }) base

/-- A trap's frame can be written: a TRAP #127's, and that of a trap that faults at its instruction; v32 of a group of 32. -/
theorem test_met_TrapEnters :
    let frames (code : Nat) (step : W64) : Bool :=
      view trapping (fun x => decide (x.g.sealBuf = none ∧ x.g.inHandler = false ∧ x.g.tvec ≠ 0) &&
        okay (trapping.dev.write trapping.plat trapping.tick x.g.ctx (Agent.copier (trapping.cur.key / 48)) false (trapping.dev.blockAt x.g)
          (frameBytes x.sp.pc (x.sp.pc + step) 0 (BitVec.ofNat 64 code) x.sp.e x.sp.e x.g.saved)) (fun _ => true))
    frames 1 0 && frames 2 0 && frames 0xFF 4 && view (grp (fun g => { g with nreg := 32 }) trapping) (fun x =>
      !x.g.inRange (Instr.vadd { fV with vd := 32 }).spans && x.g.inRange (Instr.vadd { fV with vd := 31 }).spans) && decide ((0x80 : Nat) + (127 : BitVec 7).toNat = 0xFF ∧ (0x04 : Nat) ≠ 0x0D) = true := by
  decide +kernel

/-- A handler runs in another split; a trap of the handling split; a group with no handler. -/
theorem test_met_TrapsElsewhere :
    view (grp (fun g => { g with inHandler := true, tvec := 0x20000 }) base) (fun x =>
      decide (x.g.sealBuf = none ∧ x.g.inHandler = true ∧ x.sp.handling = false)) = true ∧
    view (spl (fun sp => { sp with handling := true }) (grp (fun g => { g with inHandler := true }) base)) (fun x =>
      decide (x.sp.handling = true ∧ x.g.sealBuf = none)) = true ∧
    view base (fun x => decide (x.g.tvec = 0 ∧ (x.g.inHandler = true → x.sp.handling = true))) = true := by
  decide +kernel

theorem test_met_TrapReturns :
    let s := spl (fun sp => { sp with handling := true }) (grp (fun g => { g with inHandler := true }) base)
    view base (fun x => decide (x.g.inHandler = false)) = true ∧
    view s (fun x => decide (x.g.inHandler = true ∧ x.g.waiting = []) &&
      okay (s.dev.load s.plat s.tick x.g.ctx (Agent.copier (s.cur.key / 48)) false (s.dev.blockAt x.g) 96) (fun p =>
        decide (bytesToNat ((p.2.1.drop 8).take 8) % 4 = 0))) = true := by
  decide +kernel

/-! ### Witnesses: vector and matrix instructions -/

theorem test_met_VectorCompletes : view base (fun x => (laneResult (.vadd { fV with ty := .i4, vd := 319, va := 319, vb := 319 })).isSome &&
    x.g.inRange (Instr.vadd { fV with ty := .i4, vd := 319, va := 319, vb := 319 }).spans) = true := by
  decide +kernel

/-- With every lane active, with none, and with t20 as the destination. -/
theorem test_met_CompareCompletes :
    let i : Instr := .vcmp { fV with ty := .n32, vd := 20, va := 319 };
    ((laneBit i).isSome = true ∧ i.wf = true) ∧ view base (fun x => x.g.inRange i.spans && decide (x.active .none ≠ 0)) = true ∧
      view (only 0 base) (fun x => decide (x.active .none = 0)) = true := by
  decide +kernel

theorem test_met_ConvertCompletes : view base (fun x => (laneDraw (.vcvt { fV with ty := .f16, md := 7, vc := 1 })).isSome &&
    (laneDraw (.vrand fV)).isSome && x.g.inRange (Instr.vrand { fV with vd := 319 }).spans) = true := by
  decide +kernel

theorem test_met_LaneMovesComplete : view base (fun x =>
    x.g.inRange (Instr.vli { v := fV, lit := 5 }).spans && x.g.inRange (Instr.vseed { fV with va := 319, vb := 319 }).spans &&
    x.g.inRange (Instr.vv2s { fV with vb := 95 }).spans && decide (x.active .none ≠ 0) &&
    x.g.inRange (Instr.vrowmap { fV with s := true, md := 1 }).spans) = true := by
  decide +kernel

/-- Every lane active, none, some. -/
theorem test_met_MatrixCompletes :
    let i : Instr := .mma { fX with ta := .f16, tb := .f16, xb := 304 };
    (matrixView i).isSome = true ∧
      view base (fun x => x.g.inRange i.spans && decide (x.sp.e = laneMask x.g.width ∧ x.sp.e ≠ 0)) = true ∧
      view (only 0 base) (fun x => decide (x.sp.e = 0)) = true ∧
      view one (fun x => decide (x.sp.e ≠ 0 ∧ x.sp.e ≠ laneMask x.g.width)) = true := by
  decide +kernel


/-! ### The listings of the specification -/

/-- Words that R77, R78 and the chapters give beside a listing; for `freg t17, v4, v9` the word of the fields that the listing
names (its first word is misprinted, log entry 10). -/
theorem test_words_of_the_listings : ([
    ([0x0FFFFC00], .nop),
    ([0xFF42100C], .saddImm 4 2 0x1FD),
    ([0x0020318D, 0x070C1805], .vfma { fV with vd := 12, va := 4, vb := 5, vc := 12, ms := .t 2, ty := .f32 }),
    ([0x80001C0A, 0x00000000, 0x12345678], .sli { fSI with sd := 7, i := true, lit := 0x12345678 }),
    ([0x80C51430], .sshlImm 5 5 3),
    ([0x80040C4E, 0x00000006, 0x00000064], .scmp { fSI with sd := 3, sa := 4, i := true, xf := 6, lit := 100 }),
    ([0x30545078], .smask 3 20 20 1),
    ([0x00000089, 0x03000030], .brv { fB with tsel := 3, off := 0x30 }),
    ([0xA14000B0], .trap 5),
    ([0x70485201, 0x09000200], .vcvt { fV with vd := 20, va := 9, md := 7, ty := .bf16, vc := 1 }),
    ([0x00100F01, 0x04001484], .ldg { fM with vd := 3, vx := 2, sa := 4, w := .w32, sc := 2, xi := true, off := 4 }),
    ([0x40082A95, 0x0C000602], .vdot8 { fV with vd := 10, va := 1, vb := 2, vc := 3, ty := .e2m1, md := 4 }),
    ([0x2050529D, 0x07000000], .vred { fV with vd := 20, va := 10, ty := .f32, md := 2 }),
    ([0x705015A5, 0x0700000A], .vfcmp { fV with vd := 5, va := 10, vb := 10, ty := .f32, md := 7 }),
    ([0x00000F81, 0x90000008], .spawn { fT with sd := 3, va := 8, opt := 1, t := true }),
    ([0x00000391, 0x00002804], .fwait { fT with va := 4, vb := 20 }),
    ([0x02821FA5, 0x00000000], .swdl { fT with sd := 7, sa := 2, sb := 10 }),
    ([0x000427BD, 0x80000000], .cpy { fT with sd := 9, sa := 4, t := true }),
    ([0x02051FB1, 0x02000003], .barWait { fT with sub := 2, sd := 7, sa := 5, sb := 8, va := 3 }),
    ([0x200053D5, 0x00005008], .gqpop { fT with sd := 20, md := 2, va := 8, vb := 40 }),
    ([0x000A3385, 0x00000000], .jrec { fT with sd := 12, sa := 10 }),
    ([0x00004799, 0x00001204], .freg { fT with sd := 17, va := 4, vb := 9 }),
    ([0x00C017E1, 0x1000000A], .palloc { fT with sd := 5, sb := 3, va := 10, opt := 1 }),
    ([0x00841FED, 0x00000000], .regdef { fT with sd := 7, sa := 4, sb := 2 }),
    ([0x200427C1, 0x80000000], .cpydn { fT with sd := 9, sa := 4, md := 2, t := true }),
    ([0x200003C5, 0x0200280A], .colqQseg { fT with sub := 2, md := 2, va := 10, vb := 20 }),
    ([0x100003C5, 0x01181804], .colqQsphere { fT with sub := 1, md := 1, va := 4, vb := 12, ms := .t 5 }),
    ([0x000037D1, 0x60000C02], .gqpush { fT with sd := 13, va := 2, vb := 6, opt := 6 }),
    ([0x10202339, 0x00001080], .tst { fM with vd := 8, vx := 4, md := 1, w := .w32, xi := true }),
    ([0x00002331, 0x00018104], .bestmax { fM with vd := 8, sa := 4, w := .w128, scope := .dev }),
    ([0x000033F1, 0x00000014], .hstw { fT with sd := 12, va := 20 }),
    ([0x028803F5, 0x10000000], .sigdec { fT with sa := 8, sb := 10, opt := 1 }) ] : List (List W32 × Instr)).all reads = true := by
  decide +kernel

/-! ### Single steps: the examples of the chapters -/

/-- The instruction of some words, run on a state, answers a next state that satisfies `p`. -/
def runs (ws : List W32) (s : State) (p : State → Bool) : Bool := match decode ws with
  | .ok i => goes (exec i s) p
  | .error _ => false

/-- The example of VADD: i8 saturates and keeps ABSENT, and raises OF; n32 wraps and raises nothing. -/
theorem test_vadd_example :
    let s := vregs [(1, 0x7F800105), (2, 0x01017F7E)] one
    goes (exec (.vadd { fV with vd := 3, va := 1, vb := 2, ty := .i8 }) s) (fun t => group0 t (fun g =>
      decide (g.vreg 3 0 = 0x7F807F7F ∧ g.inflight = [4]))) &&
    goes (exec (.vadd { fV with vd := 3, va := 1, vb := 2, ty := .n32 }) s) (fun t => group0 t (fun g =>
      decide (g.vreg 3 0 = 0x80818083 ∧ g.inflight = []))) = true := by
  decide +kernel

/-- The example of VROWMAP, in lanes 0, 4, 5 and 6. -/
theorem test_vrowmap_example :
    let s := sregs [(3, 4)] (grp (fun g => [(0, 0), (1, 4), (2, 2), (3, 6), (4, 6)].foldl (fun g p => g.setV 10 p.1 p.2) g) (only 0xFF base))
    let go (md : BitVec 4) (l : List W32) := goes (exec (.vrowmap { fV with vd := 12, va := 10, vb := 2, vc := 3, md }) s) (fun t => group0 t (fun g =>
      decide ([0, 4, 5, 6].map (fun k => g.vreg 12 k) = l)))
    go 0 [0, 2, 2, 0xFFFFFFFF] && go 1 [0, 2, 3, 0xFFFFFFFF] = true := by
  decide +kernel

/-- The examples of VCVT: f32 to bf16, e4m3, e2m1, f16 and i8. -/
theorem test_vcvt_examples :
    let go (ty : Ty) (rm : Rm) (v r : W32) := goes (exec (.vcvt { fV with vd := 3, va := 1, ty, md := 7, rm }) (vregs [(1, v)] one)) (fun t =>
      group0 t (fun g => decide (g.vreg 3 0 &&& (BitVec.ofNat 32 (2 ^ ty.bits - 1)) = r)))
    go .bf16 .rne 0x3FAAAAAB 0x3FAB && go .e4m3 .rne 0x3BA3D70A 3 && go .e4m3 .rz 0x3BA3D70A 2 && go .e2m1 .rne 0xC0A00000 0xE &&
      go .e2m1 .rne 0xBE4CCCCD 0 && go .e2m1 .rne 0x40F00000 7 && go .f16 .rne 0x47C35000 0x7C00 && go .f16 .rz 0x47C35000 0x7BFF &&
      go .e4m3 .rd 0x47C35000 0x7E && go .i8 .rne 0xC348B333 0x81 = true := by
  decide +kernel

/-- Lane 0 of the block dot product: sum 18 with count 8. -/
theorem test_vdot8_example : runs [0x40082A95, 0x0C000602] (vregs [(1, 0x76543210), (2, 0x22222222), (3, 0x3C3C)] one) (fun t =>
    group0 t (fun g => decide (g.vreg 10 0 = 0x41900000))) = true := by
  decide +kernel

/-- The example of TRAP #0x85: what the frame holds, t19, s56 and the program counter. -/
theorem test_trap_example :
    let e : Mask := 0xFFFFFFFFF
    let s := sregs [(52, 7), (56, 0x10)] (grp (fun g => { g with width := 64, tvec := 0x40002000, splits := [Split.start 0x40000540 e e] }) base)
    runs [0xA14000B0] s (fun t => group0 t (fun g => decide (g.s.get 56 = 0x85 ∧ g.splits.map Split.pc = [0x40002000] ∧
      g.s.get 57 = 0xFFFFFFFF ∧ g.s.get 58 = 0xF) &&
      (let f (o n : Nat) : Nat := readNat t.dev.mem (0x10000000 + o) n
       decide (f 0 8 = 0x40000540 ∧ f 8 8 = 0x40000544 ∧ f 16 8 = 0 ∧ f 24 8 = 0x85 ∧ f 32 16 = 0xFFFFFFFFF ∧ f 48 16 = 0xFFFFFFFFF ∧
         f 64 4 = 7 ∧ f 80 4 = 0x10)))) = true := by
  decide +kernel

/-- The example of STSM: the lowest and the wrapped places, and the position after. -/
theorem test_stsm_example :
    let s := sregs [(6, 0xF0)] (grp (fun g => { g with wBase := SMap.set g.wBase 1 0x400, wSize := SMap.set g.wSize 1 0x100 })
      (grp (fun g => (List.range 32).foldl (fun g l => (g.setV 3 l (BitVec.ofNat 32 l)).setV 9 l (BitVec.ofNat 32 (100 + l))) g) base))
    goes (exec (.stsm { fM with md := 9, sa := 6, vx := 3, sc := 2, xi := true, vd := 9, w := .w32 }) s) (fun t =>
      group0 t (fun g => decide (g.s.get 6 = 0x70)) &&
      decide ([0x4F0, 0x4FC, 0x400, 0x46C].map (fun a => bytesToNat (t.dev.spadRead a 4)) = [100, 103, 104, 131])) = true := by
  decide +kernel

/-- The example of a 2 MiB page: where its VA goes. -/
theorem test_page_example :
    let t (a e : Nat) (m : Memory) : Memory := writeBytes m a (natToBytes 8 e)
    let m := t 0x1000 0x2001 (t 0x2000 0x3001 (t 0x3800 0x4001 (t 0x4000 0x001000123440014F [])))
    okay (walkFrom m Part.a128.capacity 0x0000004000100040 4 0x1000) (fun l =>
      decide (pteAddr l.entry + 0x0000004000100040 % l.size = 0x1234500040 ∧ l.size = 0x200000 ∧ pteCls l.entry = 1)) = true := by
  decide +kernel

/-- The example of a divergent BRV: the split keeps the idle lanes on the path that falls through. -/
theorem test_brv_example :
    let s := sregs [(6, 0xFFFF)] (grp (fun g => { g with splits := [Split.start 0x100 0xFFFFFFFF 0x00FFFFFF] }) base)
    goes (exec (.brv { fB with tsel := 2, off := 16 }) s) (fun t => group0 t (fun g =>
      decide (g.splits.map (fun sp => (sp.pc, sp.l, sp.e)) = [(0x140, 0xFFFF, 0xFFFF), (0x108, 0xFFFF0000, 0x00FF0000)]))) = true := by
  decide +kernel

/-! ### Witnesses: memory instructions -/

/-- One lane, with s0, s1 at an aligned address and a sealed buffer or none. -/
def at_ (a : Nat) (s : State) : State := sregs [(0, BitVec.ofNat 32 a), (1, 0)] s
/-- The group is a sealed task. -/
def sealed (s : State) : State := grp (fun g => { g with sealBuf := some { entries := [], units := 0, pool := [], poolN := 0 } }) s
/-- The walk of an address whose leaf is an entry. -/
def leafIs (e : Nat) (p : W64 → Bool) : Bool :=
  okay (walkFrom (bytes 0x3000 (natToBytes 8 e) base).dev.mem Part.a064.capacity 0x8000 4 0x1000) (fun l => p l.entry)

theorem test_met_LaneAddressChecks : (3 : Int) % 4 ≠ 0 ∧ (-4 : Int) % 4 = 0 ∧ (2 ^ 57 : Int) % 128 = 0 ∧
    ((2 ^ 57 - 4 : Int) % 4 = 0 ∧ (2 ^ 57 - 4 : Int) < 2 ^ 57) := by decide

/-- No translation held; an address that nothing maps; a leaf for each clause. -/
theorem test_met_PageChecks :
    (match base.dev.ctxs.get 0 with
      | some c => decide (base.dev.tlbFind (Agent.core 0).tlb 0 0x8000 = none) && (match walkFrom base.dev.mem Part.a064.capacity (2 ^ 30) 4 c.ptroot.toNat with
        | .error k => decide (k = 1)
        | .ok _ => false)
      | none => false) = true ∧
    leafIs 0x1DB (fun e => !e.getLsbD 2) && leafIs 0x1D7 (fun e => !e.getLsbD 3) && leafIs 0x1CF (fun e => !e.getLsbD 4) &&
    leafIs 0x800000000001DF (fun e => e.getLsbD 2 && pteTgt e = 0 && pteOwn e) &&
    leafIs 0x80200000000001DF (fun e => e.getLsbD 2 && pteTgt e = 0 && !pteOwn e && pteCls e = 2 && decide ((Agent.core 0).own ≠ some (pteCore e))) &&
    leafIs 0x1DD (fun e => e.getLsbD 2 && pteTgt e = 0 && !pteOwn e && decide (pteCls e ≠ 2) && !e.getLsbD 1) &&
    leafIs 0x1DF (fun e => e.getLsbD 2 && pteTgt e = 0 && !pteOwn e && decide (pteCls e ≠ 2) && e.getLsbD 1 &&
      channelReady base.plat.ready (pteAddr e + 0x8000)) = true := by
  decide +kernel

theorem test_met_NoLaneNoEffect : view (only 0 base) (fun x => (loadOf x (.ldg fM)).isSome && x.g.inRange (Instr.ldg fM).spans &&
    decide (x.active (predOf (.ldg fM)).1 = 0 ∧ x.active (predOf (.atomg { m := fM, vc := 0, vb := 0 })).1 = 0)) = true := by
  decide +kernel

/-- The state and the instruction meet the hypotheses of a load's completion. -/
def loads (i : Instr) (s : State) : Bool := view s (fun x => x.g.inRange i.spans && decide (x.active (predOf i).1 ≠ 0) &&
  match loadOf x i with
  | some L => passed (L.checks s x) (fun l => l.all (fun p => !(L.touched s x l).poisonRun (Agent.core 0) p.2))
  | none => false)

/-- A dense handle in h1: f32, rank 1, extent 4, at 0x8000. -/
def dense (s : State) : State :=
  grp (fun g => { g with h := SMap.set g.h 1 (BitVec.ofNat 256 (0x8000 + 2 ^ 60 * 7 + 2 ^ 64 * 4)) }) s

theorem test_met_LoadCompletes :
    loads (.ldg { fM with w := .w128, ord := .acq }) (at_ 0x8000 base) && loads (.ldu { fM with w := .w64 }) (at_ 0x8000 base) &&
    loads (.ldfrag { fM with md := 1 }) (at_ 0x8000 base) && loads (.hld { fM with md := 15 }) (at_ 0x8000 base) &&
    loads (.qld fM) (at_ 0x8000 base) &&
    view (dense base) (fun x => (denseOf (x.g.h.get 1)).isSome) = true := by
  decide +kernel

theorem test_met_LoadTraps : view (at_ 0x8001 one) (fun x => match loadOf x (.ldg { fM with w := .w32 }) with
    | some L => (match L.checks (at_ 0x8001 one) x with
      | .trap t => decide (t.code = 0x03)
      | _ => false)
    | none => false) = true := by
  decide +kernel

/-- A modulo descriptor of 64 bytes at offset 32. -/
def modulo (s : State) : State := grp (fun g => { g with wBase := SMap.set g.wBase 0 32, wSize := SMap.set g.wSize 0 64 }) s

theorem test_met_ScratchLoadCompletes :
    view (modulo base) (fun x => decide (x.active .none ≠ 0) &&
      passed (base.dev.spadChecks x 4 (x.spadReqs { fM with w := .w32, off := 127 } 4 (x.active .none))) (fun _ => true) &&
      wValid (base.dev.teamOf x.g) (x.g.wBase.get 0).toNat (x.g.wSize.get 0).toNat &&
      passed (base.dev.spadChecks x 4 (x.moduloReqs { fM with w := .w32 } 32 64 4 (x.active .none))) (fun _ => true) &&
      passed (sumChecks ((lanesOf (x.active .none)).map (fun k => (k, spadRun16 (base.dev.teamOf x.g) 64
        (fragAddr { fM with md := 9 } (x.s 0).toNat (x.s 1).toNat k))))) (fun _ => true)) = true := by
  decide +kernel

theorem test_met_ScratchStoreCompletes :
    view (modulo base) (fun x => !base.dev.writeFull x.g && decide (x.active .none ≠ 0) &&
      passed (base.dev.spadChecks x 16 (x.spadReqs { fM with w := .w128, off := 127 } 16 (x.active .none))) (fun _ => true) &&
      passed (base.dev.spadChecks x 4 (x.moduloReqs { fM with w := .w32 } 32 64 4 (x.active .none))) (fun _ => true)) = true := by
  decide +kernel

/-- The state and the instruction meet the hypotheses of a store's completion. -/
def stores (i : Instr) (s : State) : Bool := view s (fun x => x.g.inRange i.spans && decide (x.active (predOf i).1 ≠ 0) &&
  !s.dev.writeFull x.g && match storeOf x i with
  | some S => passed (S.checks s x) (fun l => decide (l ≠ []))
  | none => false)

theorem test_met_StoreCompletes :
    stores (.stg { fM with w := .w128, ord := .rel }) (at_ 0x8000 base) && stores (.stsc { fM with w := .w64 }) (at_ 0x8000 base) &&
    stores (.tst { fM with w := .w32, md := 1 }) (dense base) && view (at_ 0x8000 base) (fun x => decide (x.g.sealBuf = none)) = true := by
  decide +kernel

/-- Checks that a lane fails, with a code. -/
def trapped {α : Type} (c : Checked α) (code : Nat) : Bool := match c with
  | .trap t => decide (t.code = code)
  | _ => false

/-- A misaligned store, atomic, candidate and scratchpad atomic. -/
theorem test_met_StoreCompletes_traps :
    let s := at_ 0x8001 one
    view s (fun x => (match storeOf x (.stg { fM with w := .w32 }) with
        | some S => trapped (S.checks s x) 0x03
        | none => false) && x.g.inRange (Instr.stg { fM with w := .w32 }).spans && decide (x.active .none ≠ 0 ∧ x.g.sealBuf = none) &&
      trapped (sumChecks ((x.globalReqs { fM with w := .w32 } 4 (x.active .none)).map (fun p =>
        (p.1, s.dev.laneRun s.env x.g.ctx (Agent.core 0) .atomic (linkAtomic 0) 4 4 p.2)))) 0x03 &&
      trapped (sumChecks ((x.globalReqs fM 16 (x.active .none)).map (fun p =>
        (p.1, s.dev.laneRun s.env x.g.ctx (Agent.core 0) .atomic false 16 16 p.2)))) 0x03 &&
      trapped (s.dev.spadChecks x 4 (x.spadReqs { fM with w := .w32 } 4 (x.active .none))) 0x03) = true := by
  decide +kernel

theorem test_met_SealedStoreBuffers :
    let s := sealed (at_ 0x8000 one)
    stores (.stg fM) s && view s (fun x => match storeOf x (.stg fM), x.g.sealBuf with
      | some S, some b => passed (S.checks s x) (fun l =>
          let b' := (bufferStores b (l.map (fun p => (p.2.1, p.2.2.2)))).notePages (Agent.core s.cur.core) x.g.ctx S.ord S.scope (l.map (fun p => p.2.1))
          decide (b'.units ≤ sealLimit) && decide (s.dev.sealUsed 0 + (b'.units - b.units) ≤ sealUnits))
      | _, _ => false) = true := by
  decide +kernel

/-- Format MI with its fields at zero. -/
def fMI : FmtMI := { m := fM, vc := 0, vb := 0 }

theorem test_met_AtomicCompletes :
    view (at_ 0x8000 base) (fun x => decide (x.active .none ≠ 0 ∧ x.g.sealBuf = none) && !base.dev.writeFull x.g &&
      passed (sumChecks ((x.globalReqs { fM with w := .w64 } 8 (x.active .none)).map (fun p =>
        (p.1, base.dev.laneRun base.env x.g.ctx (Agent.core 0) .atomic (linkAtomic 0) 8 8 p.2)))) (fun l =>
          l.all (fun p => !(base.dev.leaveL1 (Agent.core 0) x.g.ctx l).poisonRun (Agent.core 0) p.2)) &&
      x.g.inRange (Instr.atomg { fMI with m := { fM with w := .w64 } }).spans && x.g.inRange (Instr.redg fMI).spans) = true := by
  decide +kernel

theorem test_met_AtomicValues : (0xFFFFFFFF : Nat) < 2 ^ (8 * 4) ∧ (2 ^ 64 - 1 : Nat) < 2 ^ (8 * 8) := by decide

/-- Numbers in memory and beside it, in f32: ABSENT, a NaN, two that compare; ABSENT in i32. -/
theorem test_met_AtomicValues_numbers :
    (match Ty.f32.absentCode with
      | some a => decide (Ty.f32.value a = .absent)
      | none => false) && decide (Ty.f32.value 0x7FC00000 = .nan) && (Ty.f32.value 0x3F800000).lt (Ty.f32.value 0x40000000) &&
      decide (Ty.f32.value 0x3F800000 ≠ .absent ∧ Ty.f32.value 0x40000000 ≠ .absent ∧ (0x80000000 : Nat) < 2 ^ 32) = true := by
  decide +kernel

/-- 1.0 + 2.0, the lesser and the greater of them, and an i32 sum that saturates. -/
theorem test_atomic_numbers :
    atomicOp 1 4 0x3F800000 0x40000000 0 = 0x40400000 ∧ atomicOp 4 4 0x3F800000 0x40000000 0 = 0x3F800000 ∧
      atomicOp 7 4 0x3F800000 0x40000000 0 = 0x40000000 ∧ atomicOp 14 4 0x7FFFFFFF 1 0 = 0x7FFFFFFF := by
  decide +kernel

theorem test_met_ScratchAtomicCompletes :
    view (at_ 0x100 base) (fun x => !base.dev.writeFull x.g && decide (x.active .none ≠ 0 ∧ x.g.sealBuf = none) &&
      x.g.inRange (Instr.atoms { fMI with m := { fM with w := .w32 } }).spans &&
      passed (base.dev.spadChecks x 4 (x.spadReqs { fM with w := .w32, off := 100 } 4 (x.active .none))) (fun _ => true) &&
      x.g.inRange (Instr.bestmax fM).spans &&
      passed (sumChecks ((x.globalReqs fM 16 (x.active .none)).map (fun p =>
        (p.1, base.dev.laneRun base.env x.g.ctx (Agent.core 0) .atomic false 16 16 p.2)))) (fun l =>
          l.all (fun p => !(base.dev.leaveL1 (Agent.core 0) x.g.ctx l).poisonRun (Agent.core 0) p.2))) = true := by
  decide +kernel

/-- A cell above the one in memory, one below it, a NaN, and an ABSENT score (its code in f32). -/
theorem test_met_IncumbentCell :
    beats 0x40000000 0x3F800000 = true ∧ beats 0x3F800000 0x3F800000 = false ∧ Ty.f32.value 0x7FC00000 = .nan ∧
      (match Ty.f32.absentCode with
        | some a => decide (Ty.f32.value a = .absent ∧ (Ty.f32.value 0).present = true ∧ Ty.f32.value 0 ≠ .nan)
        | none => false) = true := by
  decide +kernel

/-- A pool of 8 cells of 128 bytes at 0x8000 with its map at 0x9000. -/
def pool128 : Pool := { base := 0x8000, count := 8, map := 0x9000, csz := 0, defd := true, bump := 1, free := 0, live := 0, gen := 0 }
/-- Region 5 in pool 1: raw values of 4 bytes, rank 3, 8 bits per coordinate; h1 names it. -/
def region5 (s : State) : State :=
  grp (fun g => { g with h := SMap.set g.h 1 (BitVec.ofNat 256 (2 ^ 57 + 5)) })
    (ctx0 (fun c => { c with pools := c.pools.set 1 pool128, combs := c.combs.set 5 { config := 0x01030208, nent := 0, root := 0 } }) s)

/-- Through h1, whose region holds nothing; a lane of CITER that has ended. -/
theorem test_met_CombCompletes :
    let s := region5 one
    let over_ := vregs [(2, 1)] s
    view s (fun x => (match s.dev.target x 1 .w32 ((lanesOf (x.active .none)).map (x.coord fM)) with
        | .comb g =>
          okay (eachLane (fun d (k : Nat) => asLane g (d.combGet s.env x.g.ctx g k))
            ((lanesOf (x.active .none)).map (fun l => (l, g.key (x.coord fM l)))) s.dev) (fun r => decide (r.2.2 = [])) &&
          okay (eachLane (fun d (p : Nat × Nat) => asLane g ((d.combStore s.env x.g.ctx g p.1 p.2).map (fun d => (d, ()))))
            ((lanesOf (x.active .none)).map (fun l => (l, g.key (x.coord fM l), 7))) s.dev) (fun r => decide (r.2.2 = [])) &&
          okay (eachLane (fun d (k : Nat) => asLane g (d.combSeek s.env x.g.ctx g k))
            ((lanesOf (x.active .none)).map (fun l => (l, (x.g.vpair 0 l).toNat))) s.dev) (fun r => decide (r.2.2 = []))
        | _ => false) && (s.dev.combOf x 1).isSome && x.g.inRange (Instr.citer { fMI with m := { fM with md := 1 } }).spans) &&
    view over_ (fun x => (x.v 2 0).getLsbD 0) = true := by
  decide +kernel

/-- A handle whose FMT is 0xF, a coordinate outside, and a region that is not defined. -/
theorem test_met_HandleBounds :
    let s (h : Nat) := grp (fun g => { g with h := SMap.set g.h 1 (BitVec.ofNat 256 h) }) base
    view (s (2 ^ 60 * 15)) (fun x => base.dev.target x 1 .w32 ((lanesOf (x.active .none)).map (x.coord fM)) = .bad) &&
    view (vregs [(0, 4)] (dense base)) (fun x => base.dev.target x 1 .w32 ((lanesOf (x.active .none)).map (x.coord fM)) = .bad) &&
    view (s (2 ^ 57 + 6)) (fun x => decide (base.dev.combOf x 1 = none ∧ x.active .none ≠ 0)) = true := by
  decide +kernel

theorem test_met_FenceCacheDiscard :
    view (at_ 0x8000 base) (fun x => decide (x.active .none ≠ 0) && x.g.inRange (Instr.fence fM).spans && x.g.inRange (Instr.cache fM).spans &&
      x.g.inRange (Instr.disc fM).spans && decide (x.g.sealBuf = none) && !base.dev.writeFull x.g &&
      passed (sumChecks ((x.globalReqs fM 1 (x.active .none)).map (fun p =>
        (p.1, base.dev.laneRun base.env x.g.ctx (Agent.core 0) .store false 4096 4096 p.2)))) (fun l => decide (l ≠ [])) &&
      (x.globalReqs fM 1 (x.active .none)).all (fun p => match base.dev.laneRun base.env x.g.ctx (Agent.core 0) .load true 1 1 p.2 with
        | .error .channel => false
        | _ => true)) = true := by
  decide +kernel

/-- No lane active, with barrier 0 present. -/
theorem test_met_FenceCacheDiscard_none :
    let s := only 0 (dev (fun d => { d with teams := d.teams.upd 0 (fun t => { t with bars := [Barrier.blank] }) }) base)
    view s (fun x =>
      decide (Sys2Proof.Spec.maskOf (.ldg fM) = some (.none, 8) ∧ Sys2Proof.Spec.maskOf (.atomg fMI) = some (.none, 12) ∧
        Sys2Proof.Spec.barOf (.barWait fT) = some 0 ∧ x.active .none = 0 ∧
        0 < (s.dev.teamOf x.g).bars.length) && x.g.inRange (Instr.ldg fM).spans && x.g.inRange (Instr.atomg fMI).spans &&
      x.g.inRange (Instr.barWait fT).spans) = true := by
  decide +kernel

theorem test_met_SealedRefusals :
    view (sealed (grp (fun g => { g with h := SMap.set g.h 1 (BitVec.ofNat 256 (2 ^ 57)) }) base)) (fun x =>
      x.g.sealBuf.isSome && decide (x.active .none ≠ 0) && (x.g.h.get 1).getLsbD 57) = true := by
  decide +kernel

/-! ### Witnesses: tasks, futures and swarms -/

/-- Format T with its fields at zero but for the lanes' futures in v10, values in v14, handle 1, and scalars of its own. -/
def fTF : FmtT := { fT with va := 10, vb := 14, md := 1, sd := 20 }
/-- Lane 0 alone, its future at 0x8000 in a state of a word. -/
def future (st : Nat) : State := vregs [(10, 0x8000)] (bytes 0x8008 (natToBytes 8 (st * 2 ^ 61)) one)
/-- Pool 0 with 8 cells at 0xA000. -/
def pool0 : Pool :=
  { base := 0xA000, count := 8, map := 0xB000, csz := 0, defd := true, bump := 2, free := 0, live := 1, gen := 0 }
/-- With pool 0, whose cell 1 is in use for a record with JOIN 1. -/
def withPool0 (s : State) : State :=
  ctx0 (fun c => { c with pools := c.pools.set 0 pool0 }) (bytes 0xA060 [0, 0, 1] (bytes 0xB000 [2] s))

/-- FNEW of a fresh cell, FRES and FCAN of a pending future, FREG on one with a parked cell. -/
theorem test_met_FutureWritesComplete :
    let s := withPool0 (vregs [(14, 1)] (future 1))
    let ag := Agent.core 0
    view s (fun x => decide (x.g.sealBuf = none ∧ x.active .none ≠ 0 ∧ (s.dev.pool x.g.ctx 0).defd = true) &&
      passed (futChecks s.dev s x fTF) (fun l =>
        okay (eachLane (fun d p => laneOf (d.futNew s.env s.cur x.g fTF p.2)) (futOrder s x fTF) (futTouched s.dev s x l))
          (fun r => decide (r.2.2 = [])) &&
        okay (eachLane (fun d p => laneOf (d.futCancel s.env ag x.g.ctx p.2)) (futOrder s x fTF) (futTouched s.dev s x l))
          (fun r => decide (r.2.2 = [])) &&
        (lanesOf (x.active .none)).all (fun k => decide (1 ≤ (x.v 14 k).toNat ∧ (x.v 14 k).toNat < (s.dev.pool x.g.ctx 0).count)) &&
        okay (eachLane (fun d p => laneOf (d.register s.env x.g.ctx ag p.2 (x.v 14 p.1).toNat)) (futOrder s x fTF)
          (futTouched s.dev s x l)) (fun r => decide (r.2.2 = []))) &&
      passed (futChecks (s.dev.order 0 .rel .dev) s x fTF) (fun l =>
        okay (eachLane (fun d p => laneOf (d.resolve s.env ag x.g p.2 (x.g.vpair 14 p.1))) (futOrder s x fTF)
          (futTouched (s.dev.order 0 .rel .dev) s x l)) (fun r => decide (r.2.2 = []) && r.2.1.all (fun p => decide (p.2.1 ≠ 1)))) &&
      x.g.inRange (Instr.fnew fTF).spans && x.g.inRange (Instr.fres fTF).spans && x.g.inRange (Instr.fcan fTF).spans &&
      x.g.inRange (Instr.freg fTF).spans) = true := by
  decide +kernel

/-- With group 99's last writes not performed, and the stamp of the future at 0x8000 among them. -/
def lateBy (s : State) : State :=
  dev (fun d => { d with drains := [(99, { issued := 9, core := 1, done := 1, launch := none })]
                         futStamps := [{ ctx := 0, home := spaceKey .dev 0x8000, stamp := { guid := 99, count := 5 } }] }) s

/-- A future that has settled, its stamp performed or not; a future that has not, with pool 0 for its wake reference; a split that
waits for a stamp that is performed, and for one that is not. -/
theorem test_met_FutureReadsComplete :
    let reports (s : State) (p : Device → List (Nat × W64 × Fut) → Bool) : Bool := view s (fun x =>
      decide (x.g.sealBuf = none ∧ x.active .none ≠ 0) && passed (futChecks s.dev s x fTF) (fun l =>
        okay (eachLane (futReport s.env s.cur.core x) (futOrder s x fTF) (futTouched s.dev s x l)) (fun r =>
          decide (r.2.2 = []) && p r.1 r.2.1)))
    let w := withPool0 (future 1)
    reports (future 2) (fun d bs => bs.all (fun p => !p.2.2.unsettled) && decide (d.lateStamps (future 2).env 0 0 (bs.map Prod.snd) = [])) &&
    reports (lateBy (future 2)) (fun d bs => bs.all (fun p => !p.2.2.unsettled) && (d.groups.get 0).isSome &&
      decide (d.lateStamps (lateBy (future 2)).env 0 0 (bs.map Prod.snd) ≠ [])) &&
    ([5, 1] : List W32).all (fun n =>
      let w : DrainWait := { stamps := [{ guid := 99, count := n }], acquire := true, s := [], v := [(14, 0, 7)] }
      let s := spl (fun sp => { sp with park := .drain w }) (lateBy base)
      group0 s (fun g => (g.splitAt 0).any (fun sp => decide (sp.park = .drain w ∧ sp.low = 0))) &&
        decide ((s.dev.unreached w.stamps = []) = (n = 1))) &&
    reports w (fun d bs => bs.any (fun p => p.2.2.unsettled) && view w (fun x =>
      let pend := ((bs.filter (fun p => p.2.2.unsettled)).map (fun p => p.2.1)).dedup
      okay (lendAll w.env w.cur.key d x pend) (fun d1 =>
        okay (eachLane (fun d a => laneOf (d.wakeOn w.env w.cur x.g.ctx (w.tick % 65536) a))
          (pend.map (fun a => (((bs.find? (fun p => p.2.1 = a)).map Prod.fst).getD 0, a))) d1) (fun r =>
            decide (r.2.2 = []) && (r.1.groups.get w.cur.key).isSome)))) = true := by
  decide +kernel

/-- Records of zeros at 0x8000, and one with JOIN 1; pool 0 with a free cell and without one. -/
theorem test_met_SpawnsComplete :
    let s := withPool0 (sregs [(0, 0x8000)] (vregs [(10, 0x8000)] one))
    let j := bytes 0x8022 [1] s
    let recOf (s : State) (p : View → RecRead → Bool) : Bool := view s (fun x =>
      okay (s.dev.readRecord s.env 0 x.g false (x.pair 0)) (fun q => p x q))
    let reached (s : State) (r : Bool) : Bool := view s (fun x => s.dev.reached { guid := x.g.guid, count := x.g.writes } = r)
    view s (fun x => decide (x.g.sealBuf = none ∧ x.active .none ≠ 0) && x.g.inRange (Instr.spawn fTF).spans &&
      passed (sumChecks ((lanesOf (x.active .none)).map (fun k => (k, s.dev.readRecord s.env 0 x.g false (x.g.vpair 10 k))))) (fun l =>
        let recs := l.map (fun p => (p.1, { p.2.task with stamp := x.g.writes, stampOf := x.g.guid }))
        okay (eachLane (fun d (t : TaskRec) => laneOf (d.place s.env 0 x.g.ctx t)) (anyOrder s.tick recs)
          ((l.foldl (fun d p => d.descTouch 0 x.g.ctx p.2.run) s.dev).order 0 .rel .dev)) (fun r =>
            decide (r.2.2 = []) && recs.all (fun p => (maskOfLanes ((r.2.1.filter (fun p => p.2)).map Prod.fst)).getLsbD p.1)))) &&
    reached s true && reached (dev (fun d => { d with drains := [(0, { issued := 3, core := 0, done := 0, launch := none })] })
      (grp (fun g => { g with writes := 3 }) s)) false &&
    recOf s (fun x q => decide (q.task.join = 0) && okay (((s.dev.descTouch 0 x.g.ctx q.run).order 0 .rel .dev).place s.env 0 x.g.ctx
      { q.task with stamp := x.g.writes, stampOf := x.g.guid }) (fun r => r.2)) &&
    recOf j (fun x q => decide (q.task.join ≠ 0) && okay (((j.dev.descTouch 0 x.g.ctx q.run).order 0 .rel .dev).parkRecord j.env 0 x.g.ctx q)
      (fun r => r.2.isSome)) &&
    (let n := bytes 0x8022 [1] (sregs [(0, 0x8000)] one)
     recOf n (fun x q => decide (q.task.join ≠ 0) && okay (((n.dev.descTouch 0 x.g.ctx q.run).order 0 .rel .dev).parkRecord n.env 0 x.g.ctx q)
      (fun r => r.2.isNone))) = true := by
  decide +kernel

/-- Swarm 7 in a state, with an expiry continuation or none. -/
def swarm7 (st : SwarmState) (s : State) : State :=
  ctx0 (fun c => { c with swarms := c.swarms.set 7 { Swarm.ofDesc 0 0 with st } }) s

/-- SWNEW with a descriptor it accepts and one whose parent does not exist; swarm 7 LIVE, CLOSED and absent. -/
theorem test_met_SwarmsComplete :
    let s := sregs [(0, 0x8000)] base
    let enters (s : State) (p : Swarm → Bool) : Bool := view s (fun x => x.g.inRange (Instr.swnew fTF).spans &&
      okay (s.dev.descRun s.env 0 x.g 32 32 (x.pair 0)) (fun r =>
        p (Swarm.ofDesc ((bytesToWords r.2).getD 1 0) ((bytesToWords r.2).getD 2 0)) && decide ((bytesToWords r.2).getD 0 0 = 0) &&
        (((s.dev.descTouch 0 x.g.ctx r.1).ctxs.get 0).bind Ctx.nextSwarm).isSome))
    let named (st : SwarmState) (p : State → View → Swarm → Bool) : Bool :=
      let t := swarm7 st (sregs [(0, 7)] base)
      view t (fun x => match t.dev.namedSwarm x.g.ctx (x.s 0) with
        | some (7, w) => p t x w
        | _ => false)
    let open_ (t : State) (x : View) : Device := t.dev.commit t.cur.key ((x.setS 20 0).next 8)
    enters s (fun w => s.dev.swarmOk 0 w) && enters (bytes 0x8008 [9] s) (fun w => !s.dev.swarmOk 0 w) &&
    (let t := bytes 0x8001 [0x81] s
     view t (fun x => okay (t.dev.descRun t.env 0 x.g 32 32 (x.pair 0)) (fun r =>
      let d := t.dev.descTouch 0 x.g.ctx r.1
      decide ((bytesToWords r.2).getD 0 0 = 0x8100) && okay (d.readRecord t.env 0 x.g false 0x8100) (fun q =>
        okay ((d.descTouch 0 x.g.ctx q.run).claimResult t.env 0 x.g.ctx q.task) (fun d1 =>
          ((d1.ctxs.get x.g.ctx).bind Ctx.nextSwarm).isSome))))) &&
    view s (fun x => decide (s.dev.namedSwarm x.g.ctx (x.s 0) = none ∧ (Instr.swcan fTF).spans = [])) &&
    named .cancelled (fun _ _ w => decide (w.st ≠ .live ∧ w.st ≠ .closed)) &&
    named .live (fun t x w => decide (w.st = .live) && ((open_ t x).groups.get t.cur.key).isSome &&
      okay ((open_ t x).cancelSwarm t.env 0 7 0) (fun d => (d.groups.get t.cur.key).isSome) &&
      okay (((open_ t x).updSwarm 0 7 (fun w => { w with st := .closed, expiry := none })).queueContinuation t.env 0 7 w 2)
        (fun d => (d.groups.get t.cur.key).isSome)) &&
    named .closed (fun t x _ => okay ((open_ t x).cancelSwarm t.env 0 7 0) (fun d => (d.groups.get t.cur.key).isSome)) = true := by
  decide +kernel

/-! ### Witnesses: barriers, copies, engines, queues, pools, streams, signals -/

/-- A team with one barrier of count 2. -/
def barred (b : Barrier) (s : State) : State :=
  dev (fun d => { d with teams := d.teams.upd 0 (fun t => { t with bars := [b] }) }) s

/-- Barrier 0 not yet open, open, and poisoned; tokens before and after its phase. -/
theorem test_met_BarriersComplete :
    let f : FmtT := { fT with sd := 20 }
    let o := barred (Barrier.open_ 2) (sregs [(0, 2)] base)
    view o (fun x => decide (0 < (o.dev.teamOf x.g).bars.length) && countOk (x.s 0) && countOk 1 &&
      (match (o.dev.teamOf x.g).bars.getD 0 Barrier.blank with
        | b => b.init && !b.poison && decide (b.phase ≠ x.s 0) && decide (b.phase = x.s 3) &&
          okay ((o.dev.putGroup o.cur.key (((x.setS f.sd.toNat b.phase).next 8).g.put x.sp.low [((x.setS f.sd.toNat b.phase).next 8).sp])).arriveBar
            o.env x.g.team 0 x.g.gid 1 b) (fun _ => true) &&
          okay ((o.dev.putGroup o.cur.key ((x.next 8).g.put x.sp.low [(x.next 8).sp])).expectBar o.env x.g.team 0 (x.s 0) b) (fun _ => true))) &&
    view (barred { Barrier.blank with poison := true } base) (fun x =>
      ((barred { Barrier.blank with poison := true } base).dev.teamOf x.g).bars.any (fun b => b.poison)) = true := by
  decide +kernel

/-- A CPY descriptor of 16 bytes from 0x8000 to 0x9000; a CPYDN one of one element to 0x9000; a DYNS one of one body. -/
def cpyBytes : List Byte := wordsToBytes [0x8000, 0x9000, 0x100000001, 0x400000001, 0, 0, 0, 0]
/-- The CPYDN descriptor. -/
def dnBytes : List Byte := wordsToBytes [0x9000, 0, 0, 0, 0, 0, 0x100000001, 0x100000001]
/-- The DYNS descriptor. -/
def dynsBytes : List Byte := wordsToBytes [0x8000, 0, 0, 0, 1, 0, 0, 0]

/-- A CPY, a CPYDN and a DYNS that pass their checks; a COLQ on region 5 whose futures do. -/
theorem test_met_EngineIssuesComplete :
    let s (l : List Byte) := region5 (bytes 0x10400 l (sregs [(0, 0x10400)] (vregs [(10, 0x8000)] one)))
    let read (l : List Byte) (p : State → View → Device → List W64 → Bool) : Bool := view (s l) (fun x =>
      decide (x.g.sealBuf = none ∧ x.active .none ≠ 0) && okay ((s l).dev.descRun (s l).env 0 x.g 64 64 (x.pair 0)) (fun r =>
        p (s l) x ((s l).dev.descTouch 0 x.g.ctx r.1) (bytesToWords r.2)))
    let copies (s : State) (x : View) (d : Device) (ws : List W64) (kind : CopyKind) : Bool :=
      let c : Copy := { id := d.nextId, ctx := x.g.ctx, team := some x.g.team, launch := (d.teamOf x.g).launch
                        swarm := x.g.swarm, kind, raw := ws, stamp := some { guid := x.g.guid, count := x.g.writes }, src := none }
      decide (c.shape.1 ≠ 0) && decide ((d.copiesOn 0).length < 512) &&
        okay ((d.order 0 .rel .dev).claimCopy s.env 0 c) (fun _ => true)
    read cpyBytes (fun s x d ws => decide (cpyCheck (d.teamOf x.g) x.g.task.isSome ws (CpyDesc.ofWords ws) = none) &&
      okay (d.resultOk s.env 0 x.g.ctx (CpyDesc.ofWords ws).fut) (fun _ => true) && copies s x d ws (.cpy (CpyDesc.ofWords ws))) &&
    read dnBytes (fun s x d ws => match d.combOf x 1 with
      | some g =>
          let k := DnDesc.ofWords g.id (d.comb x.g.ctx g.id).config ws
          decide (dnCheck (d.teamOf x.g) x.g.task.isSome ws g k = none) && okay (d.resultOk s.env 0 x.g.ctx k.fut) (fun _ => true) &&
          copies s x d ws (.dn k)
      | none => false) &&
    read dynsBytes (fun s x d ws => decide (dynsCheck ws = none) && decide ((d.entriesOn (engineKey 0 .dyn)).length < 64) &&
      okay (d.resultOk s.env 0 x.g.ctx (DynsWork.ofWords ws).fut) (fun _ => true) &&
      d.engineTurn s.cur.key x.g .dyn (x.sp.queued.getD s.tick)) &&
    read [] (fun s x d _ => match s.dev.combOf x 1 with
      | some g => decide (g.rank = 3 ∧ g.e ≤ 10) &&
          (lanesOf (x.active .none)).all (fun k => decide (max (x.voxel fTF k).1 (max (x.voxel fTF k).2.1 (x.voxel fTF k).2.2) < 2 ^ g.e)) &&
          passed (sumChecks ((lanesOf (x.active .none)).map (fun k => (k, s.dev.futRun s.env 0 x.g.ctx (x.g.vpair 10 k))))) (fun _ => true) &&
          decide ((s.dev.entriesOn (engineKey 0 .col)).length < 64) && s.dev.engineTurn s.cur.key x.g .col (x.sp.queued.getD s.tick) &&
          (let bad := dev (fun d => { d with poison := SMap.set d.poison 0x800 0xFFFF }) s
           [(s, true), (bad, false)].all (fun p => okay (eachLane (fun d a => laneOf ((d.futClaim p.1.env x.g.ctx (Agent.core 0) a
             (engineTag .col 0) x.g.swarm).map (fun d => (d, ())))) [(0, (0x8000 : W64))] (p.1.dev.order 0 .rel .dev)) (fun r =>
               r.2.2.isEmpty = p.2 && (worstTrap r.2.2).isNone = p.2 && (r.1.groups.get 0).any (fun g => !g.inHandler))))
      | none => false && d.l1.isEmpty) = true := by
  decide +kernel

/-- Gather queue 1 of core 0: rows of 64 bytes of i8, two tiles deep, some of them entered. -/
def gathered (tiles : List Tile) (s : State) : State :=
  dev (fun d => { d with gqs := d.gqs.set (gqKey 0 1) { GQueue.ofConfig 0 0x205 with tiles } }) s
/-- A row. -/
def row : GqRow := { bytes := List.replicate 64 1, tag := 5, fut := false, stamp := { guid := 32, count := 0 }, time := 0 }

theorem test_met_GatherCompletes :
    let s := gathered [] (vregs [(10, 0x8000)] base)
    let t := gathered [{ rows := [row], ready := true }] base
    view s (fun x => decide (x.g.sealBuf = none ∧ x.active .none ≠ 0 ∧ x.sp.e = laneMask x.g.width) &&
      x.g.inRange (Instr.gqcfg fTF).spans && x.g.inRange (Instr.gqflush fTF).spans && x.g.inRange (Instr.gqpop fTF).spans &&
      (s.dev.gqOf 0 1 x.g.ctx).isSome) &&
    view (only 1 s) (fun x => x.g.inRange (Instr.gqpush fTF).spans &&
      passed (sumChecks ((lanesOf (x.active .none)).map (fun k => (k, s.dev.rowRead s.env 0 x fTF 64 k)))) (fun l =>
        okay ((l.foldl (fun d p => d.descTouch 0 x.g.ctx p.2.1) s.dev).pushRows s.env 0 1 x.g.swarm (l.map (fun p => (p.1, row))))
          (fun r => decide (r.2 = [])))) &&
    view t (fun x => match t.dev.gqOf 0 1 x.g.ctx with
      | some c => decide (fTF.va.toNat + 4 * c.nk ≤ 320 ∧ fTF.va.toNat + 4 * c.nk ≤ x.g.nreg ∧ x.sp.e ≠ 0) &&
          decide (t.dev.popperTiles 0 1 < (readyTiles (t.dev.popperTiles 0 1 + 1) c.tiles).length) &&
          okay (t.dev.takeTiles t.env 0 1 t.cur.key x.g (t.dev.popperTiles 0 1)) (fun r => decide (r.1.lateRows r.2 = []))
      | none => false) &&
    (match s.dev.gqOf 0 1 0 with
      | some c => decide ((readyTiles (s.dev.popperTiles 0 1 + 1) c.tiles).length ≤ s.dev.popperTiles 0 1)
      | none => false) = true := by
  decide +kernel

/-- Pool 2 undefined and defined; its number in s2. -/
theorem test_met_PoolsComplete :
    let f : FmtT := { fTF with sb := 2 }
    let s := bytes 0x10400 (wordsToBytes [0x8000, 8, 0x9000, 0]) (sregs [(0, 0x10400), (2, 2)] one)
    let t := vregs [(10, 0x8000)] (bytes 0x9000 [1] (ctx0 (fun c => { c with pools := c.pools.set 2 { pool128 with live := 1 } }) s))
    view s (fun x => decide (x.g.sealBuf = none ∧ x.active .none ≠ 0 ∧ (x.s 2).toNat < 64 ∧ (x.s 2).toNat ≠ 0) &&
      x.g.inRange (Instr.pdef f).spans && x.g.inRange (Instr.preset f).spans && x.g.inRange (Instr.regdef f).spans &&
      okay (s.dev.descRun s.env 0 x.g 32 32 (x.pair 0)) (fun _ => true)) &&
    view t (fun x =>
      let p := t.dev.pool x.g.ctx 2
      p.defd && decide ((lanesOf (x.active .none)).length ≤ p.count - p.live) && x.g.inRange (Instr.palloc f).spans &&
      okay (eachLane (fun d (_ : Unit) => laneOf (d.allocLane t.env x.g.ctx 2 true)) ((lanesOf (x.active .none)).map (fun l => (l, ())))
        (t.dev.order 0 .acq .dev)) (fun r => decide (r.2.2 = [])) &&
      (lanesOf (x.active .none)).all (fun l => (p.index (x.g.vpair 10 l)).isSome) && x.g.inRange (Instr.pfree f).spans &&
      okay (eachLane (fun d (c : Nat) => laneOf ((d.freeLane t.env x.g.ctx 2 false c).map (fun q => (q.1, c, q.2))))
        ((lanesOf (x.active .none)).map (fun l => (l, (p.index (x.g.vpair 10 l)).getD 0))) (t.dev.order 0 .rel .dev)) (fun r =>
          decide (r.2.2 = []) && r.2.1.all (fun q => q.2.2))) = true := by
  decide +kernel

/-- A stream with a ring of 4 entries of 4 bytes at 0x8000. -/
def ring4 : HStream :=
  { ring := 0x8000, log2n := 2, esz := 0, drop := false, rhost := false, whost := false, vec := 0, waddr := 0x9000, ncount := 1
    tus := 1, widx := 0, drops := 0, fresh := 0, first := 0 }
/-- With it as stream 1. -/
def streamed (s : State) : State := ctx0 (fun c => { c with streams := c.streams.set 1 ring4 }) s

theorem test_met_OutputsComplete :
    let s := streamed (vregs [(10, 0x1234)] one)
    let g := sregs [(0, 0x8000), (2, 1)] one
    let m : Monitor := { core := 0, slot := 0, lane := 0, line := 0, hit := false }
    let full := dev (fun d => { d with monitors := List.replicate 32 m }) g
    view s (fun x => decide (x.g.sealBuf = none ∧ x.active .none ≠ 0) && x.g.inRange (Instr.hstw fTF).spans &&
      (match s.dev.stream x.g.ctx 1 with
        | some st => decide (st.esz = fTF.sub.toNat) && (s.dev.streamWaiters x.g.ctx 1).isEmpty &&
            okay (s.dev.streamLanes s.env x.g.ctx 1 ((lanesOf (x.active .none)).map (fun l => (l, x.regBytes 10 l st.size))) 0) (fun r =>
              decide (r.2.1 = []) && okay ((r.1.order 0 .rel .sys).streamPublish s.env x.g.ctx 1) (fun _ => true))
        | none => false)) &&
    view g (fun x => x.g.inRange (Instr.sigdec { fT with sb := 2 }).spans && (match sigdecArgs (x.s 2) false with
        | some (n, _) =>
          passed (sumChecks [(0, g.dev.laneRun g.env x.g.ctx (Agent.core 0) .atomic false 8 8 (x.pair 0).toNat)]) (fun _ => true) &&
            okay ((g.dev.order 0 .rel .sys).signalDec g.env x.g.ctx (Agent.core 0) (x.pair 0) n false false) (fun _ => true)
        | none => false) &&
      okay (g.dev.probeN g.plat g.tick x.g.ctx (Agent.core 0) .load true (x.pair 0) 1) (fun l =>
        let d1 := g.dev.touchAll (Agent.core 0) x.g.ctx .load l
        decide (d1.armed 0 < 32) && (d1.groups.get g.cur.key).isSome) && decide (32 ≤ full.dev.armed 0)) = true := by
  decide +kernel

/-! ### Witnesses: events of splits and groups -/

/-- At core cycle 5,000 and DTIME 5,000. -/
def later (s : State) : State := plat (fun p => { p with cycles := 5000, dtime := 5000 }) s
/-- The one split parked. -/
def parkedAs (p : Park) : State := later (spl (fun sp => { sp with park := p }) base)
/-- A watch monitor of the split, hit. -/
def monitored (s : State) : State :=
  dev (fun d => { d with monitors := [{ core := 0, slot := 0, lane := 0, line := 5, hit := true }] }) s

theorem test_met_SplitEventsComplete :
    let five := later (grp (fun g => { g with splits := (List.range 5).map (fun k =>
      { Split.start (BitVec.ofNat 64 (0x10000 + 256 * k)) (1#96 <<< k) (1#96 <<< k) with eligibleAt := some 0 }) }) base)
    let t := monitored (parkedAs (.watch 20 0))
    let spins (sp : Split → Split) (p : Split → Bool) : Bool := parked (later (spl sp base)) (fun x => p x.sp)
    parked (parkedAs (.yieldAll 0 [0])) (fun x => decide (x.sp.park = .yieldAll 0 [0] ∧ 0 + 64 ≤ (5000 : Nat))) &&
    parked (parkedAs (.yieldUntil 5000)) (fun x => decide (x.sp.park = .yieldUntil 5000)) &&
    parked t (fun x => decide (x.sp.park = .watch 20 0) && (match t.dev.monitorOf { core := 0, slot := 0, lane := 0 } x with
      | some m => m.hit
      | none => false)) &&
    (match five.viewAt 0 0 4 with
      | some x => !x.sp.boosted && !x.sp.isDemoted && five.dev.unwaiting 0 x.g x.sp && x.g.eligible.all (fun sp => decide (sp.low ≠ x.sp.low)) &&
          x.sp.eligibleAt.any (fun c => decide (c + 1024 ≤ five.plat.cycles.toNat)) && decide (0 < x.g.freePlaces)
      | none => false) &&
    spins (fun sp => { sp with spin := { sp.spin with n := 64 } }) (fun sp => decide (64 ≤ sp.spin.n)) &&
    spins (fun sp => { sp with demoted := true, notedHit := true }) (fun sp => sp.demoted && sp.notedHit && decide (sp.demotedAt + 4096 ≤ 5000)) &&
    parked (parkedAs (.barWait fT 0 1000 4000)) (fun x => decide (x.sp.park = .barWait fT 0 1000 4000) &&
      decide ((4000 : W32) ≠ 0 ∧ (1000 : W64).toNat + (4000 : W32).toNat ≤ (5000 : W64).toNat)) = true := by
  decide +kernel

theorem test_met_GroupEventsComplete :
    let s := later (grp (fun g => { g with inflight := [3], cancelPend := true, tvec := 0x20000 }) base)
    let starved := later base
    let spilled := later (spl (fun sp => { sp with spilled := some 4985 }) base)
    let stalled := sealed (spl (fun sp => { sp with park := .stall (.seal 4) }) base)
    group0 starved (fun g => decide (g.boosted = false ∧ g.lastCycle + 2048 ≤ 5000 + 1 ∧ starved.dev.readySplits 0 g ≠ [])) &&
    group0 s (fun g => decide (g.inflight = [3]) &&
      decide (g.cancelPend = true ∧ g.sealBuf = none ∧ g.inHandler = false ∧ g.phase = .live ∧ ∀ t ∈ g.splits, t.inside = false) &&
      (match g.splits.foldr insertSplit [] with
        | sp :: _ => (match (s.dev.disarm { core := 0, slot := 0, lane := 0 } sp.low).raise s.env 0 { g.mergeFlags with cancelPend := false }
            sp.withdrawn { code := 0x0E, lanes := allLanes g.splits } with
          | .ok _ => true
          | .error _ => false)
        | [] => false)) &&
    group0 spilled (fun g => match g.splitAt 0 with
      | some sp => decide (sp.spilled = some (4984 + 1) ∧ 4984 + 16 ≤ (5000 : Nat))
      | none => false) &&
    group0 stalled (fun g => g.sealStalled) &&
    (let l : List W64 := [0x8000, 0x9000]
     ([(fun _ => true, fun _ => false), (fun a => a = 0x8000, fun a => a = 0x8000), (fun a => a = 0x8000, fun _ => false)] :
       List ((W64 → Bool) × (W64 → Bool))).map (fun p => (l.all p.1, l.any p.2)) = [(true, false), (false, true), (false, false)]) = true := by
  decide +kernel

/-- A drain of a group that has gone, and one of group 0's. -/
theorem test_met_WaitEventsComplete :
    let d (guid : Nat) := dev (fun d => { d with drains := [(guid, { issued := 3, core := 1, done := 1, launch := none })] }) base
    let c := later (dev (fun d => { d with msix := { d.msix with icoal := SMap.set d.msix.icoal 4 0x10002, pending := [(4, (1, 1000))] } }) base)
    (match base.dev.ctxs.get 0 with
      | some c => decide (base.dev.tlbFind 7 0 0x8000 = none) && (match base.dev.walk base.plat.ready base.tick Part.a064.capacity 7 0 0x8000 4 c.ptroot.toNat with
          | .ok _ => true
          | .error _ => false)
      | none => false) &&
    !base.dev.absentPage base.env 0 0x8000 &&
    group0 base (fun g => ((d g.guid).dev.drains.get g.guid).isSome && ((d g.guid).dev.groups.find? (fun p => p.2.guid = g.guid)).isSome) &&
    ((d 99).dev.groups.find? (fun p => p.2.guid = 99)).isNone &&
    (match c.dev.msix.pending.get 4 with
      | some (n, t) => decide (n ≠ 0 ∧ c.dev.msix.tus 4 ≠ 0 ∧ t.toNat + 1000 * c.dev.msix.tus 4 ≤ c.plat.dtime.toNat)
      | none => false) = true := by
  decide +kernel

/-! ### Witnesses: events of tasks, swarms, copies and engines -/

/-- A record of zeros that can start: 32 registers. -/
def rec32 : TaskRec := { TaskRec.ofWords [] with code := 0x10000, vregs := 32, lanes := 32 }

theorem test_met_RetriesComplete :
    let spawn := parkedAs (.spawn fTF [(0, rec32)] 0 0 [1])
    let wait := later (spl (fun sp => { sp with park := .fwait fTF true true 0 }) (future 2))
    let out := streamed (parkedAs (.hstw { fTF with ms := .none } [0] 0 1 0))
    let push := gathered [] (parkedAs (.gqpush fTF [(0, row)] 0 1 0 [1]))
    parked spawn (fun x => decide (x.sp.park = .spawn fTF [(0, rec32)] 0 0 [1]) && x.yieldOver spawn.plat.cycles.toNat 0 [1] &&
      (match (anyOrder spawn.tick [(0, rec32)]).foldl (fun (p : Device × List (Nat × TaskRec)) t =>
          match p.1.pushLocal spawn.env 0 (QRec.mk' x.g.ctx t.2 spawn.plat.dtime) with
          | .ok (some d1) => (d1, p.2)
          | _ => (p.1, p.2 ++ [t])) (spawn.dev, []) with
        | (_, []) => true
        | _ => false)) &&
    parked wait (fun x => decide (x.sp.park = .fwait fTF true true 0) &&
      (match fwaitAgain wait.env { core := 0, slot := 0, lane := 0 } wait.dev x fTF true with
        | .done _ sp => decide (sp.park = .running)
        | _ => false)) &&
    parked out (fun x => decide (x.sp.park = .hstw fTF [0] 0 1 0) && (match out.dev.stream x.g.ctx 1 with
      | some st => decide (st.esz = fTF.sub.toNat) && !out.dev.streamFull x.g.ctx 1 st && (out.dev.streamWaiters x.g.ctx 1).all (fun t => decide (0 ≤ t)) &&
          okay (out.dev.streamLanes out.env x.g.ctx 1 [(0, x.regBytes 10 0 st.size)] 0) (fun r =>
            decide (r.2.1 = []) && okay ((r.1.order 0 .rel .sys).streamPublish out.env x.g.ctx 1) (fun _ => true))
      | none => false)) &&
    parked push (fun x => decide (x.sp.park = .gqpush fTF [(0, row)] 0 1 0 [1]) && x.yieldOver push.plat.cycles.toNat 0 [1] && (match push.dev.gqOf 0 1 x.g.ctx with
      | some c => decide (row.bytes.length = 64 * c.nk) && okay (push.dev.pushRows push.env 0 1 x.g.swarm [(0, row)]) (fun r => decide (r.2 = []))
      | none => false)) = true := by
  decide +kernel

/-- A parked record's join, a held record with room on its core and in a backing queue, a LIVE swarm past its deadline, one
cancelling and one closed with nothing of theirs left, a sealed task's record freed, a group at its commit point. -/
theorem test_met_SwarmEventsComplete :
    let j := dev (fun d => { d with joins := [{ ctx := 0, cell := 1, stamp := none }] }) (withPool0 base)
    let h (core : Option Nat) := dev (fun d => { d with heldPush := [{ core, q := QRec.mk' 0 rec32 0, cell := none }] }) base
    let due := later (ctx0 (fun c => { c with swarms := c.swarms.set 7 { Swarm.ofDesc 0 0 with deadline := 4000 } }) base)
    let z := dev (fun d => { d with heldSealed := [{ core := 0, q := QRec.mk' 0 rec32 0, va := 0, freed := true }] }) base
    let ends := sealed (grp (fun g => { g with phase := .committing, splits := [] }) base)
    let cancelled := ctx0 (fun c => { c with swarms := c.swarms.set 7 { Swarm.ofDesc 0 0 with st := .cancelling, root := 7 } }) base
    okay (Device.joinStep { j.dev with joins := [] } j.env { ctx := 0, cell := 1, stamp := none }) (fun _ => true) &&
    okay (({ (h (some 0)).dev with heldPush := [] } : Device).pushLocal (h (some 0)).env 0 (QRec.mk' 0 rec32 0)) Option.isSome &&
    ({ (h none).dev with heldPush := [] } : Device).backingRoom 0 &&
    ({ (h none).dev with heldPush := [] } : Device).ringReady (h none).env 0 &&
    (match due.dev.swarm 0 7 with
      | some w => decide (w.st = .live ∧ due.dev.deadlineOf 0 4097 7 ≠ 0 ∧ due.dev.deadlineOf 0 4097 7 ≤ due.plat.dtime.toNat) &&
          okay (due.dev.cancelSwarm due.env 0 7 1) (fun _ => true)
      | none => false) &&
    (match cancelled.dev.swarm 0 7 with
      | some w => decide (w.st = .cancelling ∧ w.root = 7) && cancelled.dev.quiet 0 (cancelled.dev.treeOf 0 7) &&
          okay (cancelled.dev.endCancel cancelled.env 0 7 w (cancelled.dev.treeOf 0 7)) (fun _ => true)
      | none => false) &&
    (match (swarm7 .closed base).dev.swarm 0 7 with
      | some w => decide (w.st = .closed ∧ (swarm7 .closed base).dev.members 0 7 = 0 ∧ (swarm7 .closed base).dev.hasChild 0 7 = false ∧ w.watch = 0)
      | none => false) &&
    ({ z.dev with heldSealed := [] } : Device).swarmOpen 0 rec32.swarm.toNat &&
    group0 ends (fun g => match g.sealBuf with
      | some b => decide (g.phase = .committing) && okay (ends.dev.commitGroup ends.env 0 g b) (fun _ => true)
      | none => false) = true := by
  decide +kernel

/-- A copy of 16 bytes from 0x8000 to an address, in flight on core 0. -/
def copying (dst : Nat) (s : State) : State :=
  dev (fun d => { d with copies := [(0, [{ id := 5, ctx := 0, team := some 0, launch := none, swarm := 0
                                           kind := .cpy (CpyDesc.ofWords [0x8000, BitVec.ofNat 64 dst, 0x100000001, 0x400000001])
                                           raw := [], stamp := none, src := none }])] }) s
/-- An entry of an engine. -/
def entry (started : Bool) (work : EngineWork) : Entry :=
  { id := 5, ctx := 0, core := 0, swarm := 0, prio := 0, stamp := { guid := 0, count := 0 }, started, work }

theorem test_met_EngineEventsComplete :
    let good := copying 0x9000 base
    let bad := copying (2 ^ 40) base
    let moves (s : State) (p : Copy → Device × Nat × Option Miss → Bool) : Bool := match s.dev.copyOn 0 5 with
      | some c => s.dev.copyReady c && p c (Device.copyMove s.dev s.env 0 c c.shape.1 0 s.dev)
      | none => false
    let q := later (dev (fun d => { d with gqs := d.gqs.set (gqKey 0 1) { GQueue.ofConfig 0 0x3E80205 with tiles := [{ rows := [row], ready := false }] } }) base)
    let pop := gathered [{ rows := [row], ready := true }] (parkedAs (.gqpop fTF))
    let queries := region5 (dev (fun d => { d with entries := [(engineKey 0 .col, [entry false (.colq 5 [{ lane := 0, fut := 0x8000, q := .point (1, 1, 1) }])])] }) base)
    let runs := region5 (dev (fun d => { d with entries := [(engineKey 0 .col, [entry true (.colq 5 [{ lane := 0, fut := 0x8000, q := .point (1, 1, 1) }])])] }) base)
    let steps := dev (fun d => { d with entries := [(engineKey 0 .dyn, [entry true (.dyns (DynsWork.ofWords [0x8000, 0, 0, 0, 1]))])] }) base
    let st := later (ctx0 (fun c => { c with streams := c.streams.set 1 { ring4 with fresh := 1 } }) base)
    moves good (fun c r => r.2.2.isNone && (match r.1.copyDone good.env 0 c 16 with
      | .ok _ => true
      | .error _ => false)) &&
    moves bad (fun c r => match r with
      | (d1, j, some (.fault code det a ts)) => decide (((d1.retouch ts).copyFaulted bad.env 0 c code det a (j * 16)).copiesOn 0 = [])
      | _ => false) &&
    (match q.dev.gqs.get (gqKey 0 1) with
      | some c => (match c.openTile with
        | some { rows := r :: _, .. } => decide (c.tout ≠ 0 ∧ r.time.toNat + c.tout ≤ q.plat.dtime.toNat)
        | _ => false)
      | none => false) &&
    (match pop.dev.popTarget 0 1, pop.dev.gqs.get (gqKey 0 1) with
      | some p, some _ => (match pop.viewAt 0 (p.1 % 48) p.2.2.1.low with
        | some x => decide (x.sp.park = .gqpop fTF) && okay (pop.dev.takeTiles pop.env 0 1 (slotKey 0 (p.1 % 48)) x.g) (fun r => decide (r.1.lateRows r.2 = []))
        | none => false)
      | _, _ => false) &&
    (engineReady queries.plat 0 .col && engineRoom .col (queries.dev.entriesOn (engineKey 0 .col)) &&
      (queries.dev.nextEntry queries.env ((queries.dev.entriesOn (engineKey 0 .col)).filter (fun t => !t.started))).isSome) &&
    (match runs.dev.entryRuns (engineKey 0 .col) 5 with
      | some t => okay (runs.dev.queryDone runs.env 0 t 5 { lane := 0, fut := 0x8000, q := .point (1, 1, 1) }) (fun _ => true)
      | none => false) &&
    (match steps.dev.entryRuns (engineKey 0 .dyn) 5 with
      | some t => okay (steps.dev.dynsBody steps.env 0 t (DynsWork.ofWords [0x8000, 0, 0, 0, 1])) (fun _ => true)
      | none => false) &&
    (match st.dev.stream 0 1 with
      | some r => decide (r.tus ≠ 0 ∧ r.fresh ≠ 0 ∧ r.first.toNat + 1000 * r.tus ≤ st.plat.dtime.toNat)
      | none => false) = true := by
  decide +kernel

/-! ### Witnesses: command queues, placement, management -/

/-- Queue 3 of context 0 with some packets. -/
def cq (pkts : List Packet) : CQueue :=
  { base := 0x8000, log2n := 4, qhost := false, rhost := false, prio := 5, ridxAddr := 0x9000, errVec := 0, ridx := 0, widx := 1
    st := .active, dying := false, lastWait := false, pkts }
/-- With it. -/
def queued (pkts : List Packet) (s : State) : State := ctx0 (fun c => { c with queues := c.queues.set 3 (cq pkts) }) s
/-- A started packet. -/
def pkt (words : List W64) (work : PktWork) : Packet := { n := 0, words, st := .started, work, faulted := false, aborted := false, barrier := false }

/-- Only core 0 has a copy slot, of a package of which one cluster is ready. -/
def oneCopier (s : State) : State :=
  let c : Copy := { id := 5, ctx := 0, team := none, launch := none, swarm := 0, kind := .cpy (CpyDesc.ofWords []), raw := [], stamp := none, src := none }
  dev (fun d => { d with copies := (List.range 7).map (fun k => (k + 1, List.replicate 512 c)) })
    (plat (fun p => { p with ready := 0x80000001FFFFFFFF }) s)

theorem test_met_PacketsComplete :
    let src : Source := { ctx := 0, q := 3, n := 0, node := none }
    let due (s : State) (ws : List W64) (p : State → Device → Packet → Bool) : Bool :=
      let s := queued [pkt ws .begin] s
      match s.dev.duePacket s.tick 0 3 (ofType (pktType ws)) with
      | some (d, k) => p s d k
      | none => false
    let g : Graph := { nodes := 0x8000, nn := 1, maxIter := 0, iter := 1, rearm := false, bad := false, faulted := false, node := [] }
    due base [] (fun _ _ _ => true) &&
    due (bytes 0x8000 (wordsToBytes [0x10000, 0, 32]) base) [1, 0, 0x8000, 0x100010001] (fun s d p =>
      okay (d.startLaunch s.env src (d.capOf 0 3) (p.words.drop 2)) (fun r => match r.2 with
        | .launch _ => true
        | _ => false)) &&
    due base [2, 0, 0x8000, 1] (fun s d p => decide (p.work = .begin) && (d.pushTasks s.env 0 0x8000 1 0).2.2.isNone) &&
    due (oneCopier (bytes 0x10400 cpyBytes base)) [3, 0, 0x10400] (fun s d _ => okay (d.startCopy s.env src 0x10400) (fun r => match r.2 with
      | .copy 0 _ => true
      | _ => false)) &&
    due base [4, 0, 0x8000, 1] (fun s d _ => okay (d.signalDec s.env 0 Agent.cp 0x8000 1 false false) (fun _ => true)) &&
    due base [5] (fun _ _ _ => true) &&
    due base [6, 0, 0x8000, 1] (fun s d _ => okay ((d.setWork 0 3 0 (.graph g)).startIteration s.env 0 3 0) (fun _ => true)) &&
    ([0, 1, 2, 3] : List W64).all (fun op => due base [7, 0, 0x8000, 0x1000, op] (fun s d p => ofRange op.toNat p.words &&
      (match d.rangeLeaves s.plat 0 0x8000 0x9000 with
        | some l => !d.rangeCommits 0 (spansOf 0x8000 0x9000 l) && !d.rangeBehind 0 p &&
          okay (d.rangeAborts s.env 0 (spansOf 0x8000 0x9000 l)) (fun _ => true)
        | none => false))) &&
    due base [8] (fun _ _ p => decide (p.words.getD 2 0 = 0)) &&
    due (bytes 0x10400 (wordsToBytes [0x8000, 4, 0x9000]) base) [8, 0, 0x10400] (fun s d _ => okay (d.cpRead s.env 0 false 0x10400 64) (fun r =>
      !streamBad (bytesToWords r.2) && okay (r.1.streamStore s.env 0 false 0x9000 (natToBytes 16 0)) (fun _ => true))) = true := by
  decide +kernel

theorem test_met_QueueEventsComplete :
    let q := queued [] base
    let node : GNode := { pend := 0, running := true, faulted := false, words := [], work := .none }
    let g : Graph := { nodes := 0x8000, nn := 1, maxIter := 0, iter := 1, rearm := false, bad := false, faulted := false, node := [(0, node)] }
    let at_ (work : PktWork) (ws : List W64) (p : State → Packet → Bool) : Bool :=
      let s := queued [pkt ws work] base
      match s.dev.packet 0 3 0 with
      | some k => decide (k.st = .started ∧ k.work = work) && p s k
      | none => false
    (match q.dev.queue 0 3 with
      | some c => q.plat.ready.getLsbD 63 && decide (c.widx ≤ 16 ∧ 16 ≤ c.ridx + 2 ^ c.log2n) && (q.dev.ctxs.get 0).isSome &&
          decide (c.st = .active ∧ c.dying = false ∧ c.ridx < c.widx) &&
          okay (q.dev.cpRead q.env 0 c.qhost (c.slot c.ridx) 64) (fun r =>
            (match r.1.classBad q.plat 0 (bytesToWords r.2) with
              | some bad => okay (r.1.takePacket q.env 0 3 c (bytesToWords r.2) bad) (fun _ => true)
              | none => false))
      | none => false) &&
    at_ .wait [5, 0, 0x8000, 0, 0] (fun s p => okay (s.dev.load s.plat s.tick 0 Agent.cp false 0x8000 8) (fun r => !r.2.2 && waitHolds p.words (bytesToNat r.2.1))) &&
    at_ .none [] (fun s _ => okay (s.dev.endPacket s.env 0 3 0) (fun _ => true)) &&
    at_ (.launch 9) [1] (fun s _ => s.dev.launchEnded 9 && okay (((s.dev.endLaunch 9).1.updPacket 0 3 0 (fun p => { p with
      work := .none, faulted := p.faulted || (s.dev.endLaunch 9).2 })).endPacket s.env 0 3 0) (fun _ => true)) &&
    at_ (.graph g) [6] (fun s p => match s.dev.workEnded node with
      | some (d1, bad) => okay (d1.endNode s.env 0 3 0 0 g node bad p.aborted) (fun _ => true)
      | none => false) = true := by
  decide +kernel

/-- A kernel whose team needs some registers for one group of 32. -/
def kernel (vregs scratch : Nat) : KDesc := { code := 0x10000, tvec := 0, vregs, scratch, bars := 0, width := 32, idem := false, zsp := false }
/-- A launch of it with one team to place. -/
def launch (kd : KDesc) (prio : Nat) : Launch :=
  { src := { ctx := 0, q := 3, n := 0, node := none }, kd, tdim := 1, prio, grid := (1, 1, 1), seed := 0, args := [], next := 0, again := []
    corePtr := 0, since := 0, faulted := false, abandoned := false }
/-- A launch that waits for room, and a team of one group without scratchpad, whose context has its tables above the save area. -/
def savable : State :=
  ctx0 (fun c => { c with ptroot := 0x20001000 }) <| bytes 0x20001000 (natToBytes 8 0x20002001) <|
  bytes 0x20002000 (natToBytes 8 0x20003001) <| bytes 0x20003000 (natToBytes 8 0x1DF) <| dev (fun d => { d with mem := [] }) <|
  plat (fun p => { p with dtime := 20000 }) (dev (fun d => { d with
    launches := [(1, launch (kernel 32 2049) 40)]
    teams := d.teams.upd 0 (fun t => { t with spSize := 0 }) })
    (grp (fun g => { g with nreg := 1, prio := 0, rng := [] }) base))
/-- Team 0 saved as image 0, with its core again free. -/
def resumable : State :=
  dev (fun d => { d with groups := [], teams := [], launches := [] }) (ctx0 (fun c => { c with
    images := [(0, { id := 0, team := { fetchTeam with spSize := 0 }, aff := none, groups := [Group.fresh 0 0 0 0 32 32 0x10000 32 [] 0 0 0]
                     copies := [], cancel := false, prio := 0, since := 0 })] }) base)

theorem test_met_PlacementCompletes :
    let l := dev (fun d => { d with launches := [(1, launch (kernel 32 0) 5)] }) base
    let r := dev (fun d => { d with local_ := [(0, [QRec.mk' 0 rec32 0])] }) base
    let done := dev (fun d => { d with groups := [] }) base
    let both := dev (fun d => { d with local_ := [(0, [QRec.mk' 0 rec32 0])] }) l
    let large := dev (fun d => { d with local_ := [(0, [QRec.mk' 0 { rec32 with prio := 10, scratch := 2048 } 0])] }) l
    (match l.dev.offered l.plat 0 with
      | some (_, a, _, _) => clusterReady l.plat 0 && !l.dev.savedFirst l.env 0 a.prio && decide (l.dev.recordFor l.plat 0 = none)
      | none => false) &&
    (match both.dev.offered both.plat 0, both.dev.recordFor both.plat 0 with
      | some (_, a, _, _), some (_, q) => !both.dev.savedFirst both.env 0 a.prio && decide (q.r.prio.toNat < a.prio)
      | _, _ => false) &&
    (match large.dev.offered large.plat 0, large.dev.recordFor large.plat 0 with
      | some (_, a, _, _), some (at_, q) => !large.dev.savedFirst large.env 0 a.prio && decide (a.prio ≤ q.r.prio.toNat) &&
          decide (large.dev.popTask large.env 0 0 at_ q = none) && (large.dev.balk large.env 0 at_ q).isSome
      | _, _ => false) &&
    (match r.dev.recordFor r.plat 0 with
      | some (a, q) => clusterReady r.plat 0 && decide (r.dev.offered r.plat 0 = none) && (match r.dev.popTask r.env 0 0 a q with
        | some (.ok _) => true
        | _ => false)
      | none => false) &&
    (done.dev.teams.get 0).isSome && done.dev.teamDone 0 = true := by
  decide +kernel

/-- A victim that can be saved. -/
theorem test_met_PlacementCompletes_preempt :
    (match savable.dev.teams.get 0, topCand (savable.dev.waiting savable.env), savable.dev.ctxs.get 0 with
      | some t, some (_, prio), some c =>
          decide (savable.dev.victim savable.dev.liveTeams = some 0 ∧ savable.dev.roomFor = none ∧ savable.dev.teamPrio 0 + 8 ≤ prio) &&
          (savable.dev.teamGroups 0).all (fun g => decide (g.2.phase ≠ .committing ∧ g.2.sealBuf = none) && g.2.splits.all (fun sp => !sp.inside)) &&
          decide (c.freeImage = some 0 ∧ c.savedGroups + (savable.dev.teamGroups 0).length ≤ 1024) && (savable.dev.saveTeam savable.env 0 0 t c).isSome
      | _, _, _ => false) = true := by
  decide +kernel

/-- A sealed victim that can abort. -/
theorem test_met_PlacementCompletes_sealed :
    let s := sealed savable
    (match topCand (s.dev.waiting s.env), s.dev.teamGroups 0, s.dev.ctxs.get 0 with
      | some (_, prio), (key, g) :: gs, some c =>
          decide (s.dev.victim s.dev.liveTeams = some 0 ∧ s.dev.roomFor = none ∧ s.dev.teamPrio 0 + 8 ≤ prio) &&
          g.sealBuf.isSome && ((key, g) :: gs).all (fun g => decide (g.2.phase ≠ .committing) && g.2.splits.all (fun sp => !sp.inside)) &&
          decide (c.freeImage = some 0 ∧ c.savedGroups + gs.length < 1024) && (match s.dev.teams.get 0 with
            | some t => (s.dev.saveTeam s.env 0 0 t c).isSome
            | none => false) && okay (s.dev.saveSealed s.env 0 key g) (fun _ => true)
      | _, _, _ => false) = true := by
  decide +kernel

/-- A saved team that can resume. -/
theorem test_met_PlacementCompletes_resume :
    (match resumable.dev.ctxs.get 0 with
      | some c => (match c.images.get 0 with
        | some saved =>
          let i := resumable.dev.imageNow resumable.env 0 0 c saved
          decide (resumable.dev.resumeCore resumable.plat 0 i = some 0 ∧ resumable.dev.savedPrio resumable.env 0 = some i.prio ∧
            resumable.dev.offered resumable.plat 0 = none ∧ resumable.dev.recordFor resumable.plat 0 = none) && (match resumable.dev.fit 0 0 i.demand with
          | some places => okay (resumable.dev.resumeTeam resumable.env 0 0 0 c i places) (fun _ => true)
          | none => false)
        | none => false)
      | none => false) = true := by
  decide +kernel

/-- Descriptors of a context and of a queue at MADDR; context 0 with no queue, with queue 3, and dying. -/
theorem test_met_ManagementCompletes :
    let m (ws : List W64) := bytes 0x10400 (wordsToBytes ws) (plat (fun p => { p with maddr := 0x10400 }) base)
    let c := m [0x1000, 0x800000, 0x400000, 256, 0, 0x10000000, 0, 0]
    let q := m [0x8000, 4, 0x9000, 0, 0, 0, 0, 0]
    let dying := ctx0 (fun x => { x with queues := x.queues.set 3 { cq [] with dying := true } }) base
    (!base.plat.busy && !base.plat.inReset && base.plat.ready.getLsbD 63) &&
    (match c.dev.freeCtx, c.descriptor with
      | some 1, some l => ctxOk c.plat.part.capacity l && !c.descriptorWaits
      | _, _ => false) &&
    (match q.descriptor with
      | some l => queueOk l && !q.descriptorWaits && (q.dev.ctxs.get 0).isSome && decide (q.dev.queue 0 3 = none)
      | none => false) &&
    decide (base.dev.ctxs.get 15 = none ∧ base.dev.queue 0 3 = none) && ((queued [] base).dev.queue 0 3).isSome &&
    (match base.dev.ctxs.get 0 with
      | some c => decide (c.queues = [])
      | none => false) &&
    (match dying.dev.queue 0 3 with
      | some c => decide (c.dying = true ∧ c.pkts = [])
      | none => false) = true := by
  decide +kernel

/-- A descriptor on a channel that has not risen. -/
theorem test_met_ManagementCompletes_waits :
    (plat (fun p => { p with maddr := 0x10400, ready := 0x8000000000000000 }) base).descriptorWaits = true := by
  have h : ∀ k, k < 32 → (0x8000000000000000#64).getLsbD k = false := by decide
  have hc : channelReady 0x8000000000000000#64 0x10400 = false := by
    unfold channelReady
    rw [h _ (Nat.mod_lt _ (by decide))]
    decide
  have hw : ∀ s : State, s.plat.maddr = 0x10400 → s.plat.part = .a064 → s.plat.ready = 0x8000000000000000#64 →
      s.descriptorWaits = true := by
    intro s h1 h2 h3
    unfold State.descriptorWaits
    rw [h1, h2, h3]
    simp only [show (0x10400 : W64).toNat = 0x10400 from rfl, hc]
    decide
  exact hw _ rfl rfl rfl

/-! ### Witnesses: the platform -/

theorem test_met_PlatformEventsComplete :
    let p := base.plat
    let pps : Pps := { Pps.reset with en := true, prev := some 0, edge := some 0 }
    (State.reset.plat.inReset = true ∧ State.reset.plat.tripped = false ∧ State.reset.plat.hot = false) ∧ p.booting = none ∧
      ({ p with booting := some (0, []) } : Platform).booting = some (0, []) ∧ p.fails < 8 ∧ (0 : W64).toNat % 64 = 0 ∧ (1840 : Int) ≤ (1840 : BitVec 16).toInt ∧
      p.inReset = false ∧ p.ready.getLsbD 63 = true ∧ p.attStatus ≠ 1 ∧ p.busy = false ∧
      ({ p with ready := 0 } : Platform).ready.getLsbD 63 = false ∧
      ({ p with ready := 0, fw := some { digest := 0, svn := 0 } } : Platform).mayRise 63 = true ∧
      pps.prev = some 0 ∧ 1000002000 ≤ ((1000002000 : W64) - 0).toNat ∧ 1100000000 ≤ ((1100000000 : W64) - 0).toNat := by
  decide +kernel

theorem test_met_EnergyEventsComplete :
    (1000 ≤ Energy.reset.mhz ∧ Energy.reset.mhz ≤ 2600) ∧ (1680 : Int) ≤ (1680 : BitVec 16).toInt ∧ (1680 : BitVec 16).toInt < 1840 ∧
      (later base).plat.chargeDue = true ∧ base.plat.chargeDue = false ∧ Energy.reset.controls < (10000 : W64).toNat / 10000 ∧
      (List.replicate 16 (1839 : BitVec 16)).length = 16 ∧ base.dev.coreIdle base.env 63 = true ∧
      ({ base.dev with coreGate := [(0, .gating)] } : Device).coreGate.get 0 = some .gating ∧
      ({ base.dev with coreGate := [(0, .gated true)] } : Device).coreGate.get 0 = some (.gated true) ∧
      base.dev.entriesOn (engineKey 7 .dyn) = [] ∧ base.plat.inReset = false ∧
      (([149, 150, 550, 551] : List W64).map (fun v => (v.extractLsb' 0 10).toNat)) = [149, 150, 550, 551] := by
  decide +kernel

theorem test_met_ErrorEventsComplete :
    base.plat.inReset = false ∧ ([.regFile 0 1 0, .scratchpad 0 1, .sealStore 0 1 0, .l1 0 1 0x8000, .icache 0 1 0x10000, .l2 1 1 0x8000,
      .dram 0 1 0x8000] : List ErrLoc).all locOk = true := by
  decide +kernel

theorem test_met_HostAccessCompletes :
    base.plat.inReset = false ∧ base.plat.ready.getLsbD 63 = true ∧
      (Part.a064.capacity - 8) + 8 ≤ base.plat.part.capacity ∧ linesReady base.plat.ready (Part.a064.capacity - 8) 8 = true ∧
      base.dev.poisoned .dev 0x10000 8 = false ∧ ({ base.plat with ready := 0 } : Platform).ready.getLsbD 63 = false := by
  decide +kernel

end Sys2Proof.Tests
end

/-! SUPPORT. What a step can do to the platform: nothing, but for the events that act on it, since every instruction and every
other event puts another device into the state and changes nothing else. -/

namespace Sys2Proof.Machine

/-! ### Outcomes that put another device into the state -/

/-- Whatever next state the outcome gives is `s` with another device: the platform, the turns and the counter are as before. -/
def State.OnlyDevice (s : State) (o : Host.Outcome State Fault Refusal) : Prop := ∀ t, o = .next t → ∃ d, t = s.withDev d

theorem State.onlyDevice_withDev (s : State) (d : Device) : s.OnlyDevice (.next (s.withDev d)) := by
  rintro _ ⟨⟩
  exact ⟨d, rfl⟩

theorem State.onlyDevice_self (s : State) : s.OnlyDevice (.next s) := s.onlyDevice_withDev s.dev

theorem State.onlyDevice_fault (s : State) (r : Fault) : s.OnlyDevice (.fault r) := by
  intro t h
  cases h

/-- A split that waits changes the device alone. -/
theorem State.stalledAs_onlyDevice (s : State) (x : View) (issued : Option W64) (why : Stall) :
    s.OnlyDevice (.next (s.stalledAs x issued why)) := by
  unfold State.stalledAs
  split <;> exact s.onlyDevice_withDev _

theorem State.close_onlyDevice (s : State) (x : View) (r : Except Miss Device) : s.OnlyDevice (s.close x r) := by
  cases r with
  | ok d => exact s.onlyDevice_withDev d
  | error m => exact s.stalledAs_onlyDevice x _ _

theorem State.onView_onlyDevice (s : State) (spans : List (Nat × Nat)) (f : View → Out) : s.OnlyDevice (s.onView spans f) := by
  unfold State.onView
  split
  · exact s.onlyDevice_fault _
  · split <;> exact s.close_onlyDevice _ _

theorem State.onDevice_onlyDevice (s : State) (spans : List (Nat × Nat)) (f : Env → SplitRef → Device → View → Res) :
    s.OnlyDevice (s.onDevice spans f) := by
  unfold State.onDevice
  split
  · exact s.onlyDevice_fault _
  · split
    · split
      · exact s.close_onlyDevice _ _
      · exact s.stalledAs_onlyDevice _ _ _
    · exact s.stalledAs_onlyDevice _ _ _
    · exact s.stalledAs_onlyDevice _ _ _
    · exact s.close_onlyDevice _ _

theorem State.onDev_onlyDevice (s : State) (ctx core swarm : Nat) (f : Env → Device → Option (Except Miss Device)) :
    s.OnlyDevice (s.onDev ctx core f swarm) := by
  obtain ⟨d, hd⟩ := s.onDev_next ctx core swarm f
  exact hd ▸ s.onlyDevice_withDev d

theorem State.whenDue_onlyDevice (s : State) (due : Bool) (f : Env → Device → Device) : s.OnlyDevice (s.whenDue due f) := by
  unfold State.whenDue
  split
  · exact s.onlyDevice_withDev _
  · exact s.onlyDevice_self

theorem State.closeParked_onlyDevice (s : State) (core slot : Nat) (g : Group) (r : Except Miss Device) :
    s.OnlyDevice (s.closeParked core slot g r) := by
  unfold State.closeParked
  split
  · exact s.onlyDevice_withDev _
  · exact s.onlyDevice_withDev _
  · exact s.onlyDevice_self

theorem State.onParked_onlyDevice (s : State) (core slot lane : Nat) (f : Env → SplitRef → Device → View → Option Res) :
    s.OnlyDevice (s.onParked core slot lane f) := by
  unfold State.onParked
  split
  · exact s.onlyDevice_self
  · split
    · exact s.onlyDevice_self
    · exact s.closeParked_onlyDevice _ _ _ _
    · exact s.closeParked_onlyDevice _ _ _ _
    · exact s.onlyDevice_self
    · exact s.onlyDevice_self
    · exact s.closeParked_onlyDevice _ _ _ _

theorem State.onGroup_onlyDevice (s : State) (core slot : Nat) (f : Env → Device → Group → Option Group) :
    s.OnlyDevice (s.onGroup core slot f) := by
  unfold State.onGroup
  split
  · exact s.onlyDevice_self
  · split
    · exact s.onlyDevice_self
    · exact s.onlyDevice_withDev _

/-! ### The shapes of instructions and events -/

theorem State.scalar_onlyDevice (s : State) (n : Nat) (f : View → View) : s.OnlyDevice (s.scalar n f) := s.onView_onlyDevice _ _

theorem State.binS_onlyDevice (s : State) (op : W32 → W32 → W32) (d a b : SReg) : s.OnlyDevice (s.binS op d a b) :=
  s.scalar_onlyDevice _ _

theorem State.immS_onlyDevice (s : State) (op : W32 → W32 → W32) (d a : SReg) (i : W32) : s.OnlyDevice (s.immS op d a i) :=
  s.scalar_onlyDevice _ _

theorem State.branch_onlyDevice (s : State) (f : FmtB) (p : View → Bool) : s.OnlyDevice (s.branch f p) := s.onView_onlyDevice _ _

theorem State.vector_onlyDevice (s : State) (i : Instr) (n : Nat) (ms : Pred) (f : View → Mask → View) :
    s.OnlyDevice (s.vector i n ms f) := s.onView_onlyDevice _ _

theorem State.vecV_onlyDevice (s : State) (i : Instr) (f : FmtV) (r : View → Nat → W32 × Flags) : s.OnlyDevice (s.vecV i f r) :=
  s.vector_onlyDevice _ _ _ _

theorem State.vecT_onlyDevice (s : State) (i : Instr) (f : FmtV) (r : View → Nat → Bool × Flags) : s.OnlyDevice (s.vecT i f r) :=
  s.vector_onlyDevice _ _ _ _

theorem State.access_onlyDevice (s : State) (i : Instr) (n : Nat) (ms : Pred) (f : Env → SplitRef → Device → View → Mask → Res) :
    s.OnlyDevice (s.access i n ms f) := s.onDevice_onlyDevice _ _

theorem State.barOp_onlyDevice (s : State) (i : Instr) (f : FmtT) (op : Env → SplitRef → Device → View → Barrier → Res) :
    s.OnlyDevice (s.barOp i f op) := s.onDevice_onlyDevice _ _

theorem State.swarmOp_onlyDevice (s : State) (i : Instr) (f : FmtT) (acts : Swarm → Bool)
    (effect : Env → Device → View → Nat → Swarm → Except Miss Device) : s.OnlyDevice (s.swarmOp i f acts effect) :=
  s.access_onlyDevice _ _ _ _

theorem State.copyOp_onlyDevice (s : State) (i : Instr) (f : FmtT) (go : Env → SplitRef → Device → View → List W64 → Res)
    (sealable : Bool) : s.OnlyDevice (s.copyOp i f go sealable) := s.access_onlyDevice _ _ _ _

theorem State.colq_onlyDevice (s : State) (i : Instr) (f : FmtT) (regionBad : Region → Bool)
    (laneBad : Region → View → Nat → Bool) (query : View → Nat → Query) : s.OnlyDevice (s.colq i f regionBad laneBad query) :=
  s.access_onlyDevice _ _ _ _

theorem State.poolOnce_onlyDevice (s : State) (i : Instr) (f : FmtT) (limit : Nat)
    (go : Env → SplitRef → Device → View → Nat → Res) : s.OnlyDevice (s.poolOnce i f limit go) := s.access_onlyDevice _ _ _ _

theorem State.modulo_onlyDevice (s : State) (i : Instr) (f : FmtM)
    (go : SplitRef → Device → View → Nat → List (Nat × Nat) → (View → View) → Res) : s.OnlyDevice (s.modulo i f go) :=
  s.access_onlyDevice _ _ _ _

theorem State.onPacket_onlyDevice (s : State) (ctx q : Nat) (is : List W64 → Bool)
    (go : Env → Device → Packet → Except Miss Device) : s.OnlyDevice (s.onPacket ctx q is go) := s.onDev_onlyDevice _ _ _ _

theorem State.onSplit_onlyDevice (s : State) (core slot lane : Nat) (f : Env → View → Option Split) :
    s.OnlyDevice (s.onSplit core slot lane f) := s.onParked_onlyDevice _ _ _ _

/-! ### Instructions and events that look at the state before they use a shared operation -/

theorem State.execTret_onlyDevice (s : State) : s.OnlyDevice (execTret s) := by
  unfold execTret
  split
  · exact s.onlyDevice_fault _
  · split <;> exact s.close_onlyDevice _ _

theorem State.execPageWalkDone_onlyDevice (s : State) (cluster ctx : Nat) (va : W64) :
    s.OnlyDevice (execPageWalkDone cluster ctx va s) := by
  simp only [execPageWalkDone]
  split
  · exact s.onlyDevice_self
  · split
    · exact s.onlyDevice_self
    · split
      · exact s.onlyDevice_self
      · exact s.onlyDevice_withDev _

theorem State.execGqTileDeliver_onlyDevice (s : State) (core q : Nat) : s.OnlyDevice (execGqTileDeliver core q s) := by
  unfold execGqTileDeliver
  split
  · exact s.onlyDevice_self
  · exact s.onParked_onlyDevice _ _ _ _

theorem State.execJoinDecrement_onlyDevice (s : State) (idx : Nat) : s.OnlyDevice (execJoinDecrement idx s) := by
  unfold execJoinDecrement
  split
  · exact s.onlyDevice_self
  · exact s.onDev_onlyDevice _ _ _ _

theorem State.execSealedRequeue_onlyDevice (s : State) (idx : Nat) : s.OnlyDevice (execSealedRequeue idx s) := by
  unfold execSealedRequeue
  split
  · exact s.onlyDevice_self
  · exact s.onDev_onlyDevice _ _ _ _

theorem State.execDevicePushRetry_onlyDevice (s : State) (idx : Nat) : s.OnlyDevice (execDevicePushRetry idx s) := by
  unfold execDevicePushRetry
  split
  · exact s.onlyDevice_self
  · exact s.onDev_onlyDevice _ _ _ _

/-! ### The dispatcher -/

/-- The events that act on the platform: of reset, clocks, firmware, attestation, energy and the host's registers. -/
def actsOnPlatform : Instr → Bool
  | .registerWrite _ _ _ _ | .bar2Access _ | .thermtrip _ _ | .functionReady _ | .queueFree _ _ | .energyCharge _ |
    .clockControl _ | .controlParityError _ | .reset | .ppscaploRead | .boot | .createQueue _ _ | .destroyContext _ |
    .destroyQueue _ _ | .createContext | .linkTraining _ | .ppsctlWrite _ | .pcapWrite _ _ | .resetRelease | .ppsEdge |
    .ppsEdgeMissed | .attctlGo | .attestationReport | .refclkEdge | .ppsSeenExpiry => true
  | _ => false

/-- Every instruction, and every event but those of the platform, puts another device into the state and changes nothing else. -/
theorem exec_onlyDevice (i : Instr) (s : State) (h : actsOnPlatform i = false) : s.OnlyDevice (exec i s) := by
  cases i with
  | nop | smov | smovPair | smovImm | sli | sadd64 | sadd64Imm | ssub64 | ssub64Imm | slea | sleaImm | spopc | spopcL | sclz
    | sclzL | sbfx | sbfi | smask =>
    dsimp only [exec]
    exact s.scalar_onlyDevice _ _
  | scmp =>
    dsimp only [exec, execScmp]
    exact s.scalar_onlyDevice _ _
  | sadd | ssub | smul | smulhs | smulhn | sand | sor | sxor | sandn | sshl | sshr | ssar | smin | smax | sminn | smaxn |
    sdivn | sremn =>
    dsimp only [exec]
    exact s.binS_onlyDevice _ _ _ _
  | saddImm | ssubImm | smulImm | smulhsImm | smulhnImm | sandImm | sorImm | sxorImm | sandnImm | sshlImm | sshrImm |
    ssarImm | sminImm | smaxImm | sminnImm | smaxnImm | sdivnImm | sremnImm =>
    dsimp only [exec]
    exact s.immS_onlyDevice _ _ _ _
  | br | brs | brany =>
    dsimp only [exec]
    exact s.branch_onlyDevice _ _
  | brv | bway | jmp | call | calli | ret | syncs | exit | exitAll | yield | yieldImm | trap | smovr | smovw | mma | mmas |
    aclr | adrain | amerge | mtrans | fetchFault | illop =>
    dsimp only [exec]
    exact s.onView_onlyDevice _ _
  | vli | vbcst | vlane | vscan | vrowmap | vbfx | vv2s | vcvt | vcvts | vrand | vseed | vdot8 | vdot4 | vred =>
    dsimp only [exec]
    exact s.vector_onlyDevice _ _ _ _
  | vmov | vadd | vsub | vmul | vmulh | vmad | vand | vor | vxor | vandn | vshl | vshr | vsar | vmin | vmax | vabs | vsel |
    vpopc | vclz | vshuf | vpack | vunpk | vfadd | vfsub | vfmul | vfma | vfms | vfmin | vfmax | vfabs | vfneg | vfdiv |
    vfsqrt | vfclass | vfadda | vfdot2 | vfscale | vfrnd | vrcp | vrsq | vexp2 | vlog2 | vsin | vcos | vtanh | vsigm |
    vmkabs =>
    dsimp only [exec]
    exact s.vecV_onlyDevice _ _ _
  | vcmp | vfcmp | visabs =>
    dsimp only [exec]
    exact s.vecT_onlyDevice _ _ _
  | watch | gqpop =>
    dsimp only [exec]
    exact s.onDevice_onlyDevice _ _
  | qld | ldg | stg | lds | sts | ldfrag | ldu | stsc | atomg | atoms | redg | bestmax | tld | tst | hld | citer | ccount |
    fence | cache | disc | spawn | jrec | fnew | fres | fwait | fpoll | freg | fcan | swnew | gqcfg | gqpush | gqflush |
    palloc | pfree | hstw | sigdec =>
    dsimp only [exec]
    exact s.access_onlyDevice _ _ _ _
  | barInit | barArrive | barWait | barExpect | barTest =>
    dsimp only [exec]
    exact s.barOp_onlyDevice _ _ _
  | swdl | swcan | swendClose | swendRun =>
    dsimp only [exec]
    exact s.swarmOp_onlyDevice _ _ _ _
  | cpy | cpydn | dyns =>
    dsimp only [exec]
    exact s.copyOp_onlyDevice _ _ _ _
  | colqQpoint | colqQsphere | colqQseg =>
    dsimp only [exec]
    exact s.colq_onlyDevice _ _ _ _ _
  | pdef | preset | regdef =>
    dsimp only [exec]
    exact s.poolOnce_onlyDevice _ _ _ _
  | ldsm | stsm =>
    dsimp only [exec]
    exact s.modulo_onlyDevice _ _ _
  | nopPacket | launch | tasks | copyPacket | signalPacket | waitPacket | graph | rangeInval | rangeAcquire | rangeRelease |
    rangeClass | stream =>
    dsimp only [exec]
    exact s.onPacket_onlyDevice _ _ _ _
  | packetRead | packetComplete | graphNodeComplete | sealCommitDone | copyComplete | copyFault | deadlineExpiry |
    waitSatisfied | swarmCancelComplete | swarmFree | preempt =>
    dsimp only [exec]
    exact s.onDev_onlyDevice _ _ _ _
  | teamAdmit | cancelDelivery | colqQueryDone | dynsBodyStep | teamResume =>
    dsimp only [exec, execTeamAdmit, execCancelDelivery, execColqQueryDone, execDynsBodyStep, execTeamResume]
    exact s.onDev_onlyDevice _ _ _ _
  | qwidxWrite | sridxWrite | teamFree | erridxWrite | residencyWaitEnd | coreGateDecide | coreGateCommit | coreWake |
    correctedError | uncorrectableError | erdropRead =>
    dsimp only [exec]
    exact s.whenDue_onlyDevice _ _
  | drainStampReached | gqTimeout | engineEntryStart | coalesceTimeout | streamTimeout | engineGate =>
    dsimp only [exec, execDrainStampReached, execGqTimeout, execEngineEntryStart, execCoalesceTimeout, execStreamTimeout,
      execEngineGate]
    exact s.whenDue_onlyDevice _ _
  | watchWake | watchTimeout | barWaitTimeout | gqpushRetry | spawnRetry | fwaitRecheck | fwaitPollTimeout | hstwResume |
    splitEligibilityBoost =>
    dsimp only [exec]
    exact s.onParked_onlyDevice _ _ _ _
  | yieldEnd | spinDemote | spinRestore | spinRestoreTimeout =>
    dsimp only [exec]
    exact s.onSplit_onlyDevice _ _ _ _
  | instructionComplete | sealStoreStallEnd | starvationBoost | splitFillDone =>
    dsimp only [exec]
    exact s.onGroup_onlyDevice _ _ _
  | tret => dsimp only [exec]; exact s.execTret_onlyDevice
  | pageWalkDone => dsimp only [exec]; exact s.execPageWalkDone_onlyDevice _ _ _
  | gqTileDeliver => dsimp only [exec]; exact s.execGqTileDeliver_onlyDevice _ _
  | joinDecrement => dsimp only [exec]; exact s.execJoinDecrement_onlyDevice _
  | sealedRequeue => dsimp only [exec]; exact s.execSealedRequeue_onlyDevice _
  | devicePushRetry => dsimp only [exec]; exact s.execDevicePushRetry_onlyDevice _
  | registerWrite | bar2Access | thermtrip | functionReady | queueFree | energyCharge | clockControl | controlParityError |
    reset | ppscaploRead | boot | createQueue | destroyContext | destroyQueue | createContext | linkTraining | ppsctlWrite |
    pcapWrite | resetRelease | ppsEdge | ppsEdgeMissed | attctlGo | attestationReport | refclkEdge | ppsSeenExpiry => cases h

/-! ### The step -/

/-- What a split has issued is noted in the device alone. -/
theorem State.noteIssued_plat (i : Instr) (s t : State) : (State.noteIssued i s t).plat = t.plat := by
  unfold State.noteIssued
  split
  · rfl
  · exact (apply_ite State.plat _ _ _).trans (ite_self _)

theorem State.fetchWait_onlyDevice (s : State) (x : View) (why : Stall) : s.OnlyDevice (s.fetchWait x why) := by
  unfold State.fetchWait
  split
  · split
    · exact s.close_onlyDevice _ _
    · exact s.stalledAs_onlyDevice _ _ _
  · exact s.stalledAs_onlyDevice _ _ _

/-- From the platform `p` to `q`: nothing, or what one instruction or event does to a state whose platform is `p`. -/
def PlatformStep (p q : Platform) : Prop := q = p ∨ ∃ i s t, s.plat = p ∧ exec i s = .next t ∧ q = t.plat

theorem State.OnlyDevice.platformStep {s t : State} {o : Host.Outcome State Fault Refusal} (h : s.OnlyDevice o)
    (ht : o = .next t) : PlatformStep s.plat t.plat := by
  obtain ⟨d, rfl⟩ := h t ht
  exact .inl rfl

/-- An issue leaves the platform, or does to it what one instruction does. -/
theorem State.issueAt_platformStep {s t : State} {r : SplitRef} (h : s.issueAt r = .next t) : PlatformStep s.plat t.plat := by
  simp only [State.issueAt] at h
  split at h
  · exact s.onlyDevice_self.platformStep h
  · split at h
    · exact s.onlyDevice_self.platformStep h
    · split at h
      · have hw := (State.fetchWait_onlyDevice _ _ _).platformStep h
        exact hw
      · split at h
        next u hu =>
          cases h
          refine .inr ⟨_, _, u, ?_, hu, State.noteIssued_plat _ _ _⟩
          rfl
        next hno => exact absurd h (hno t)

/-- A step moves time, and then leaves the platform or does to it what one instruction or event does. -/
theorem step_platformStep {s t : State} (h : step s = .next t) : ∃ rest, PlatformStep (s.begin rest).plat t.plat := by
  simp only [step, State.turn] at h
  split at h
  next i rest _ =>
    refine ⟨rest, ?_⟩
    split at h
    · exact .inr ⟨i, s.begin rest, t, rfl, h, rfl⟩
    · exact (s.begin rest).onlyDevice_self.platformStep h
  next rest _ => exact ⟨rest, State.issueAt_platformStep h⟩
  next =>
    refine ⟨[], ?_⟩
    split at h
    · exact State.issueAt_platformStep h
    · exact (s.begin []).onlyDevice_self.platformStep h

end Sys2Proof.Machine

/-! SUPPORT and O8. What every event that acts on the platform does to its fuses (R1, R412, R414). -/

namespace Sys2Proof.Machine

/-- The fuses of a package: part number, die revision, unique identity and minimum security version. -/
def Platform.fuses (p : Platform) : Part × Byte × BitVec 128 × W32 := (p.part, p.dieRev, p.uid, p.svnMin)

/-- Part number, die revision and identity stand, and the minimum security version has not fallen. -/
def Platform.FusesKept (p q : Platform) : Prop :=
  q.part = p.part ∧ q.dieRev = p.dieRev ∧ q.uid = p.uid ∧ p.svnMin.toNat ≤ q.svnMin.toNat

theorem Platform.FusesKept.of_fuses_eq {p q : Platform} (h : q.fuses = p.fuses) : p.FusesKept q := by
  simp only [Platform.fuses, Prod.mk.injEq] at h
  obtain ⟨hpart, hrev, huid, hsvn⟩ := h
  exact ⟨hpart, hrev, huid, hsvn ▸ le_rfl⟩

/-- The state `t` has the fuses of `s`. -/
def State.SameFuses (s t : State) : Prop := t.plat.fuses = s.plat.fuses

theorem State.SameFuses.withDev (s : State) (d : Device) : s.SameFuses (s.withDev d) := rfl

theorem State.SameFuses.ite {c : Prop} [Decidable c] {s a b : State} (ha : s.SameFuses a) (hb : s.SameFuses b) :
    s.SameFuses (if c then a else b) := by
  split
  · exact ha
  · exact hb

/-! ### Clocks, attestation and energy -/

theorem Platform.refclk_fuses (p : Platform) : p.refclk.fuses = p.fuses := by
  unfold Platform.refclk
  split <;> rfl

theorem Platform.capture_fuses (p : Platform) (tick : Nat) : (p.capture tick).fuses = p.fuses := by
  simp only [Platform.capture]
  split
  · rfl
  · split <;> rfl

theorem Platform.writePpsctl_fuses (p : Platform) (v : W32) : (p.writePpsctl v).fuses = p.fuses := by
  unfold Platform.writePpsctl
  split
  · rfl
  · split <;> rfl

theorem Platform.go_fuses (p : Platform) : p.go.fuses = p.fuses := by
  unfold Platform.go
  split
  · rfl
  · split
    · rfl
    · split <;> rfl

theorem Platform.writePcap_fuses (p : Platform) (width : Nat) (v : W64) : (p.writePcap width v).fuses = p.fuses := by
  unfold Platform.writePcap
  split <;> rfl

theorem Platform.writeI3c_fuses (p : Platform) (off width : Nat) (v : W64) : (p.writeI3c off width v).fuses = p.fuses := by
  simp only [Platform.writeI3c]
  split
  · rfl
  · split
    · exact p.writePpsctl_fuses _
    · split
      · rfl
      · split
        · split
          · exact p.go_fuses
          · rfl
        · rfl

/-! ### Management operations -/

theorem State.createCtx_sameFuses (s : State) : s.SameFuses s.createCtx := by
  simp only [State.createCtx]
  split
  · rfl
  · split <;> rfl

theorem State.createQ_sameFuses (ctx q : Nat) (s : State) : s.SameFuses (State.createQ ctx q s) := by
  unfold State.createQ
  split
  · rfl
  · split
    · rfl
    · split
      · rfl
      · split
        · rfl
        · split <;> rfl

theorem State.mopRetry_sameFuses (s : State) : s.SameFuses s.mopRetry := by
  unfold State.mopRetry
  split
  · rfl
  next op ctx q a _ =>
    by_cases hop : op = 1
    · simp only [if_pos hop]
      exact State.createCtx_sameFuses { s with plat := { s.plat with maddr := a } }
    · simp only [if_neg hop]
      exact State.createQ_sameFuses ctx q { s with plat := { s.plat with maddr := a } }

theorem State.mopDone_sameFuses (s : State) (ctx : Nat) : s.SameFuses (s.mopDone ctx) := by
  unfold State.mopDone
  split
  · rfl
  · split
    · split <;> rfl
    · split <;> rfl

theorem State.destroyQueueOp_sameFuses (ctx q : Nat) (s : State) : s.SameFuses (State.destroyQueueOp ctx q s) := by
  unfold State.destroyQueueOp
  split
  · rfl
  · exact State.mopDone_sameFuses _ ctx

theorem State.destroyCtx_sameFuses (ctx : Nat) (s : State) : s.SameFuses (State.destroyCtx ctx s) := by
  unfold State.destroyCtx
  split
  · rfl
  · exact State.mopDone_sameFuses _ ctx

/-- A management operation keeps the fuses when what it does once it is served does. -/
theorem State.mop_sameFuses {s : State} {f : State → State} (hf : s.SameFuses (f s)) : s.SameFuses (s.mop f) := by
  exact .ite rfl (.ite rfl hf)

/-! ### The firmware, and the minimum security version -/

theorem Platform.bootStart_fuses (p : Platform) (tick : Nat) : (p.bootStart tick).fuses = p.fuses := by
  unfold Platform.bootStart
  split
  · rfl
  · split <;> rfl

theorem State.boot_sameFuses (s : State) : s.SameFuses s.boot := by
  exact .ite rfl (.ite rfl (s.plat.bootStart_fuses _))

/-- The end of a BOOT keeps the fuses, but that an image accepted may raise the minimum security version (R414). -/
theorem Platform.bootEnd_fusesKept (p : Platform) (a : Nat) (m : Memory) : p.FusesKept (p.bootEnd a m) := by
  unfold Platform.bootEnd
  split
  next fw adv _ =>
    refine ⟨rfl, rfl, rfl, ?_⟩
    dsimp only
    split
    next hup =>
      simp only [Bool.and_eq_true, decide_eq_true_eq] at hup
      exact le_of_lt hup.2
    next => exact le_rfl
  next => exact .of_fuses_eq rfl

/-! ### The host's accesses -/

theorem State.writeMop_sameFuses (s : State) (v : W64) : s.SameFuses (s.writeMop v) := by
  simp only [State.writeMop]
  split
  · exact State.mop_sameFuses s.createCtx_sameFuses
  · exact State.mop_sameFuses (State.destroyCtx_sameFuses _ s)
  · exact State.mop_sameFuses (State.createQ_sameFuses _ _ s)
  · exact State.mop_sameFuses (State.destroyQueueOp_sameFuses _ _ s)
  · exact s.boot_sameFuses
  · exact State.mop_sameFuses rfl

theorem State.writeEnergy_sameFuses (s : State) (off width : Nat) (v : W64) : s.SameFuses (s.writeEnergy off width v) := by
  exact .ite (s.plat.writePcap_fuses _ _) (.ite rfl rfl)

theorem State.writeBar0_sameFuses (s : State) (off width : Nat) (v : W64) : s.SameFuses (s.writeBar0 off width v) := by
  unfold State.writeBar0
  exact .ite rfl (.ite rfl (.ite (s.writeMop_sameFuses _) (.ite (.withDev s _) (.ite (.withDev s _) (.ite (.withDev s _)
    (.ite (s.writeEnergy_sameFuses _ _ _) (.ite (.withDev s _) rfl)))))))

theorem State.memoryAccess_sameFuses (s : State) (a : HostAccess) : s.SameFuses (s.memoryAccess a) := by
  exact .ite rfl rfl

/-! ### Every instruction and event, and the step -/

/-- An event that acts on the platform alone keeps the fuses when what it does to it does. -/
theorem State.onPlat_fusesKept {s t : State} {f : Platform → Platform} (hf : (f s.plat).fuses = s.plat.fuses)
    (h : s.onPlat f = .next t) : s.plat.FusesKept t.plat := by
  cases h
  exact .of_fuses_eq hf

theorem execRegisterWrite_fusesKept {space : RegSpace} {off width : Nat} {v : W64} {s t : State}
    (h : execRegisterWrite space off width v s = .next t) : s.plat.FusesKept t.plat := by
  unfold execRegisterWrite at h
  split at h
  · cases h; exact .of_fuses_eq rfl
  · split at h
    · cases h; exact .of_fuses_eq (s.writeBar0_sameFuses _ _ _)
    · cases h; exact .of_fuses_eq (s.plat.writeI3c_fuses _ _ _)

theorem execBar2Access_fusesKept {a : HostAccess} {s t : State} (h : execBar2Access a s = .next t) :
    s.plat.FusesKept t.plat := by
  simp only [execBar2Access] at h
  split at h
  · cases h; exact .of_fuses_eq rfl
  · cases h
    refine .of_fuses_eq ?_
    split
    · exact s.memoryAccess_sameFuses a
    · rfl

theorem execThermtrip_fusesKept {k : Nat} {v : BitVec 16} {s t : State} (h : execThermtrip k v s = .next t) :
    s.plat.FusesKept t.plat := by
  unfold execThermtrip at h
  split at h <;> (cases h; exact .of_fuses_eq rfl)

theorem execFunctionReady_fusesKept {bit : Nat} {s t : State} (h : execFunctionReady bit s = .next t) :
    s.plat.FusesKept t.plat := by
  simp only [execFunctionReady] at h
  split at h
  · cases h; exact .of_fuses_eq rfl
  · cases h
    refine .of_fuses_eq ?_
    split
    · exact State.mopRetry_sameFuses _
    · rfl

theorem execQueueFree_fusesKept {ctx q : Nat} {s t : State} (h : execQueueFree ctx q s = .next t) :
    s.plat.FusesKept t.plat := by
  simp only [execQueueFree] at h
  cases h
  exact .of_fuses_eq (State.SameFuses.ite (State.mopDone_sameFuses _ ctx) rfl)

theorem execEnergyCharge_fusesKept {r : EnergyReading} {s t : State} (h : execEnergyCharge r s = .next t) :
    s.plat.FusesKept t.plat := by
  simp only [execEnergyCharge] at h
  split at h <;> (cases h; exact .of_fuses_eq rfl)

theorem execClockControl_fusesKept {temps : List (BitVec 16)} {s t : State} (h : execClockControl temps s = .next t) :
    s.plat.FusesKept t.plat := by
  simp only [execClockControl] at h
  cases h
  refine .of_fuses_eq ?_
  split
  · rfl
  · split <;> rfl

theorem execControlParityError_fusesKept {cluster : Nat} {s t : State} (h : execControlParityError cluster s = .next t) :
    s.plat.FusesKept t.plat := by
  simp only [execControlParityError] at h
  split at h <;> (cases h; exact .of_fuses_eq rfl)

theorem execPpscaploRead_fusesKept {s t : State} (h : execPpscaploRead s = .next t) : s.plat.FusesKept t.plat := by
  simp only [execPpscaploRead] at h
  split at h <;> (cases h; exact .of_fuses_eq rfl)

theorem execBoot_fusesKept {s t : State} (h : execBoot s = .next t) : s.plat.FusesKept t.plat := by
  unfold execBoot at h
  split at h
  · cases h; exact s.plat.bootEnd_fusesKept _ _
  · cases h; exact .of_fuses_eq s.boot_sameFuses

theorem execResetRelease_fusesKept {s t : State} : execResetRelease s = .next t → s.plat.FusesKept t.plat :=
  State.onPlat_fusesKept (by split <;> rfl)

theorem execLinkTraining_fusesKept {high : Bool} {s t : State} : execLinkTraining high s = .next t → s.plat.FusesKept t.plat :=
  State.onPlat_fusesKept (by split <;> rfl)

theorem execPpsEdge_fusesKept {s t : State} : execPpsEdge s = .next t → s.plat.FusesKept t.plat :=
  State.onPlat_fusesKept (by
    split
    · rfl
    · dsimp only
      split
      · exact Platform.capture_fuses _ _
      · rfl)

theorem execPpsEdgeMissed_fusesKept {s t : State} : execPpsEdgeMissed s = .next t → s.plat.FusesKept t.plat :=
  State.onPlat_fusesKept ((apply_ite Platform.fuses _ _ _).trans (ite_self _))

theorem execPpsSeenExpiry_fusesKept {s t : State} : execPpsSeenExpiry s = .next t → s.plat.FusesKept t.plat :=
  State.onPlat_fusesKept ((apply_ite Platform.fuses _ _ _).trans (ite_self _))

theorem execAttestationReport_fusesKept {s t : State} : execAttestationReport s = .next t → s.plat.FusesKept t.plat :=
  State.onPlat_fusesKept (by
    split
    · rfl
    · split <;> rfl)

/-- Every event that acts on the platform keeps the fuses. -/
theorem exec_actsOnPlatform_fusesKept {i : Instr} {s t : State} (hi : actsOnPlatform i = true) (h : exec i s = .next t) :
    s.plat.FusesKept t.plat := by
  cases i with
  | registerWrite => exact execRegisterWrite_fusesKept h
  | bar2Access => exact execBar2Access_fusesKept h
  | thermtrip => exact execThermtrip_fusesKept h
  | functionReady => exact execFunctionReady_fusesKept h
  | queueFree => exact execQueueFree_fusesKept h
  | energyCharge => exact execEnergyCharge_fusesKept h
  | clockControl => exact execClockControl_fusesKept h
  | controlParityError => exact execControlParityError_fusesKept h
  | reset => cases h; exact .of_fuses_eq rfl
  | ppscaploRead => exact execPpscaploRead_fusesKept h
  | boot => exact execBoot_fusesKept h
  | createQueue => cases h; exact .of_fuses_eq (State.mop_sameFuses (State.createQ_sameFuses _ _ s))
  | destroyContext => cases h; exact .of_fuses_eq (State.mop_sameFuses (State.destroyCtx_sameFuses _ s))
  | destroyQueue => cases h; exact .of_fuses_eq (State.mop_sameFuses (State.destroyQueueOp_sameFuses _ _ s))
  | createContext => cases h; exact .of_fuses_eq (State.mop_sameFuses s.createCtx_sameFuses)
  | linkTraining => exact execLinkTraining_fusesKept h
  | ppsctlWrite => cases h; exact .of_fuses_eq (s.plat.writePpsctl_fuses _)
  | pcapWrite => cases h; exact .of_fuses_eq (s.plat.writePcap_fuses _ _)
  | resetRelease => exact execResetRelease_fusesKept h
  | ppsEdge => exact execPpsEdge_fusesKept h
  | ppsEdgeMissed => exact execPpsEdgeMissed_fusesKept h
  | attctlGo => cases h; exact .of_fuses_eq s.plat.go_fuses
  | attestationReport => exact execAttestationReport_fusesKept h
  | refclkEdge => cases h; exact .of_fuses_eq s.plat.refclk_fuses
  | ppsSeenExpiry => exact execPpsSeenExpiry_fusesKept h
  | _ => cases hi

/-- Every instruction and event keeps the fuses. -/
theorem exec_fusesKept {i : Instr} {s t : State} (h : exec i s = .next t) : s.plat.FusesKept t.plat := by
  cases hi : actsOnPlatform i with
  | true => exact exec_actsOnPlatform_fusesKept hi h
  | false =>
    obtain ⟨d, rfl⟩ := exec_onlyDevice i s hi t h
    exact .of_fuses_eq rfl

theorem PlatformStep.fusesKept {p q : Platform} (h : PlatformStep p q) : p.FusesKept q := by
  obtain rfl | ⟨i, s, t, rfl, hexec, rfl⟩ := h
  · exact .of_fuses_eq rfl
  · exact exec_fusesKept hexec

/-- Settles O8: a step moves time, which is no fuse, and then does to the platform what one instruction or event does. -/
theorem fusesFixed : Obligations.FusesFixed := by
  intro s t h
  obtain ⟨rest, hstep⟩ := step_platformStep h
  exact hstep.fusesKept

end Sys2Proof.Machine

/-! SUPPORT and O12. Bytes of memory read back, one by one and as little-endian words, and a store that spans lines writes its
bytes as one (R3). -/

namespace Sys2Proof.Machine

@[simp] theorem length_natToBytes (n x : Nat) : (natToBytes n x).length = n := by
  induction n generalizing x with
  | zero => rfl
  | succ n ih => simp [natToBytes, ih]

/-- The low bytes of a number are the number modulo their range. -/
@[simp] theorem bytesToNat_natToBytes (n x : Nat) : bytesToNat (natToBytes n x) = x % 2 ^ (8 * n) := by
  induction n generalizing x with
  | zero => simp [natToBytes, bytesToNat, Nat.mod_one]
  | succ n ih =>
    have hpow : 2 ^ (8 * (n + 1)) = 256 * 2 ^ (8 * n) := by rw [Nat.mul_succ, Nat.pow_add, Nat.mul_comm]
    rw [natToBytes, bytesToNat, ih, hpow, Nat.mod_mul, BitVec.toNat_ofNat]

/-- Bytes written read back. -/
@[simp] theorem readBytes_writeBytes (m : SMap 8) (a : Nat) (l : List Byte) : readBytes (writeBytes m a l) a l.length = l := by
  induction l generalizing m a with
  | nil => rfl
  | cons b l ih =>
    have hfirst : (writeBytes (m.set a b) (a + 1) l).get a = b := by simp [get_writeBytes]
    rw [writeBytes, List.length_cons, readBytes, hfirst, ih]

/-- A number written as little-endian bytes reads back. -/
theorem readNat_writeBytes (m : SMap 8) (a n x : Nat) : readNat (writeBytes m a (natToBytes n x)) a n = x % 2 ^ (8 * n) := by
  have hbytes := readBytes_writeBytes m a (natToBytes n x)
  rw [length_natToBytes] at hbytes
  rw [readNat, hbytes, bytesToNat_natToBytes]

/-- Bytes outside those written are as before. -/
theorem get_writeBytes_outside (m : SMap 8) {a b : Nat} {l : List Byte} (h : b < a ∨ a + l.length ≤ b) :
    (writeBytes m a l).get b = m.get b := by
  rw [get_writeBytes, if_neg (by omega)]

/-- Bytes written in two pieces, one after the other. -/
theorem writeBytes_append (m : SMap 8) (a : Nat) (l r : List Byte) :
    writeBytes m a (l ++ r) = writeBytes (writeBytes m a l) (a + l.length) r := by
  induction l generalizing m a with
  | nil => rfl
  | cons b l ih => rw [List.cons_append, writeBytes, ih, writeBytes, List.length_cons, Nat.add_right_comm, Nat.add_assoc]

/-- A store that spans lines writes its bytes as one, given fuel for its lines. -/
theorem Device.space_storeLong (d : Device) (t u : Space) (pa : Nat) (l : List Byte) (fuel : Nat)
    (hfuel : l.length + pa % 128 ≤ 128 * fuel) :
    (d.storeLong t pa l fuel).space u = if u = t then writeBytes (d.space t) pa l else d.space u := by
  induction fuel generalizing d pa l with
  | zero =>
    obtain rfl : l = [] := List.length_eq_zero_iff.mp (by omega)
    split
    next h => rw [h]; rfl
    next => rfl
  | succ n ih =>
    simp only [Device.storeLong]
    split
    · exact d.space_store t u pa l
    next hlong =>
      have hpiece : (l.take (128 - pa % 128)).length = 128 - pa % 128 := by exact List.length_take_of_le (by omega)
      have happend := writeBytes_append (d.space t) pa (l.take (128 - pa % 128)) (l.drop (128 - pa % 128))
      rw [List.take_append_drop, hpiece] at happend
      rw [ih _ _ _ (by rw [List.length_drop]; omega)]
      simp only [Device.space_store, if_true]
      split
      · exact happend.symm
      · rfl

/-- The fuel that stores of bytes are given is enough. -/
theorem storeLong_fuel (pa : Nat) (l : List Byte) : l.length + pa % 128 ≤ 128 * (l.length / 128 + 2) := by omega

/-- Settles O12: a store that spans lines is one write of its bytes in its space, and a write of bytes reads back. -/
theorem bytesReadBack : Obligations.BytesReadBack := by
  refine ⟨fun m a l => ⟨readBytes_writeBytes m a l, fun b => get_writeBytes_outside m, readNat_writeBytes m a,
    wf_writeBytes m a l⟩, fun d t pa l => ?_⟩
  have hspace (u : Space) := d.space_storeLong t u pa l _ (storeLong_fuel pa l)
  refine ⟨?_, fun u b h => ?_, fun u h => ?_⟩
  · rw [hspace, if_pos rfl, readBytes_writeBytes]
  · rw [hspace]
    split
    next hu => rw [hu, get_writeBytes_outside _ (h.resolve_left (not_not_intro hu))]
    next => rfl
  · rw [hspace]
    split
    next hu => exact wf_writeBytes _ pa l (hu ▸ h)
    next => exact h

end Sys2Proof.Machine

/-! SUPPORT and O60. The host's accesses: what MADDR, MOP and ATTNONCE read as after a write, and what an access into BAR2 does
(R8, R364, R365, R393, R412 to R414). -/

namespace Sys2Proof.Machine

/-! ### Writes of registers -/

/-- Outside reset a write into BAR0 does what its register does. -/
theorem exec_registerWrite_bar0 {s : State} (hr : s.plat.inReset = false) (off width : Nat) (v : W64) :
    exec (.registerWrite .bar0 off width v) s = .next (s.writeBar0 off width v) := by
  change execRegisterWrite .bar0 off width v s = _
  simp [execRegisterWrite, hr]

/-- Outside reset a write at the management port does what its register does. -/
theorem exec_registerWrite_i3c {s : State} (hr : s.plat.inReset = false) (off width : Nat) (v : W64) :
    exec (.registerWrite .i3c off width v) s = .next { s with plat := s.plat.writeI3c off width v } := by
  change execRegisterWrite .i3c off width v s = _
  simp [execRegisterWrite, hr]

/-- A write of all 8 bytes of a word leaves what was written. -/
theorem mergeWord_whole (old v : W64) : mergeWord old 0 8 v = v := by
  have hmask : BitVec.ofNat 64 ((2 ^ (8 * 8) - 1) * 2 ^ (8 * 0)) = BitVec.allOnes 64 := by decide
  simp only [mergeWord, hmask, BitVec.not_allOnes, BitVec.and_zero, BitVec.and_allOnes, Nat.mul_zero, BitVec.shiftLeft_zero,
    BitVec.zero_or]

/-- A write of MADDR acts on it alone. -/
theorem State.writeBar0_maddr (s : State) (v : W64) :
    s.writeBar0 0x100 8 v = { s with plat := { s.plat with maddr := v } } := by
  simp [State.writeBar0, mergeWord_whole]

theorem State.bar0Word_maddr (s : State) : s.bar0Word 0x100 = s.plat.maddr := by simp [State.bar0Word]

/-- MOP is write-only, and reads zero. -/
theorem State.bar0Word_mop (s : State) : s.bar0Word 0x108 = 0 := by simp [State.bar0Word]

/-! ### ATTNONCE -/

/-- A write of a word of ATTNONCE acts on it alone. -/
theorem Platform.writeI3c_nonce (p : Platform) {k : Nat} (hk : k < 8) (v : W64) :
    p.writeI3c (0x200 + 4 * k) 4 v = { p with nonce := setNonce p.nonce k (v.extractLsb' 0 32) } := by
  have hne : 0x200 + 4 * k ≠ 0x100 := by omega
  have hlt : 0x200 + 4 * k < 0x220 := by omega
  have hmod : (0x200 + 4 * k) % 4 = 0 := by omega
  simp [Platform.writeI3c, hne, hlt, hmod]

theorem Platform.i3cWord_nonce (p : Platform) {k : Nat} (hk : k < 8) :
    p.i3cWord (0x200 + 4 * k) = p.nonce.extractLsb' (32 * k) 32 := by
  have hlt : 0x200 + 4 * k < 0x220 := by omega
  have hbit : 8 * (0x200 + 4 * k - 0x200) = 32 * k := by omega
  unfold Platform.i3cWord
  rw [if_neg (by omega), if_neg (by omega), if_neg (by omega), if_neg (by omega), if_neg (by omega), if_neg (by omega),
    if_neg (by omega), if_neg (by omega), if_pos ⟨by omega, hlt⟩, hbit]

/-- The bits of ATTNONCE after a write of a word: those written, and the others as they were. -/
theorem getLsbD_setNonce (n : BitVec 256) (k b : Nat) (v : W32) (hb : b < 256) :
    (setNonce n k v).getLsbD b = if 32 * k ≤ b ∧ b < 32 * k + 32 then v.getLsbD (b - 32 * k) else n.getLsbD b := by
  have hmask : 0xFFFFFFFF#256 = (BitVec.allOnes 32).setWidth 256 := by decide
  simp only [setNonce, hmask, BitVec.getLsbD_or, BitVec.getLsbD_and, BitVec.getLsbD_not, BitVec.getLsbD_shiftLeft,
    BitVec.getLsbD_setWidth, BitVec.getLsbD_allOnes, hb, decide_true, Bool.true_and]
  split
  next h => simp [show ¬ b < 32 * k by omega, show b - 32 * k < 32 by omega, show b - 32 * k < 256 by omega]
  next h =>
    by_cases hlow : b < 32 * k
    · simp [hlow]
    · simp [hlow, show ¬ b - 32 * k < 32 by omega, BitVec.getLsbD_of_ge v (b - 32 * k) (by omega)]

/-- A word of ATTNONCE after a write of one: the word written, or the word as it was. -/
theorem extract_setNonce (n : BitVec 256) {j : Nat} (k : Nat) (v : W32) (hj : j < 8) :
    (setNonce n k v).extractLsb' (32 * j) 32 = if j = k then v else n.extractLsb' (32 * j) 32 := by
  apply BitVec.eq_of_getLsbD_eq
  intro b hb
  rw [BitVec.getLsbD_extractLsb', getLsbD_setNonce _ _ _ _ (by omega)]
  by_cases h : j = k
  · subst h
    simp [hb]
  · simp only [if_neg h, BitVec.getLsbD_extractLsb']
    rw [if_neg (by omega)]

/-! ### BAR2 -/

/-- Outside reset a read or write of some bytes through BAR2 reaches device memory once CP has risen. -/
theorem exec_bar2Access_risen {s : State} {a : HostAccess} (hr : s.plat.inReset = false) (hcarry : (accessShape a).2.2.2 = true)
    (hn : (accessShape a).2.1 ≠ 0) (hcp : s.plat.ready.getLsbD 63 = true) :
    exec (.bar2Access a) s = .next (s.memoryAccess a) := by
  change execBar2Access a s = _
  simp [execBar2Access, hr, hcarry, hn, hcp]

/-- Before CP has risen it reaches the staging buffer. -/
theorem exec_bar2Access_staging {s : State} {a : HostAccess} (hr : s.plat.inReset = false)
    (hcarry : (accessShape a).2.2.2 = true) (hn : (accessShape a).2.1 ≠ 0) (hcp : s.plat.ready.getLsbD 63 = false) :
    exec (.bar2Access a) s = .next (s.stagingAccess a) := by
  change execBar2Access a s = _
  simp only [execBar2Access, hr, hcarry, hn, hcp, Bool.not_true, Bool.or_false, decide_false, Bool.false_eq_true, if_false]

/-- A read within the memory, of bytes that are not poisoned, gives them. -/
theorem State.memoryAccess_read {s : State} {o n : Nat} (hcap : o + n ≤ s.plat.part.capacity)
    (hlines : linesReady s.plat.ready o n = true) (hpoison : s.dev.poisoned .dev o n = false) :
    s.memoryAccess (.read o n) = s.withDev { s.dev with hostRead := natToBytes n (readNat s.dev.mem o n) } := by
  simp [State.memoryAccess, accessShape, accessOn, hlines, hpoison, Nat.not_lt.mpr hcap]

/-- A write within the memory puts its bytes, and leaves no old code words (log entry 13). -/
theorem State.memoryAccess_write {s : State} {o : Nat} {l : List Byte} (hl : l ≠ []) (hcap : o + l.length ≤ s.plat.part.capacity)
    (hlines : linesReady s.plat.ready o l.length = true) :
    s.memoryAccess (.write o l) = s.withDev { s.dev.storeLong .dev o l (l.length / 128 + 2) with old := s.dev.old } := by
  simp [State.memoryAccess, accessShape, accessOn, hlines, hl, Nat.not_lt.mpr hcap]

/-- Settles O60, access by access. -/
theorem hostAccessCompletes : Obligations.HostAccessCompletes := by
  intro s hr
  refine ⟨exec_registerWrite_bar0 hr, exec_registerWrite_i3c hr, fun v => ?_, fun k v hk => ?_, s.bar0Word_mop,
    fun o n hn hcp hcap hlines hpoison => ?_, fun o l hl hcp hcap hlines => ?_, fun o l hl hcp => ?_⟩
  · exact ⟨_, exec_registerWrite_bar0 hr _ _ v, by rw [State.writeBar0_maddr, State.bar0Word_maddr], by
      rw [State.writeBar0_maddr]⟩
  · refine ⟨_, exec_registerWrite_i3c hr _ _ v, ?_, rfl, fun j hj hjk => ?_⟩
    · rw [Platform.writeI3c_nonce _ hk, Platform.i3cWord_nonce _ hk, extract_setNonce _ _ _ hk, if_pos rfl]
    · rw [Platform.writeI3c_nonce _ hk, Platform.i3cWord_nonce _ hj, Platform.i3cWord_nonce _ hj, extract_setNonce _ _ _ hj,
        if_neg hjk]
  · rw [exec_bar2Access_risen (a := .read o n) hr rfl hn hcp, State.memoryAccess_read hcap hlines hpoison]
  · have hlen : l.length ≠ 0 := mt List.length_eq_zero_iff.mp hl
    rw [exec_bar2Access_risen (a := .write o l) hr rfl hlen hcp, State.memoryAccess_write hl hcap hlines]
  · have hlen : l.length ≠ 0 := mt List.length_eq_zero_iff.mp hl
    rw [exec_bar2Access_staging (a := .write o l) hr rfl hlen hcp]
    rfl

end Sys2Proof.Machine

/-! SUPPORT. The lanes of splits (O10). The statement speaks of every state, also of one whose table of groups names a slot
twice: it does not ask for `AMap.wf`. There the group that SWCAN cancels is taken from the whole table and written back in
front, over the group that issues (R289), and the issuing split is then put into a group that is narrower than its lanes.
What holds of tables that name each slot once is not settled here. -/

namespace Sys2Proof.Machine

open Sys2Proof.Spec

/-- SWCAN of the swarm that s4 names, its answer in s6. -/
def cancelSeven : Instr :=
  .swcan { t := false, opt := 0, sub := 0, ms := .none, vb := 0, va := 0, md := 0, sb := 0, sa := 4, sd := 6 }

/-- Its words, the first lowest. -/
def cancelWords : Nat := (encode cancelSeven).foldr (fun w n => w.toNat + 2 ^ 32 * n) 0

/-- A LIVE swarm at the root of its context, with nothing of its own. -/
def bareSwarm : Swarm :=
  { st := .live, parent := 0, deadline := 0, aval := false, arst := false, arena := 0, prio := 0, expiry := none
    cause := 0, watch := 0, parked := 0 }

/-- A group of 16 lanes in swarm 7, with no split. -/
def narrowGroup : Group := { Group.fresh 0 1 0 0 16 320 0x10000 32 [] 0 0 0 with splits := [], swarm := 7 }

/-- A group of 32 lanes about to cancel swarm 7, and behind it, at the same slot, the narrow group of that swarm. -/
def slotTwice : State :=
  let s := State.reset.fetchReady cancelWords
  { s with dev := { s.dev with
      ctxs := s.dev.ctxs.upd 0 (fun c => { c with swarms := [(7, bareSwarm)] })
      groups := s.dev.groups.upd 0 (fun g => { g with s := g.s.set 4 7 }) ++ [(0, narrowGroup)] } }

/-- Every split of every group lies within its group's lanes. -/
def withinWidth (d : Device) : Bool :=
  d.groups.all fun p => p.2.splits.all fun sp => decide (sp.l &&& ~~~laneMask p.2.width = 0)

theorem withinWidth_of_lanesOk {d : Device} (h : LanesOk d) : withinWidth d = true := by
  simp only [withinWidth, List.all_eq_true, decide_eq_true_eq]
  exact fun p hp sp hsp => ((h p hp).1 sp hsp).2

theorem lanesOk_slotTwice : LanesOk slotTwice.dev := by
  unfold LanesOk
  decide +kernel

/-- A step that goes on to a state with a split past its group's lanes. -/
def leavesWidth (o : Host.Outcome State Fault Refusal) : Bool :=
  match o with
  | .next t => !withinWidth t.dev
  | _ => false

theorem exists_of_leavesWidth {o : Host.Outcome State Fault Refusal} (h : leavesWidth o = true) :
    ∃ t, o = .next t ∧ withinWidth t.dev = false := by
  cases o with
  | next t => exact ⟨t, rfl, by simpa [leavesWidth] using h⟩
  | fault f => cases h
  | refused r => cases h

/-- The step cancels, and leaves the 32 lanes of the split in the group of 16. -/
theorem step_slotTwice : leavesWidth (step slotTwice) = true := by decide +kernel

/-- Refutes O10: in a table of groups that names a slot twice, SWCAN writes the second group over the first, whose split
of 32 lanes then lands in a group of 16. -/
theorem not_lanesKept : ¬ Obligations.LanesKept := by
  unfold Obligations.LanesKept
  intro h
  obtain ⟨t, ht, hwide⟩ := exists_of_leavesWidth step_slotTwice
  have hok : LanesOk t.dev :=
    h slotTwice t lanesOk_slotTwice (fun _ => rfl) (fun _ _ _ _ e => by cases e) (fun _ _ _ e => by cases e) ht
  simp [withinWidth_of_lanesOk hok] at hwide

end Sys2Proof.Machine

/-! SUPPORT. Scalar instructions and the scalar registers (O15, O16): what a scalar instruction is on the view, and what a
write of scalar registers leaves alone. -/

namespace Sys2Proof.Machine

open Sys2Proof.Spec Sys2Proof.Safety

/-! ### The scalar instructions on the view (R97) -/

/-- SLI's four forms, chosen by the number of FN as by FN itself (R101). -/
theorem execSli_eq (f : FmtSI) (s : State) :
    execSli f s = s.scalar 12 (fun x =>
      if f.fn = 0 then x.setS f.sd.toNat f.lit
      else if f.fn = 1 then x.setPair f.sd.toNat (f.lit.signExtend 64)
      else if f.fn = 2 then x.setPair f.sd.toNat (f.lit.setWidth 64)
      else x.setS (f.sd.toNat + 1) f.lit) := by
  unfold execSli
  congr 1
  funext x
  simp only [← BitVec.toNat_inj]
  rcases h : f.fn.toNat with _ | _ | _ | n <;> simp

/-- A scalar instruction is its change of the view. -/
theorem exec_of_scalarView {i : Instr} {n : Nat} {f : View → View} (h : scalarView i = some (n, f)) (s : State) :
    exec i s = s.scalar n f := by
  cases i with
  | sli f => cases h; exact execSli_eq f s
  | nop | smov | smovPair | smovImm | sadd | saddImm | ssub | ssubImm | smul | smulImm | smulhs | smulhsImm | smulhn
    | smulhnImm | sand | sandImm | sor | sorImm | sxor | sxorImm | sandn | sandnImm | sshl | sshlImm | sshr | sshrImm
    | ssar | ssarImm | smin | sminImm | smax | smaxImm | sminn | sminnImm | smaxn | smaxnImm | sdivn | sdivnImm | sremn
    | sremnImm | scmp | sadd64 | sadd64Imm | ssub64 | ssub64Imm | slea | sleaImm | spopc | spopcL | sclz | sclzL | sbfx
    | sbfi | smask => cases h; rfl
  | _ => cases h

/-- It goes on, whatever E holds. -/
theorem exec_scalar_next {i : Instr} {n : Nat} {f : View → View} {s : State} {x : View} (h : scalarView i = some (n, f))
    (hx : s.issuer = some x) : exec i s = .next (s.after x ((f x).next n)) := by
  rw [exec_of_scalarView h]
  exact State.onView_view hx rfl rfl

/-! ### What a write of scalar registers leaves alone -/

/-- The view `y` differs from `x` at most in the `n` scalar registers from `k` on: in the stored ones among them, and in E
where one of them is s60 or above. -/
structure View.SameBut (k n : Nat) (x y : View) : Prop where
  group : ∃ m, y.g = { x.g with s := m }
  scalars : SameScalars (fun j => k ≤ j ∧ j < k + n) x.g y.g
  split : ∃ e, y.sp = { x.sp with e := e }
  exec : y.sp.e ≠ x.sp.e → 60 ≤ k + n - 1

namespace View.SameBut

variable {x y z : View} {k n k' n' : Nat}

theorem refl : View.SameBut k n x x := ⟨⟨_, rfl⟩, fun _ _ => rfl, ⟨_, rfl⟩, fun h => absurd rfl h⟩

theorem trans (hxy : View.SameBut k n x y) (hyz : View.SameBut k n y z) : View.SameBut k n x z where
  group := by
    obtain ⟨m, hm⟩ := hyz.group
    obtain ⟨m', hm'⟩ := hxy.group
    exact ⟨m, by rw [hm, hm']⟩
  scalars j hj := (hyz.scalars j hj).trans (hxy.scalars j hj)
  split := by
    obtain ⟨e, he⟩ := hyz.split
    obtain ⟨e', he'⟩ := hxy.split
    exact ⟨e, by rw [he, he']⟩
  exec h := by
    by_cases hy : y.sp.e = x.sp.e
    · exact hyz.exec (hy ▸ h)
    · exact hxy.exec hy

/-- It holds for a wider run of registers. -/
theorem mono (h : View.SameBut k n x y) (hlo : k' ≤ k) (hhi : k + n ≤ k' + n') : View.SameBut k' n' x y where
  group := h.group
  scalars j hj := h.scalars j (fun ⟨h1, h2⟩ => hj ⟨by omega, by omega⟩)
  split := h.split
  exec he := by have := h.exec he; omega

theorem lanes (h : View.SameBut k n x y) : y.sp.l = x.sp.l := by
  obtain ⟨e, he⟩ := h.split
  rw [he]

/-- Below s60 nothing of the split changes. -/
theorem split_eq (h : View.SameBut k n x y) (hk : k + n ≤ 60) : y.sp = x.sp := by
  obtain ⟨e, he⟩ := h.split
  have hsame : y.sp.e = x.sp.e := by
    by_contra hne
    have := h.exec hne
    omega
  obtain rfl : e = x.sp.e := by simpa [he] using hsame
  exact he

end View.SameBut

theorem View.sameBut_setS (x : View) (k : Nat) (v : W32) : View.SameBut k 1 x (x.setS k v) := by
  unfold View.setS
  split
  · exact .refl
  · split
    · exact ⟨⟨_, rfl⟩, fun _ _ => rfl, ⟨_, rfl⟩, fun _ => by omega⟩
    · exact ⟨⟨_, rfl⟩, fun j hj => SMap.get_set_ne _ _ (fun h => hj ⟨by omega, by omega⟩), ⟨_, rfl⟩,
        fun h => absurd rfl h⟩

theorem View.sameBut_setPair (x : View) (k : Nat) (v : W64) : View.SameBut k 2 x (x.setPair k v) :=
  .trans ((x.sameBut_setS k _).mono (by omega) (by omega)) ((View.sameBut_setS _ (k + 1) _).mono (by omega) (by omega))

theorem View.sameBut_setTriple (x : View) (k : Nat) (m : Mask) : View.SameBut (3 * k) 3 x (x.setTriple k m) := by
  unfold View.setTriple
  split
  · exact ⟨⟨_, rfl⟩, fun _ _ => rfl, ⟨_, rfl⟩, fun _ => by omega⟩
  · exact (((x.sameBut_setS _ _).mono (by omega) (by omega)).trans
      ((View.sameBut_setS _ _ _).mono (by omega) (by omega))).trans
      ((View.sameBut_setS _ _ _).mono (by omega) (by omega))

/-- A scalar instruction changes its destination alone. -/
theorem scalarView_sameBut {i : Instr} {n : Nat} {f : View → View} (h : scalarView i = some (n, f)) (x : View) :
    View.SameBut (scalarDest i).1 (scalarDest i).2 x (f x) := by
  cases i with
  | nop => cases h; exact .refl
  | smov | smovImm | sadd | saddImm | ssub | ssubImm | smul | smulImm | smulhs | smulhsImm | smulhn | smulhnImm | sand
    | sandImm | sor | sorImm | sxor | sxorImm | sandn | sandnImm | sshl | sshlImm | sshr | sshrImm | ssar | ssarImm | smin
    | sminImm | smax | smaxImm | sminn | sminnImm | smaxn | smaxnImm | sdivn | sdivnImm | sremn | sremnImm | scmp | spopc
    | spopcL | sclz | sclzL | sbfx | sbfi => cases h; exact x.sameBut_setS _ _
  | smovPair | sadd64 | sadd64Imm | ssub64 | ssub64Imm | slea | sleaImm => cases h; exact x.sameBut_setPair _ _
  | smask => cases h; exact x.sameBut_setTriple _ _
  | sli f =>
    cases h
    by_cases h0 : f.fn = 0
    · simpa [scalarDest, h0] using x.sameBut_setS _ _
    · by_cases h3 : f.fn = 3
      · simpa [scalarDest, h3] using x.sameBut_setS _ _
      · simp only [scalarDest, h0, h3, if_false]
        split
        · exact x.sameBut_setPair _ _
        · split
          · exact x.sameBut_setPair _ _
          · exact (x.sameBut_setS _ _).mono (by omega) (by omega)
  | _ => cases h

/-- Settles O15: a scalar instruction is a change of the view, and each of those writes its destination alone. -/
theorem scalarFrame : Obligations.ScalarFrame := by
  unfold Obligations.ScalarFrame
  intro i n f s t x hf _ hx ht
  rw [exec_scalar_next hf hx] at ht
  cases ht
  have hb := scalarView_sameBut hf x
  obtain ⟨m, hg⟩ := hb.group
  refine ⟨s.after_only _ _, s.after_bytes _ _, (f x).next n, rfl, ?_, ?_, ?_, ?_, hb.scalars, hb.lanes, hb.exec⟩
  all_goals simp [hg, SameSpecials]

/-! ### Words of a lane mask (R18) -/

@[simp] theorem maskWord_and (a b : Mask) (j : Nat) : maskWord (a &&& b) j = maskWord a j &&& maskWord b j := by
  ext i
  simp [maskWord]

theorem getLsbD_maskOf (w0 w1 w2 : W32) (k : Nat) :
    (maskOf w0 w1 w2).getLsbD k =
      if k < 32 then w0.getLsbD k else if k - 32 < 32 then w1.getLsbD (k - 32) else w2.getLsbD (k - 32 - 32) :=
  (BitVec.getLsbD_append ..).trans (by rw [BitVec.getLsbD_append])

theorem maskWord_maskOf (w0 w1 w2 : W32) :
    maskWord (maskOf w0 w1 w2) 0 = w0 ∧ maskWord (maskOf w0 w1 w2) 1 = w1 ∧ maskWord (maskOf w0 w1 w2) 2 = w2 := by
  refine ⟨?_, ?_, ?_⟩ <;> ext i hi
  · simp [maskWord, getLsbD_maskOf, hi]
  · simp [maskWord, getLsbD_maskOf, hi]
  · simp [maskWord, getLsbD_maskOf, show ¬ 64 + i < 32 by omega, show ¬ 64 + i - 32 < 32 by omega,
      show 64 + i - 32 - 32 = i by omega, hi]

/-- Replacing a word of a mask leaves the other two. -/
theorem maskWord_setMaskWord (m : Mask) (v : W32) {j q : Nat} (hj : j < 3) (hq : q < 3) :
    maskWord (setMaskWord m j v) q = if q = j then v else maskWord m q := by
  have hm := maskWord_maskOf
  rcases j with _ | _ | _ | j
  · rcases q with _ | _ | _ | q <;> simp [setMaskWord, hm]; omega
  · rcases q with _ | _ | _ | q <;> simp [setMaskWord, hm]; omega
  · rcases q with _ | _ | _ | q <;> simp [setMaskWord, hm]; omega
  · omega

/-- A mask without lanes outside another is its part in it. -/
theorem and_of_andNot_eq_zero {a b : Mask} (h : a &&& ~~~b = 0) : a &&& b = a := by
  ext i hi
  have := congrArg (·.getLsbD i) h
  simp [hi] at this ⊢
  tauto

/-! ### The scalar registers (R17, R18) -/

namespace View

@[simp] theorem s_63 (x : View) : x.s 63 = 0 := rfl

@[simp] theorem setS_63 (x : View) (v : W32) : x.setS 63 v = x := rfl

theorem s_exec (x : View) {j : Nat} (hj : j < 3) : x.s (60 + j) = maskWord x.sp.e j := by
  simp [View.s, show 60 + j ≠ 63 by omega]

theorem setS_exec (x : View) {j : Nat} (hj : j < 3) (v : W32) :
    x.setS (60 + j) v = { x with sp := { x.sp with e := setMaskWord x.sp.e j v &&& x.sp.l } } := by
  simp [View.setS, show 60 + j ≠ 63 by omega]

theorem s_stored (x : View) {k : Nat} (hk : k < 60) : x.s k = x.g.s.get k := by
  simp [View.s, show k ≠ 63 by omega, show ¬ 60 ≤ k by omega]

theorem setS_stored (x : View) {k : Nat} (hk : k < 60) (v : W32) :
    x.setS k v = { x with g := { x.g with s := x.g.s.set k v } } := by
  simp [View.setS, show k ≠ 63 by omega, show ¬ 60 ≤ k by omega]

/-- What s60 to s62 read after a write of one of them. -/
theorem s_setS_exec (x : View) (v : W32) {j q : Nat} (hj : j < 3) (hq : q < 3) :
    (x.setS (60 + j) v).s (60 + q) = (if q = j then v else maskWord x.sp.e q) &&& maskWord x.sp.l q := by
  rw [s_exec _ hq, setS_exec x hj, maskWord_and, maskWord_setMaskWord _ _ hj hq]

/-- With E within L, a write of one of s60 to s62 leaves the others. -/
theorem s_setS_exec_ne (x : View) (v : W32) {j q : Nat} (he : x.sp.e &&& ~~~x.sp.l = 0) (hj : j < 3) (hq : q < 3)
    (h : q ≠ j) : (x.setS (60 + j) v).s (60 + q) = x.s (60 + q) := by
  rw [s_setS_exec x v hj hq, if_neg h, s_exec x hq, ← maskWord_and, and_of_andNot_eq_zero he]

/-- A stored register reads back what was written, and no other stored one changes. -/
theorem s_setS_stored (x : View) (v : W32) {k q : Nat} (hk : k < 60) (hq : q < 60) :
    (x.setS k v).s q = if q = k then v else x.s q := by
  rw [s_stored _ hq, setS_stored x hk, SMap.get_set, s_stored x hq]

/-- The pair s60:61, each word ANDed with L. -/
theorem s_setPair_exec (x : View) (u : W64) (he : x.sp.e &&& ~~~x.sp.l = 0) :
    (x.setPair 60 u).s 60 = u.extractLsb' 0 32 &&& maskWord x.sp.l 0 ∧
      (x.setPair 60 u).s 61 = u.extractLsb' 32 32 &&& maskWord x.sp.l 1 ∧ (x.setPair 60 u).s 62 = x.s 62 := by
  have hin : (x.setS (60 + 0) (u.extractLsb' 0 32)).sp.e &&& ~~~(x.setS (60 + 0) (u.extractLsb' 0 32)).sp.l = 0 := by
    simp [setS_exec x (show 0 < 3 by omega), BitVec.and_assoc]
  unfold View.setPair
  refine ⟨?_, ?_, ?_⟩
  · exact (s_setS_exec_ne (j := 1) (q := 0) _ _ hin (by omega) (by omega) (by omega)).trans
      (s_setS_exec (j := 0) (q := 0) x _ (by omega) (by omega))
  · exact s_setS_exec (j := 1) (q := 1) _ _ (by omega) (by omega)
  · exact (s_setS_exec_ne (j := 1) (q := 2) _ _ hin (by omega) (by omega) (by omega)).trans
      (s_setS_exec_ne (j := 0) (q := 2) x _ he (by omega) (by omega) (by omega))

/-- t20 takes the lanes of L, which lie within the group's. -/
theorem setTriple_exec (x : View) (m : Mask) (hl : x.sp.l &&& ~~~laneMask x.g.width = 0) :
    x.setTriple 20 m = { x with sp := { x.sp with e := m &&& x.sp.l } } := by
  simp only [View.setTriple, if_true, BitVec.and_assoc, BitVec.and_comm (laneMask _), and_of_andNot_eq_zero hl]

end View

/-- Settles O16: the words of E are ANDed with L one by one, the other registers are a table. -/
theorem scalarRegisters : Obligations.ScalarRegisters := by
  unfold Obligations.ScalarRegisters
  refine ⟨fun x v u m => ⟨fun j hj => ?_, x.s_setPair_exec u, rfl, x.setTriple_exec m, rfl, rfl, fun k hk => ?_⟩, ?_⟩
  · refine ⟨x.s_exec hj, ?_, ?_, ?_, fun he q hq hne => x.s_setS_exec_ne v he hj hq hne, fun _ hl => ?_⟩
    · simp [x.s_setS_exec v hj hj]
    · rw [x.setS_exec hj]
    · rw [x.setS_exec hj]
    · simp [x.setS_exec hj, BitVec.and_assoc, hl]
  · refine ⟨?_, ?_, fun q hq hne => ?_⟩
    · simp [x.s_setS_stored v hk hk]
    · rw [x.setS_stored hk]
    · simp [x.s_setS_stored v hk hq, hne]
  · intro s x j a hx _ hj
    have hd : (BitVec.ofNat 6 (60 + j)).toNat = 60 + j := by simp; omega
    have h := exec_scalar_next (i := .smov (BitVec.ofNat 6 (60 + j)) a) rfl hx
    rwa [hd] at h

end Sys2Proof.Machine

/-! SUPPORT. The special registers (O20): what a read of each one gives, and what a write of one leaves of the others. -/

namespace Sys2Proof.Machine

section SpecialRegisters

variable (p : Platform) (r : SplitRef) (d : Device) (x : View) (g : Group) (w : W32)

/-! ### Words of the modulo descriptors, codebooks and handles (R31 to R34) -/

/-- The two words of a modulo descriptor. -/
theorem readSpecial_modulo {k : Nat} (hlo : 0x040 ≤ k) (hhi : k < 0x060) : (readSpecial p r d x k).2 =
    if k % 2 = 0 then x.g.wBase.get ((k - 0x040) / 2) else x.g.wSize.get ((k - 0x040) / 2) := by
  unfold readSpecial
  rw [if_neg (by omega), if_neg (by omega), if_pos (by omega)]

theorem readSpecial_book {k : Nat} (hlo : 0x060 ≤ k) (hhi : k < 0x0A0) :
    (readSpecial p r d x k).2 = (x.g.book ((k - 0x060) / 8)).extractLsb' (32 * (k % 8)) 32 := by
  unfold readSpecial
  rw [if_neg (by omega), if_neg (by omega), if_neg (by omega), if_pos (by omega)]

theorem readSpecial_handle {k : Nat} (hlo : 0x0A0 ≤ k) :
    (readSpecial p r d x k).2 = (x.g.h.get ((k - 0x100) / 8)).extractLsb' (32 * (k % 8)) 32 := by
  unfold readSpecial
  rw [if_neg (by omega), if_neg (by omega), if_neg (by omega), if_neg (by omega)]

theorem writeSpecial_modulo {k : Nat} (hlo : 0x040 ≤ k) (hhi : k < 0x060) : writeSpecial g k w =
    if k % 2 = 0 then { g with wBase := g.wBase.set ((k - 0x040) / 2) w }
    else { g with wSize := g.wSize.set ((k - 0x040) / 2) w } := by
  rw [writeSpecial, if_neg (by omega), if_neg (by omega), if_neg (by omega), if_neg (by omega), if_pos (by omega)]

theorem writeSpecial_book {k : Nat} (hlo : 0x060 ≤ k) : writeSpecial g k w = { g with
    q := g.q.set ((k - 0x060) / 8) (setWord256 (g.q.get ((k - 0x060) / 8)) (k % 8) w) } := by
  rw [writeSpecial, if_neg (by omega), if_neg (by omega), if_neg (by omega), if_neg (by omega), if_neg (by omega)]

/-- A word of a 256-bit register after a write of one. -/
theorem extract_setWord256 (v : BitVec 256) {i : Nat} (j : Nat) (hi : i < 8) :
    (setWord256 v j w).extractLsb' (32 * i) 32 = if i = j then w else v.extractLsb' (32 * i) 32 :=
  extract_setNonce v j w hi

/-- The codebooks after a write of a word of one past the fixed q0. -/
theorem book_writeSpecial {k : Nat} (hlo : 0x068 ≤ k) (q : Nat) : (writeSpecial g k w).book q =
    if q = (k - 0x060) / 8 then setWord256 (g.book q) (k % 8) w else g.book q := by
  rw [writeSpecial_book g w (by omega)]
  by_cases hq : q = (k - 0x060) / 8
  · have h0 : q ≠ 0 := by omega
    simp [Group.book, hq ▸ h0, hq]
  · simp [Group.book, hq, SMap.get_set_ne]

/-- What a word reads after a write of a word of a modulo descriptor. -/
theorem readSpecial_writeSpecial_modulo {m n : Nat} (hm : 0x040 ≤ m ∧ m < 0x050)
    (hn : (0x040 ≤ n ∧ n < 0x050) ∨ (0x060 ≤ n ∧ n < 0x0A0) ∨ (0x100 ≤ n ∧ n < 0x180)) :
    (readSpecial p r d { x with g := writeSpecial x.g m w } n).2 = if n = m then w else (readSpecial p r d x n).2 := by
  rw [writeSpecial_modulo _ _ hm.1 (by omega)]
  rcases hn with hn | hn | hn
  · rw [readSpecial_modulo _ _ _ _ hn.1 (by omega), readSpecial_modulo _ _ _ _ hn.1 (by omega)]
    by_cases h : n = m
    · by_cases hp : m % 2 = 0 <;> simp [h, hp]
    · have hne : n % 2 = m % 2 → (n - 0x040) / 2 ≠ (m - 0x040) / 2 := by omega
      by_cases hp : m % 2 = 0 <;> by_cases hq : n % 2 = 0 <;> simp only [hp, hq, h, if_true, if_false]
      · exact SMap.get_set_ne _ _ (hne (by omega))
      · exact SMap.get_set_ne _ _ (hne (by omega))
  · rw [readSpecial_book _ _ _ _ hn.1 hn.2, readSpecial_book _ _ _ _ hn.1 hn.2, if_neg (show n ≠ m by omega)]
    split <;> rfl
  · rw [readSpecial_handle _ _ _ _ (by omega), readSpecial_handle _ _ _ _ (by omega), if_neg (show n ≠ m by omega)]
    split <;> rfl

/-- What a word reads after a write of a word of a codebook. -/
theorem readSpecial_writeSpecial_book {m n : Nat} (hm : 0x068 ≤ m ∧ m < 0x0A0)
    (hn : (0x040 ≤ n ∧ n < 0x050) ∨ (0x060 ≤ n ∧ n < 0x0A0) ∨ (0x100 ≤ n ∧ n < 0x180)) :
    (readSpecial p r d { x with g := writeSpecial x.g m w } n).2 = if n = m then w else (readSpecial p r d x n).2 := by
  rcases hn with hn | hn | hn
  · rw [readSpecial_modulo _ _ _ _ hn.1 (by omega), readSpecial_modulo _ _ _ _ hn.1 (by omega),
      writeSpecial_book _ _ (by omega), if_neg (show n ≠ m by omega)]
  · rw [readSpecial_book _ _ _ _ hn.1 hn.2, readSpecial_book _ _ _ _ hn.1 hn.2, book_writeSpecial _ _ hm.1]
    by_cases hq : (n - 0x060) / 8 = (m - 0x060) / 8
    · rw [if_pos hq, extract_setWord256 _ _ _ (by omega)]
      exact if_congr (by omega) rfl rfl
    · rw [if_neg hq, if_neg (by rintro rfl; exact hq rfl)]
  · rw [readSpecial_handle _ _ _ _ (by omega), readSpecial_handle _ _ _ _ (by omega), writeSpecial_book _ _ (by omega),
      if_neg (show n ≠ m by omega)]

/-! ### The words that read alone (R29, R30, R39) -/

/-- Words 0 to 2 of the split's lanes. -/
theorem readSpecial_lanes {k : Nat} (hk : k < 3) :
    (readSpecial p r d x (0x00C + k)).2 = x.sp.l.extractLsb' (32 * k) 32 := by
  obtain rfl | rfl | rfl : k = 0 ∨ k = 1 ∨ k = 2 := by omega
  all_goals rfl

/-- The fixed codebook's words. -/
def book0Words : List W32 :=
  [0x3F000000, 0x3FC03F80, 0x40404000, 0x40C04080, 0xBF00FFFF, 0xBFC0BF80, 0xC040C000, 0xC0C0C080]

theorem readSpecial_book0 {k : Nat} (hk : k < 8) : (readSpecial p r d x (0x060 + k)).2 = book0Words.getD k 0 := by
  have hw : ∀ k < 8, book0.extractLsb' (32 * k) 32 = book0Words.getD k 0 := by decide
  rw [readSpecial_book _ _ _ _ (by omega) (by omega), show (0x060 + k - 0x060) / 8 = 0 by omega,
    show (0x060 + k) % 8 = k by omega, Group.book, if_pos rfl, hw k hk]

/-- The words of DEADLINE: all ones without one. -/
theorem readSpecial_deadline_none (h : d.deadlineOf x.g.ctx 4097 x.g.swarm = 0) :
    (readSpecial p r d x 0x016).2 = 0xFFFFFFFF ∧ (readSpecial p r d x 0x017).2 = 0xFFFFFFFF := by
  have hd : d.deadlineReg x.g = 0xFFFFFFFFFFFFFFFF := if_pos h
  constructor
  · exact (congrArg (BitVec.extractLsb' 0 32) hd).trans (by decide)
  · exact (congrArg (BitVec.extractLsb' 32 32) hd).trans (by decide)

theorem readSpecial_deadline {t : W64} (ht : t ≠ 0) (h : d.deadlineOf x.g.ctx 4097 x.g.swarm = t.toNat) :
    (readSpecial p r d x 0x017).2 ++ (readSpecial p r d x 0x016).2 = t := by
  have hd : d.deadlineReg x.g = t := by
    have h0 : t.toNat ≠ 0 := fun h0 => ht (BitVec.eq_of_toNat_eq h0)
    simp [Device.deadlineReg, h, h0]
  have hw : (d.deadlineReg x.g).extractLsb' 32 32 ++ (d.deadlineReg x.g).extractLsb' 0 32 = t := by
    rw [hd]
    exact BitVec.extractLsb'_append_extractLsb' (w := 32) (len := 32)
  exact hw

/-! ### The words that can be written (R32, R39) -/

/-- The low bits of a word, as a mask takes them. -/
theorem setWidth_extractLsb'_low (v : W32) {n : Nat} (hn : n < 32) :
    (v.extractLsb' 0 n).setWidth 32 = v &&& BitVec.ofNat 32 (2 ^ n - 1) := by
  apply BitVec.eq_of_toNat_eq
  have hlt : 2 ^ n < 2 ^ 32 := Nat.pow_lt_pow_right (by omega) hn
  simp [Nat.mod_eq_of_lt (show 2 ^ n - 1 < 4294967296 by omega), Nat.and_two_pow_sub_one_eq_mod]
  exact (Nat.mod_lt _ (Nat.two_pow_pos n)).trans hlt

theorem readSpecial_flags_writeSpecial :
    (readSpecial p r d { x with g := writeSpecial x.g 0x020 w } 0x020).2 = w &&& 0x7F := by
  change ((w.extractLsb' 0 7 ||| 0#7).setWidth 32 : W32) = _
  rw [BitVec.or_zero]
  exact setWidth_extractLsb'_low w (n := 7) (by omega)

theorem readSpecial_rmode_writeSpecial :
    (readSpecial p r d { x with g := writeSpecial x.g 0x021 w } 0x021).2 = w &&& 7 := by
  exact setWidth_extractLsb'_low w (n := 3) (by omega)

theorem readSpecial_seed_writeSpecial :
    (readSpecial p r d { x with g := writeSpecial x.g 0x022 w } 0x022).2 = w ∧
      (readSpecial p r d { x with g := writeSpecial x.g 0x023 w } 0x023).2 = w := by
  constructor
  · exact (BitVec.extractLsb'_append_of_lt (k := 1) (i := 0) (w := 32) (x := w)
      (y := x.g.seed.extractLsb' 32 32) (by omega)).trans BitVec.extractLsb'_eq_self
  · exact BitVec.extractLsb'_append_of_eq (k := 1) (i := 1) (w := 32) rfl

end SpecialRegisters

/-- Settles O20: the moves leave a view; each word reads its field, and a written word is one of a table's entries or of a
codebook's eight words. -/
theorem specialRegisters : Obligations.SpecialRegisters := by
  unfold Obligations.SpecialRegisters
  refine ⟨fun s x f hx => ⟨?_, ?_⟩, fun p r d x w => ?_⟩
  · show execSmovr f s = _
    unfold execSmovr
    exact State.onView_view hx rfl rfl
  · show execSmovw f s = _
    unfold execSmovw
    exact State.onView_view hx rfl rfl
  refine ⟨rfl, rfl, ⟨rfl, rfl, rfl, rfl, rfl, rfl, rfl⟩, rfl, rfl, rfl, rfl, rfl, rfl, rfl, rfl, rfl,
    readSpecial_flags_writeSpecial p r d x w, readSpecial_rmode_writeSpecial p r d x w,
    (readSpecial_seed_writeSpecial p r d x w).1, (readSpecial_seed_writeSpecial p r d x w).2, rfl,
    fun k hk => readSpecial_lanes p r d x hk, readSpecial_deadline_none p r d x, fun t => readSpecial_deadline p r d x,
    rfl, fun m hm => ?_, fun k hk => readSpecial_book0 p r d x hk, fun k j hk hj => ?_⟩
  · rcases hm with hm | hm
    · exact ⟨by rw [readSpecial_writeSpecial_modulo p r d x w hm (.inl hm), if_pos rfl],
        fun n hn hne => by rw [readSpecial_writeSpecial_modulo p r d x w hm hn, if_neg hne]⟩
    · exact ⟨by rw [readSpecial_writeSpecial_book p r d x w hm (by omega), if_pos rfl],
        fun n hn hne => by rw [readSpecial_writeSpecial_book p r d x w hm hn, if_neg hne]⟩
  · rw [readSpecial_handle _ _ _ _ (by omega), show (0x100 + 8 * k + j - 0x100) / 8 = k by omega,
      show (0x100 + 8 * k + j) % 8 = j by omega]

end Sys2Proof.Machine

/-! SUPPORT. Taking a trap (O21): every instruction that names vector registers checks them, and what a handler starts with. -/

namespace Sys2Proof.Machine

open Sys2Proof.Spec Sys2Proof.Safety

/-! ### The check of vector registers (R13, R14, R61) -/

/-- An issuing split whose group does not hold every register of the spans takes REGRANGE in the outcome `o`. -/
def State.RangeTraps (s : State) (spans : List (Nat × Nat)) (o : Host.Outcome State Fault Refusal) : Prop :=
  ∀ x, s.issuer = some x → x.g.inRange spans = false → x.g.inHandler = false →
    o = s.close x (s.dev.raise s.env s.cur.key x.g x.sp (regRange x))

/-- The issuing view's group is the one its slot holds. -/
theorem State.issuer_group {s : State} {x : View} (hx : s.issuer = some x) : s.dev.groups.get s.cur.key = some x.g :=
  State.viewAt_group (s := s) (core := s.cur.core) (slot := s.cur.slot) (lane := s.cur.lane) hx

theorem State.rangeTraps_nil (s : State) (o : Host.Outcome State Fault Refusal) : s.RangeTraps [] o :=
  fun _ _ h _ => by cases h

theorem State.onView_rangeTraps (s : State) (spans : List (Nat × Nat)) (f : View → Out) :
    s.RangeTraps spans (s.onView spans f) := fun _ hx hr _ => State.onView_range hx hr

theorem State.onDevice_rangeTraps (s : State) (spans : List (Nat × Nat)) (f : Env → SplitRef → Device → View → Res) :
    s.RangeTraps spans (s.onDevice spans f) := by
  intro x hx hr hh
  simp [State.onDevice, hx, hr, Device.apply, State.issuer_group hx, hh]

theorem State.vector_rangeTraps (s : State) (i : Instr) (n : Nat) (ms : Pred) (f : View → Mask → View) :
    s.RangeTraps i.spans (s.vector i n ms f) := s.onView_rangeTraps _ _

theorem State.vecV_rangeTraps (s : State) (i : Instr) (f : FmtV) (r : View → Nat → W32 × Flags) :
    s.RangeTraps i.spans (s.vecV i f r) := s.vector_rangeTraps _ _ _ _

theorem State.vecT_rangeTraps (s : State) (i : Instr) (f : FmtV) (r : View → Nat → Bool × Flags) :
    s.RangeTraps i.spans (s.vecT i f r) := s.vector_rangeTraps _ _ _ _

theorem State.access_rangeTraps (s : State) (i : Instr) (n : Nat) (ms : Pred)
    (f : Env → SplitRef → Device → View → Mask → Res) : s.RangeTraps i.spans (s.access i n ms f) :=
  s.onDevice_rangeTraps _ _

theorem State.barOp_rangeTraps (s : State) (i : Instr) (f : FmtT) (op : Env → SplitRef → Device → View → Barrier → Res) :
    s.RangeTraps i.spans (s.barOp i f op) := s.onDevice_rangeTraps _ _

theorem State.swarmOp_rangeTraps (s : State) (i : Instr) (f : FmtT) (acts : Swarm → Bool)
    (effect : Env → Device → View → Nat → Swarm → Except Miss Device) : s.RangeTraps i.spans (s.swarmOp i f acts effect) :=
  s.access_rangeTraps _ _ _ _

theorem State.copyOp_rangeTraps (s : State) (i : Instr) (f : FmtT) (go : Env → SplitRef → Device → View → List W64 → Res)
    (sealable : Bool) : s.RangeTraps i.spans (s.copyOp i f go sealable) := s.access_rangeTraps _ _ _ _

theorem State.colq_rangeTraps (s : State) (i : Instr) (f : FmtT) (regionBad : Region → Bool)
    (laneBad : Region → View → Nat → Bool) (query : View → Nat → Query) :
    s.RangeTraps i.spans (s.colq i f regionBad laneBad query) := s.access_rangeTraps _ _ _ _

theorem State.poolOnce_rangeTraps (s : State) (i : Instr) (f : FmtT) (limit : Nat)
    (go : Env → SplitRef → Device → View → Nat → Res) : s.RangeTraps i.spans (s.poolOnce i f limit go) :=
  s.access_rangeTraps _ _ _ _

theorem State.modulo_rangeTraps (s : State) (i : Instr) (f : FmtM)
    (go : SplitRef → Device → View → Nat → List (Nat × Nat) → (View → View) → Res) : s.RangeTraps i.spans (s.modulo i f go) :=
  s.access_rangeTraps _ _ _ _

/-- Every instruction that names vector registers checks them; the others name none. -/
theorem exec_rangeTraps (i : Instr) (s : State) : s.RangeTraps i.spans (exec i s) := by
  cases i with
  | mma | mmas | aclr | adrain | amerge | mtrans =>
    dsimp only [exec]
    exact s.onView_rangeTraps _ _
  | vli | vbcst | vlane | vscan | vrowmap | vbfx | vv2s | vcvt | vcvts | vrand | vseed | vdot8 | vdot4 | vred =>
    dsimp only [exec]
    exact s.vector_rangeTraps _ _ _ _
  | vmov | vadd | vsub | vmul | vmulh | vmad | vand | vor | vxor | vandn | vshl | vshr | vsar | vmin | vmax | vabs | vsel |
    vpopc | vclz | vshuf | vpack | vunpk | vfadd | vfsub | vfmul | vfma | vfms | vfmin | vfmax | vfabs | vfneg | vfdiv |
    vfsqrt | vfclass | vfadda | vfdot2 | vfscale | vfrnd | vrcp | vrsq | vexp2 | vlog2 | vsin | vcos | vtanh | vsigm |
    vmkabs =>
    dsimp only [exec]
    exact s.vecV_rangeTraps _ _ _
  | vcmp | vfcmp | visabs =>
    dsimp only [exec]
    exact s.vecT_rangeTraps _ _ _
  | gqpop =>
    dsimp only [exec]
    exact s.onDevice_rangeTraps _ _
  | qld | ldg | stg | lds | sts | ldfrag | ldu | stsc | atomg | atoms | redg | bestmax | tld | tst | hld | citer | ccount |
    fence | cache | disc | spawn | jrec | fnew | fres | fwait | fpoll | freg | fcan | swnew | gqcfg | gqpush | gqflush |
    palloc | pfree | hstw | sigdec =>
    dsimp only [exec]
    exact s.access_rangeTraps _ _ _ _
  | barInit | barArrive | barWait | barExpect | barTest =>
    dsimp only [exec]
    exact s.barOp_rangeTraps _ _ _
  | swdl | swcan | swendClose | swendRun =>
    dsimp only [exec]
    exact s.swarmOp_rangeTraps _ _ _ _
  | cpy | cpydn | dyns =>
    dsimp only [exec]
    exact s.copyOp_rangeTraps _ _ _ _
  | colqQpoint | colqQsphere | colqQseg =>
    dsimp only [exec]
    exact s.colq_rangeTraps _ _ _ _ _
  | pdef | preset | regdef =>
    dsimp only [exec]
    exact s.poolOnce_rangeTraps _ _ _ _
  | ldsm | stsm =>
    dsimp only [exec]
    exact s.modulo_rangeTraps _ _ _
  | _ => exact s.rangeTraps_nil _

/-! ### The handling split's view (R122) -/

/-- The view with which a handler starts: at TVEC, with the frame's address, ADDR, the CODE word and LANES in s52 to s59. -/
def View.entered (g : Group) (sp : Split) (frame : W64) (w : WaitingTrap) : View :=
  let x : View := { g := { g with inHandler := true }
                    sp := { sp with park := .running, pc := g.tvec, handling := true, trapped := false } }
  (((x.setPair 52 frame).setPair 54 w.addr).setS 56 (w.code.extractLsb' 0 32)).setTriple 19 w.lanes

theorem Device.enter_entered {d d1 : Device} {e : Env} {key : Nat} {g : Group} {sp : Split} {w : WaitingTrap}
    (h : d.write e.plat e.tick g.ctx (Agent.copier (key / 48)) false (d.blockAt g)
      (frameBytes w.trappc w.resume w.addr w.code w.lanes sp.e g.saved) = .ok d1) :
    d.enter e key g sp w = .ok (d1.putGroup key ((View.entered g sp (d.blockAt g) w).g.put sp.low
      [(View.entered g sp (d.blockAt g) w).sp])) := by
  simp only [Device.enter, h, View.entered]

/-- A trap that the group's handler takes enters it. -/
theorem Device.raise_enter {d : Device} {e : Env} {key : Nat} {g : Group} {sp : Split} {t : TrapReq} (hc : t.code ≠ 0x0D)
    (hs : g.sealBuf = none) (hh : g.inHandler = false) (hv : g.tvec ≠ 0) :
    d.raise e key g sp t = d.enter e key g sp (t.waiting sp) := by
  simp [Device.raise, hc, hs, hh, show ¬ g.tvec = 0#64 from hv]

section Entered

variable (g : Group) (sp : Split) (frame : W64) (w : WaitingTrap)

/-- Entering writes s52 to s59. -/
theorem View.sameBut_entered : View.SameBut 52 8
    { g := { g with inHandler := true }
      sp := { sp with park := .running, pc := g.tvec, handling := true, trapped := false } } (View.entered g sp frame w) :=
  ((((View.sameBut_setPair _ 52 _).mono (by omega) (by omega)).trans
    ((View.sameBut_setPair _ 54 _).mono (by omega) (by omega))).trans
    ((View.sameBut_setS _ 56 _).mono (by omega) (by omega))).trans
    ((View.sameBut_setTriple _ 19 _).mono (by omega) (by omega))

theorem View.entered_sp : (View.entered g sp frame w).sp =
    { sp with park := .running, pc := g.tvec, handling := true, trapped := false } :=
  (View.sameBut_entered g sp frame w).split_eq (by omega)

theorem View.entered_g : ∃ m, (View.entered g sp frame w).g = { g with inHandler := true, s := m } :=
  (View.sameBut_entered g sp frame w).group

/-- A triple's words join to the mask they were cut from. -/
theorem maskOf_maskWord (m : Mask) : maskOf (maskWord m 0) (maskWord m 1) (maskWord m 2) = m := by
  apply BitVec.eq_of_getLsbD_eq
  intro i hi
  rw [getLsbD_maskOf]
  simp only [maskWord, BitVec.getLsbD_extractLsb']
  split
  · simp [*]
  · split
    · simp [*, show 32 + (i - 32) = i by omega]
    · simp [show i - 32 - 32 < 32 by omega, show 64 + (i - 32 - 32) = i by omega]

/-- The words of the entered view. -/
theorem View.entered_words : (View.entered g sp frame w).pair 52 = frame ∧ (View.entered g sp frame w).pair 54 = w.addr ∧
    (View.entered g sp frame w).s 56 = w.code.extractLsb' 0 32 ∧
    (View.entered g sp frame w).triple 19 = w.lanes &&& laneMask g.width := by
  have hpair (v : W64) : v.extractLsb' 32 32 ++ v.extractLsb' 0 32 = v :=
    BitVec.extractLsb'_append_extractLsb' (w := 32) (len := 32)
  refine ⟨?_, ?_, ?_, ?_⟩
  all_goals simp [View.entered, View.pair, View.triple, View.setPair, View.setTriple, View.setS_stored, View.s_stored,
    SMap.get_set, hpair, -maskWord_and, maskOf_maskWord]

/-- Outside s52 to s59 every scalar register is as it was. -/
theorem View.sameScalars_entered : SameScalars (fun k => 52 ≤ k ∧ k < 60) g (View.entered g sp frame w).g :=
  (View.sameBut_entered g sp frame w).scalars

end Entered

/-- The low half of a doubleword number is that number as a word. -/
theorem extract_ofNat_low (n : Nat) : (BitVec.ofNat 64 n).extractLsb' 0 32 = BitVec.ofNat 32 n := by
  apply BitVec.eq_of_toNat_eq
  simp

/-- A trap that a group with a free handler takes: the frame written, the handling split in the group. -/
theorem Device.raise_enters {d d1 : Device} {e : Env} {key : Nat} {g : Group} {sp : Split} {t : TrapReq}
    (hc : t.code ≠ 0x0D) (hs : g.sealBuf = none) (hh : g.inHandler = false) (hv : g.tvec ≠ 0)
    (hw : d.write e.plat e.tick g.ctx (Agent.copier (key / 48)) false (d.blockAt g)
      (frameBytes sp.pc (if 0x80 ≤ t.code then sp.pc + 4 else sp.pc) t.addr
        (BitVec.ofNat 64 (t.code % 256 + t.detail % 256 * 256)) t.lanes sp.e g.saved) = .ok d1) :
    ∃ h : View, d.raise e key g sp t = .ok (d1.putGroup key (h.g.put sp.low [h.sp])) ∧
      h.g.inHandler = true ∧ h.sp.handling = true ∧ h.sp.pc = g.tvec ∧ h.sp.l = sp.l ∧ h.sp.e = sp.e ∧
      h.pair 52 = d.blockAt g ∧ h.pair 54 = t.addr ∧
      h.s 56 = BitVec.ofNat 32 (t.code % 256 + t.detail % 256 * 256) ∧
      h.triple 19 = t.lanes &&& laneMask g.width ∧
      h.g.v = g.v ∧ SameScalars (fun k => 52 ≤ k ∧ k < 60) g h.g := by
  obtain ⟨h52, h54, h56, h19⟩ := View.entered_words g sp (d.blockAt g) (t.waiting sp)
  obtain ⟨m, hg⟩ := View.entered_g g sp (d.blockAt g) (t.waiting sp)
  have hsp := View.entered_sp g sp (d.blockAt g) (t.waiting sp)
  refine ⟨View.entered g sp (d.blockAt g) (t.waiting sp), ?_, by rw [hg], by rw [hsp], by rw [hsp], by rw [hsp],
    by rw [hsp], h52, h54, h56.trans (extract_ofNat_low _), h19, by rw [hg], View.sameScalars_entered _ _ _ _⟩
  rw [Device.raise_enter hc hs hh hv, Device.enter_entered (w := t.waiting sp) hw]

/-- TRAP, a word that is no instruction, a failed fetch and a register out of range raise their trap on the issuing split. -/
theorem exec_raises {s : State} {x : View} {i : Instr} {t : TrapReq} (hx : s.issuer = some x) (hh : x.g.inHandler = false)
    (h : (∃ k : BitVec 7, i = .trap k ∧ t = { code := 0x80 + k.toNat, lanes := x.sp.e }) ∨
      (i = .illop ∧ t = { code := 0x01, lanes := x.sp.e }) ∨
      (∃ c det a, c ≠ 0x0D ∧ i = .fetchFault c det a ∧ t = { code := c, detail := det, addr := a, lanes := x.sp.e }) ∨
      (x.g.inRange i.spans = false ∧ t = { code := 0x02, lanes := x.sp.e })) :
    t.code ≠ 0x0D ∧ exec i s = s.close x (s.dev.raise s.env s.cur.key x.g x.sp t) := by
  rcases h with ⟨k, rfl, rfl⟩ | ⟨rfl, rfl⟩ | ⟨c, det, a, hc, rfl, rfl⟩ | ⟨hr, rfl⟩
  · have hc : 0x80 + k.toNat ≠ 0x0D := by omega
    exact ⟨hc, State.onView_trap (spans := []) (f := fun x => .trap { code := 0x80 + k.toNat, lanes := x.sp.e }) hx rfl rfl⟩
  · exact ⟨by simp, State.onView_trap (spans := []) (f := fun x => .trap { code := 0x01, lanes := x.sp.e }) hx rfl rfl⟩
  · exact ⟨hc, State.onView_trap (spans := [])
      (f := fun x => .trap { code := c, detail := det, addr := a, lanes := x.sp.e }) hx rfl rfl⟩
  · exact ⟨by simp, exec_rangeTraps i s x hx hr hh⟩

/-- Settles O21: every trap of the second part is one the device raises, and a group with a free handler enters it. -/
theorem trapEnters : Obligations.TrapEnters := by
  unfold Obligations.TrapEnters
  refine ⟨fun d e key g sp t d1 hc hs hh hv hw => Device.raise_enters hc hs hh hv hw,
    fun s x i t d1 hx hi hs hh hv hw => ?_⟩
  obtain ⟨hc, he⟩ := exec_raises hx hh hi
  obtain ⟨h, hr, hin, -, hpc, -, -, h52, h54, h56, h19, hvec, hsc⟩ := Device.raise_enters (e := s.env) hc hs hh hv hw
  refine ⟨h, ?_, hin, hpc, h52, h54, h56, h19, hvec, hsc⟩
  rw [he, hr]
  rfl

end Sys2Proof.Machine

/-! SUPPORT. The events of a group and of what it waits for (O49): one lemma for each event that is due. -/

namespace Sys2Proof.Machine

/-! ### Tables -/

/-- A table with every entry changed. -/
theorem AMap.get_mapV {α : Type} (m : AMap α) (f : Nat → α → α) (a : Nat) : (m.mapV f).get a = (m.get a).map (f a) := by
  induction m with
  | nil => rfl
  | cons p m ih =>
    have hcons : AMap.mapV (p :: m) f = (p.1, f p.1 p.2) :: AMap.mapV m f := rfl
    rw [hcons]
    by_cases h : a = p.1
    · simp [AMap.get, h]
    · simpa [AMap.get, h] using ih

/-- An entry that is there, changed. -/
theorem AMap.upd_of_get {α : Type} {m : AMap α} {a : Nat} {x : α} (f : α → α) (h : m.get a = some x) :
    m.upd a f = m.set a (f x) := by simp [AMap.upd, h]

/-! ### Events of one group (R33, R126, R214, R215, R234) -/

section OfGroup

variable {s : State} {core slot : Nat} {g : Group} (hg : s.dev.groups.get (slotKey core slot) = some g)

include hg

theorem execInstructionComplete_due {f : Flags} {fs : List Flags} (h : g.inflight = f :: fs) :
    execInstructionComplete core slot s =
      .next (s.withDev (s.dev.putGroup (slotKey core slot) { g with fx := g.fx ||| f, inflight := fs })) := by
  unfold execInstructionComplete
  exact State.onGroup_some hg (by simp [Group.mergeFirst, h])

theorem execStarvationBoost_due (hb : g.boosted = false) (hc : g.lastCycle + 2048 ≤ s.plat.cycles.toNat + 1)
    (hr : s.dev.readySplits (slotKey core slot) g ≠ []) : execStarvationBoost core slot s =
      .next (s.withDev (s.dev.putGroup (slotKey core slot) { g with boosted := true })) := by
  unfold execStarvationBoost
  exact State.onGroup_some hg (by simp [hb, Group.starved, State.env, hc, hr])

theorem execSplitFillDone_due {lane c : Nat} {sp t1 : Split} (hsp : g.splitAt lane = some sp)
    (hf : sp.spilled = some (c + 1)) (hc : c + 16 ≤ s.plat.cycles.toNat) (hin : s.dev.entryIn s.env g sp = some t1) :
    execSplitFillDone core slot lane s = .next (s.withDev (s.dev.putGroup (slotKey core slot)
      { g with splits := g.splits.map (fun t => if t.low = sp.low then t1 else t) })) := by
  unfold execSplitFillDone
  have hnow : c + 16 ≤ s.env.plat.cycles.toNat := hc
  exact State.onGroup_some hg (by simp [hsp, hf, hnow, hin])

theorem execSealStoreStallEnd_due (h : g.sealStalled = true) : execSealStoreStallEnd core slot s =
    .next (s.withDev (s.dev.putGroup (slotKey core slot) (g.sealGo (sealUnits - s.dev.sealUsed core)))) := by
  unfold execSealStoreStallEnd
  exact State.onGroup_some hg (by simp [h])

omit hg in
/-- CANCEL is due in an open group that runs no handler, once no split is inside an instruction. -/
theorem Group.cancelDue_of_open (hp : g.cancelPend = true) (hs : g.sealBuf = none) (hh : g.inHandler = false)
    (hl : g.phase = .live) (hin : ∀ t ∈ g.splits, t.inside = false) : g.cancelDue = true := by
  simp +contextual [Group.cancelDue, Group.cancelWaits, hp, hs, hh, hl, hin]

theorem execCancelDelivery_due {d : Device} {sp : Split} {rest : List Split} (hdue : g.cancelDue = true)
    (hfirst : g.splits.foldr insertSplit [] = sp :: rest)
    (hd : (s.dev.disarm { core, slot, lane := 0 } sp.low).raise s.env (slotKey core slot)
      { g.mergeFlags with cancelPend := false } sp.withdrawn { code := 0x0E, lanes := allLanes g.splits } = .ok d) :
    execCancelDelivery core slot s = .next (s.withDev d) := by
  have hdel : s.dev.deliverCancel s.env { core, slot, lane := 0 } g = .ok d := by
    unfold Device.deliverCancel
    simp only [Group.mergeFlags_splits, hfirst]
    exact hd
  unfold execCancelDelivery
  exact State.onDev_ok (by simp [hg, hdue, hdel])

end OfGroup

/-! ### Pages (R385, R388) -/

/-- A walk that ends at a page leaves its translation. -/
theorem execPageWalkDone_due {s : State} {cluster ctx : Nat} {va : W64} {c : Ctx} {r : Found}
    (hc : s.dev.ctxs.get ctx = some c) (hk : cluster < 8) (hno : s.dev.tlbFind cluster ctx va.toNat = none)
    (hw : s.dev.walk s.plat.ready s.tick s.plat.part.capacity cluster ctx va.toNat 4 c.ptroot.toNat = .ok r) :
    execPageWalkDone cluster ctx va s = .next (s.withDev (s.dev.touch (Agent.engine cluster) ctx va .load
      { space := spaceOf (pteTgt r.leaf.entry), pa := pteAddr r.leaf.entry + va.toNat % r.leaf.size
        cls := pteCls r.leaf.entry, seq := pteSeq r.leaf.entry, leaf := r.leaf, path := r.path })) := by
  have hk' : ¬ 8 ≤ cluster := by omega
  simp [execPageWalkDone, hc, hk', hno, hw]

/-- A split whose pages have all come, or of which one has been removed, issues again. -/
theorem Split.pageCame_running {came removed : W64 → Bool} {sp : Split} {l : List W64} (hp : sp.park = .stall (.page l))
    (h : l.all came = true ∨ l.any removed = true) : sp.pageCame came removed = { sp with park := .running } := by
  have hleft : ((l.filter (fun va => !came va)).isEmpty || l.any removed) = true := by
    rcases h with h | h
    · have hnil : l.filter (fun va => !came va) = [] := by simpa [List.filter_eq_nil_iff] using h
      simp [hnil]
    · simp only [h, Bool.or_true]
  simp only [Split.pageCame, hp, hleft, if_true]

/-- A split waits on for the pages that have not come. -/
theorem Split.pageCame_waits {came removed : W64 → Bool} {sp : Split} {l : List W64} (hp : sp.park = .stall (.page l))
    (hc : l.all came = false) (hr : l.any removed = false) :
    sp.pageCame came removed = { sp with park := .stall (.page (l.filter (fun a => !came a))) } := by
  have hleft : ((l.filter (fun va => !came va)).isEmpty || l.any removed) = false := by
    rw [hr, Bool.or_false]
    simpa [List.filter_eq_nil_iff] using hc
  simp [Split.pageCame, hp, hleft]

/-- What RESIDENCY_WAIT_END leaves: the requests for pages that have come go, and the splits of the context's groups are told. -/
def Device.residencyEnd (d : Device) (e : Env) (ctx : Nat) : Device :=
  { d with
    pageReqs := d.pageReqs.filter (fun p => !(p.1 = ctx && !d.absentPage e ctx p.2))
    groups := d.groups.mapV (fun _ g =>
      if g.ctx = ctx then { g with splits := settleSplits (g.splits.map
        (Split.pageCame (fun a => !d.absentPage e ctx a) (d.removedPage e ctx))) } else g) }

theorem execResidencyWaitEnd_due {s : State} {ctx : Nat} {va : W64} (h : s.dev.absentPage s.env ctx va = false) :
    execResidencyWaitEnd ctx va s = .next (s.withDev (s.dev.residencyEnd s.env ctx)) := by
  simp [execResidencyWaitEnd, State.whenDue, h, Device.residencyEnd]

/-! ### Stamps and interrupts (R255, R375) -/

/-- Every write of a group that is there is performed, at .dev or at .core. -/
theorem execDrainStampReached_found {s : State} {guid : Nat} {n : Drain} {p : Nat × Group}
    (hn : s.dev.drains.get guid = some n) (hp : s.dev.groups.find? (fun p => p.2.guid = guid) = some p) :
    execDrainStampReached (2 * guid + 1) s = .next (s.withDev { s.dev with
      drains := s.dev.drains.set guid { n with core := p.2.writes, done := p.2.writes, issued := p.2.writes } }) ∧
    execDrainStampReached (2 * guid) s = .next (s.withDev { s.dev with
      drains := s.dev.drains.set guid { n with core := p.2.writes, issued := p.2.writes } }) := by
  have hodd : (2 * guid + 1) / 2 = guid := by omega
  simp [execDrainStampReached, State.whenDue, hodd, hn, hp, AMap.upd_of_get _ hn]

/-- A group that has gone needs no count once its writes are performed at .dev. -/
theorem execDrainStampReached_gone {s : State} {guid : Nat} {n : Drain}
    (hn : s.dev.drains.get guid = some n) (hp : s.dev.groups.find? (fun p => p.2.guid = guid) = none) :
    execDrainStampReached (2 * guid + 1) s = .next (s.withDev { s.dev with
      drains := s.dev.drains.erase guid, futStamps := s.dev.futStamps.filter (fun t => t.stamp.guid ≠ guid) }) ∧
    execDrainStampReached (2 * guid) s = .next (s.withDev { s.dev with
      drains := s.dev.drains.set guid { n with core := n.issued } }) := by
  have hodd : (2 * guid + 1) / 2 = guid := by omega
  simp [execDrainStampReached, State.whenDue, hodd, hn, hp, AMap.upd_of_get _ hn]

theorem execCoalesceTimeout_due {s : State} {vec n : Nat} {t : W64} (hp : s.dev.msix.pending.get vec = some (n, t))
    (hn : n ≠ 0) (ht : s.dev.msix.tus vec ≠ 0) (hd : t.toNat + 1000 * s.dev.msix.tus vec ≤ s.plat.dtime.toNat) :
    execCoalesceTimeout vec s = .next (s.withDev { s.dev with
      msix := { s.dev.msix.send vec with pending := s.dev.msix.pending.erase vec } }) := by
  simp [execCoalesceTimeout, State.whenDue, hp, hn, ht, hd]

/-- What the end of a residency wait leaves of the requests and of each group. -/
theorem Device.residencyEnd_pageReqs {d : Device} {e : Env} {ctx : Nat} {va : W64} (h : d.absentPage e ctx va = false) :
    (d.residencyEnd e ctx).pageReqs.contains (ctx, va) = false := by
  simp [Device.residencyEnd, h]

theorem Device.residencyEnd_group (d : Device) (e : Env) (ctx key : Nat) :
    (d.residencyEnd e ctx).groups.get key = (d.groups.get key).map (fun g =>
      if g.ctx = ctx then { g with splits := settleSplits (g.splits.map
        (Split.pageCame (fun a => !d.absentPage e ctx a) (d.removedPage e ctx))) } else g) := by
  simp only [Device.residencyEnd, AMap.get_mapV]

/-- Settles O49: each event, when due, leaves what its definition gives. -/
theorem groupEventsComplete : Obligations.GroupEventsComplete := by
  unfold Obligations.GroupEventsComplete
  refine ⟨fun s core slot g hg => ⟨?_, ?_, ?_, ?_, ?_⟩, fun s => ⟨?_, ?_, ?_, ?_, ?_⟩⟩
  · exact fun _ _ h => execInstructionComplete_due hg h
  · exact fun hb hc hr => execStarvationBoost_due hg hb hc hr
  · exact fun _ _ _ _ hsp hf hc hin => execSplitFillDone_due hg hsp hf hc hin
  · exact fun h => execSealStoreStallEnd_due hg h
  · exact fun _ _ _ hp hs hh hl hin hfirst hd =>
      execCancelDelivery_due hg (Group.cancelDue_of_open hp hs hh hl hin) hfirst hd
  · exact fun _ _ _ _ _ hc hk hno hw => execPageWalkDone_due hc hk hno hw
  · intro ctx va h
    refine ⟨_, execResidencyWaitEnd_due h, rfl, Device.residencyEnd_pageReqs h, rfl, fun key g hg hctx => ?_,
      fun key g hg hctx => ?_, fun key hg => ?_, rfl⟩
    · exact (Device.residencyEnd_group _ _ _ _).trans (by simp [hg, hctx])
    · exact (Device.residencyEnd_group _ _ _ _).trans (by simp [hg, hctx])
    · exact (Device.residencyEnd_group _ _ _ _).trans (by simp [hg])
  · exact fun _ _ _ _ hp => ⟨Split.pageCame_running hp, Split.pageCame_waits hp⟩
  · exact fun _ _ hn => ⟨fun _ hp => execDrainStampReached_found hn hp, execDrainStampReached_gone hn⟩
  · exact fun _ _ _ hp hn ht hd => execCoalesceTimeout_due hp hn ht hd

end Sys2Proof.Machine

/-! SUPPORT and O29. The reduction of R47: terms that are ABSENT are left out of it, and ABSENT passes through products and
sums without a flag. -/

namespace Sys2Proof.Machine

variable {a b : XVal}

theorem XVal.mul_of_absent (h : a = .absent ∨ b = .absent) : a.mul b = (.absent, 0) := by
  rcases h with rfl | rfl
  · cases b <;> rfl
  · cases a <;> rfl

theorem addX_of_absent (mode : RMode) (h : a = .absent ∨ b = .absent) : addX mode a b = (.absent, 0) := by
  rcases h with rfl | rfl <;> simp [addX, XVal.present]

/-- The reduction sees of its terms only the present ones. -/
theorem reduce_congr_present (mode : RMode) (c : Option W32) {l m : List (XVal × Flags)}
    (h : l.filter (fun t => t.1.present) = m.filter (fun t => t.1.present)) : reduce mode c l = reduce mode c m := by
  simp only [reduce, h]

/-- Settles O29: an ABSENT term is left out by the filter for present terms, wherever it stands. -/
theorem absentIsIdentity : Obligations.AbsentIsIdentity := by
  unfold Obligations.AbsentIsIdentity
  intro mode c l m f
  refine ⟨rfl, reduce_congr_present mode _ ?_, fun a b h => ⟨by rw [XVal.mul_of_absent h], addX_of_absent mode h⟩⟩
  have hout : ((XVal.absent, f) :: m).filter (fun t => t.1.present) = m.filter (fun t => t.1.present) := rfl
  rw [List.filter_append, hout, List.filter_append]

end Sys2Proof.Machine

/-! SUPPORT and O26. Vector registers and RNG states written lane by lane, and the instructions that convert or draw. -/

namespace Sys2Proof.Machine

open Sys2Proof.Spec Sys2Proof.Safety

/-! ### The lanes of a mask -/

@[simp] theorem mem_lanesOf {m : Mask} {l : Nat} : l ∈ lanesOf m ↔ m.getLsbD l = true := by
  simpa [lanesOf] using fun h => BitVec.lt_of_getLsbD h

theorem lanesOf_zero : lanesOf 0 = [] := by simp [lanesOf]

theorem lt_of_mem_lanesOf {m : Mask} {l : Nat} (h : l ∈ lanesOf m) : l < 96 := BitVec.lt_of_getLsbD (mem_lanesOf.mp h)

/-! ### Registers and states after a write -/

/-- Read after write: lanes are below 96, so that a register and a lane give a key of their own. -/
theorem Group.vreg_setV (g : Group) {r q k l : Nat} (v : W32) (hk : k < 96) (hl : l < 96) :
    (g.setV r k v).vreg q l = if q = r ∧ l = k then v else g.vreg q l := by
  have hkey : q * 96 + l = r * 96 + k ↔ q = r ∧ l = k := by omega
  simp only [Group.vreg, Group.setV, SMap.get_set, hkey]

/-- A register written in some lanes, from a word for each. -/
theorem Group.vreg_setVs (g : Group) (r : Nat) {ls : List Nat} (w : Nat → W32) (hls : ∀ k ∈ ls, k < 96) {q l : Nat}
    (hl : l < 96) :
    (g.setVs r (ls.map (fun k => (k, w k)))).vreg q l = if q = r ∧ l ∈ ls then w l else g.vreg q l := by
  induction ls generalizing g with
  | nil => simp [Group.setVs]
  | cons k ls ih =>
    have htail := ih (g.setV r k (w k)) (fun j hj => hls j (List.mem_cons_of_mem k hj))
    rw [Group.vreg_setV g (w k) (hls k List.mem_cons_self) hl] at htail
    refine htail.trans ?_
    by_cases hk : l = k <;> by_cases hq : q = r <;> simp [hk, hq]

theorem Group.setVs_eq (g : Group) (r : Nat) (ps : List (Nat × W32)) :
    g.setVs r ps = { g with v := (g.setVs r ps).v } := by
  induction ps generalizing g with
  | nil => rfl
  | cons p ps ih => exact ih (g.setV r p.1 p.2)

/-- The RNG states of some lanes set, from a state for each. -/
theorem Group.rngOf_setRngs (g : Group) (ls : List Nat) (w : Nat → W64) (l : Nat) :
    (g.setRngs (ls.map (fun k => (k, w k)))).rngOf l = if l ∈ ls then w l else g.rngOf l := by
  induction ls generalizing g with
  | nil => simp [Group.setRngs]
  | cons k ls ih =>
    refine (ih (g.setRng k (w k))).trans ?_
    by_cases hk : l = k
    · subst hk; simp [Group.rngOf]
    · simp [Group.rngOf, SMap.get_set, hk]

theorem Group.setRngs_eq (g : Group) (ps : List (Nat × W64)) : g.setRngs ps = { g with rng := (g.setRngs ps).rng } := by
  induction ps generalizing g with
  | nil => rfl
  | cons p ps ih => exact ih (g.setRng p.1 p.2)

/-! ### Results of a conversion (R51, R156) -/

/-- Flags raised lie in flight and nowhere else (R33). -/
theorem View.raiseFlags_eq (x : View) (f : Flags) : x.raiseFlags f =
    { x with g := { x.g with inflight := x.g.inflight ++ (if f = 0 then [] else [f]) } } := by
  unfold View.raiseFlags
  split <;> simp

section WriteCvt

variable (x : View) (m : Mask) (d : Nat) (f : Nat → W32 × Flags × W64)

theorem View.writeCvt_eq : x.writeCvt m d f = View.raiseFlags
    { x with g := (x.g.setVs d ((lanesOf m).map (fun l => (l, (f l).1)))).setRngs ((lanesOf m).map (fun l => (l, (f l).2.2))) }
    (orFlags ((lanesOf m).map (fun l => (f l).2.1))) := by
  simp only [View.writeCvt, List.map_map]
  rfl

/-- With no lane there is no effect. -/
theorem View.writeCvt_zero : x.writeCvt 0 d f = x := by
  rw [View.writeCvt_eq, lanesOf_zero]
  rfl

theorem View.writeCvt_sp : (x.writeCvt m d f).sp = x.sp := by rw [View.writeCvt_eq, View.raiseFlags_eq]

/-- Of the group only vector registers, RNG states and the flags in flight change. -/
theorem View.writeCvt_group : ∃ v rng, (x.writeCvt m d f).g = { x.g with
    v, rng, inflight := x.g.inflight ++ (if orFlags ((lanesOf m).map (fun l => (f l).2.1)) = 0 then []
      else [orFlags ((lanesOf m).map (fun l => (f l).2.1))]) } := by
  rw [View.writeCvt_eq, View.raiseFlags_eq, Group.setRngs_eq, Group.setVs_eq]
  exact ⟨_, _, rfl⟩

theorem View.v_writeCvt (q : Nat) {l : Nat} (hl : l < 96) :
    (x.writeCvt m d f).v q l = if q = d ∧ m.getLsbD l = true then (f l).1 else x.v q l := by
  rw [View.writeCvt_eq, View.raiseFlags_eq, Group.setRngs_eq]
  refine (Group.vreg_setVs x.g d (fun l => (f l).1) (fun _ => lt_of_mem_lanesOf) hl).trans ?_
  simp only [mem_lanesOf, View.v]

theorem View.rngOf_writeCvt (l : Nat) :
    (x.writeCvt m d f).g.rngOf l = if m.getLsbD l = true then (f l).2.2 else x.g.rngOf l := by
  rw [View.writeCvt_eq, View.raiseFlags_eq, Group.setVs_eq]
  refine (Group.rngOf_setRngs _ (lanesOf m) (fun l => (f l).2.2) l).trans ?_
  simp only [mem_lanesOf]
  rfl

end WriteCvt

/-! ### The instructions (R127, R128, R156 to R158, R163) -/

/-- A vector instruction whose effect on no lane is none goes on with its effect on the active lanes. -/
theorem State.vector_next {s : State} {x : View} {i : Instr} {n : Nat} {ms : Pred} {f : View → Mask → View}
    (hx : s.issuer = some x) (hr : x.g.inRange i.spans = true) (hnone : f x 0 = x) :
    s.vector i n ms f = .next (s.after x ((f x (x.active ms)).next n)) := by
  refine State.onView_view hx hr ?_
  split
  next h => rw [h, hnone]
  next => rfl

/-- VCVT, VCVTS and VRAND go on with the results of their active lanes. -/
theorem exec_of_laneDraw {i : Instr} {f : FmtV} {r : View → Nat → W32 × Flags × W64} {s : State} {x : View}
    (h : laneDraw i = some (f, r)) (hx : s.issuer = some x) (hr : x.g.inRange i.spans = true) :
    exec i s = .next (s.after x ((x.writeCvt (x.active f.ms) f.vd.toNat (r x)).next 8)) := by
  cases i with
  | vcvt =>
    obtain ⟨src, hsrc, hfr⟩ := Option.map_eq_some_iff.mp h
    cases hfr
    change execVcvt f s = _
    simp only [execVcvt, hsrc]
    exact State.vector_next hx hr (x.writeCvt_zero _ _)
  | vcvts =>
    cases h
    change execVcvts f s = _
    unfold execVcvts
    exact State.vector_next hx hr (x.writeCvt_zero _ _)
  | vrand =>
    cases h
    change execVrand f s = _
    unfold execVrand
    exact State.vector_next hx hr (x.writeCvt_zero _ _)
  | _ => cases h

/-- Settles O26: each instruction writes its lanes' words and RNG states as one conversion does. -/
theorem convertCompletes : Obligations.ConvertCompletes := by
  unfold Obligations.ConvertCompletes
  intro i f r s x h hx hr
  have hv := x.v_writeCvt (x.active f.ms) f.vd.toNat (r x)
  have hrng := x.rngOf_writeCvt (x.active f.ms) f.vd.toNat (r x)
  obtain ⟨v, rng, hg⟩ := x.writeCvt_group (x.active f.ms) f.vd.toNat (r x)
  refine ⟨_, exec_of_laneDraw h hx hr, x.writeCvt_sp _ _ _, by rw [hg], by rw [hg]; rfl, fun l hl ha => ⟨?_, ?_⟩,
    fun q l hl hn => (hv q hl).trans (if_neg hn), fun l ha => ?_, by rw [hg]; exact ⟨rfl, rfl⟩⟩
  · exact (hv _ hl).trans (if_pos ⟨rfl, ha⟩)
  · exact (hrng l).trans (if_pos ha)
  · exact (hrng l).trans (if_neg (by simp [ha]))

end Sys2Proof.Machine

/-! SUPPORT and O36. The values of atomics: integers in memory, numbers in f32 and in i32 with ABSENT as identity, and the
incumbent cell. -/

namespace Sys2Proof.Machine

/-! ### Codes of f32 and i32 (R36, R42) -/

/-- Only its own code reads as ABSENT in f32. -/
theorem Ty.value_f32_eq_absent {c : Nat} : Ty.f32.value c = .absent ↔ c = 0xFFFFFFFF := by
  constructor
  · intro h
    by_contra hc
    have hcode : ¬ Ty.f32.absentCode = some c := fun he => hc (Option.some_inj.mp he).symm
    simp only [Ty.value, if_neg hcode, Ty.floatFmt, FloatFmt.value] at h
    split at h
    · split at h <;> cases h
    · split at h <;> cases h
  · rintro rfl
    rfl

theorem Ty.value_i32 (c : Nat) :
    Ty.i32.value c = if c = 0x80000000 then .absent else .ofInt (BitVec.ofNat 32 c).toInt := by
  simp only [Ty.value, Ty.absentCode, Option.some_inj, eq_comm]

/-- Only its own code reads as ABSENT in i32. -/
theorem Ty.value_i32_eq_absent {c : Nat} : Ty.i32.value c = .absent ↔ c = 0x80000000 := by
  rw [Ty.value_i32]
  split
  next h => simp [h]
  next h => simp [h, XVal.ofInt]

theorem canonF32_of_ne_nan {c : Nat} (h : Ty.f32.value c ≠ .nan) : canonF32 c = c := if_neg h

theorem canonF32_nanCode : canonF32 Ty.f32.nanCode = 0x7FC00000 := by decide

/-! ### The order of numbers -/

namespace XVal

variable {a b : XVal}

theorem present_of_ne_absent (h : a ≠ .absent) : a.present = true := by
  cases a with
  | absent => exact absurd rfl h
  | _ => rfl

theorem magLt_asymm {n d n' d' : Nat} {e e' : Int} (h : magLt n d e n' d' e' = true) : magLt n' d' e' n d e = false := by
  simp only [magLt, decide_eq_true_eq, decide_eq_false_iff_not] at h ⊢
  omega

theorem lt_asymm (h : a.lt b = true) : b.lt a = false := by
  cases a with
  | absent | nan => cases h
  | inf s =>
    cases b with
    | absent | nan => cases h
    | inf s' =>
      simp only [XVal.lt, Bool.and_eq_true, Bool.not_eq_true'] at h
      simp [XVal.lt, h]
    | num => simpa [XVal.lt] using h
  | num s n d e =>
    cases b with
    | absent | nan => cases h
    | inf => simpa [XVal.lt] using h
    | num s' n' d' e' =>
      simp only [XVal.lt, Bool.and_comm (decide (n' = 0))] at h ⊢
      split at h
      next => cases h
      next hz =>
        rw [if_neg hz]
        split at h
        next hs =>
          split at h
          next hs' => rw [if_pos hs', if_pos hs, magLt_asymm h]
          next hs' => rw [if_neg hs', if_pos hs]
        next hs =>
          split at h
          next => cases h
          next hs' => rw [if_neg hs', if_neg hs, magLt_asymm h]

theorem ne_of_lt (h : a.lt b = true) : (a ≠ .absent ∧ a ≠ .nan) ∧ b ≠ .absent ∧ b ≠ .nan := by
  refine ⟨⟨?_, ?_⟩, ?_, ?_⟩
  · rintro rfl; cases b <;> cases h
  · rintro rfl; cases b <;> cases h
  · rintro rfl; cases a <;> cases h
  · rintro rfl; cases a <;> cases h

/-- Of two zeros neither is the lesser. -/
theorem not_zeros_of_lt (h : a.lt b = true) : (a.isZero && b.isZero) = false := by
  cases a with
  | num s n d e =>
    cases b with
    | num s' n' d' e' =>
      by_contra hz
      simp only [XVal.isZero, Bool.not_eq_false, Bool.and_eq_true, beq_iff_eq] at hz
      obtain ⟨rfl, rfl⟩ := hz
      cases h
    | _ => exact Bool.and_false _
  | _ => rfl

end XVal

/-! ### Sums (R42, R47) -/

theorem sumX_of_nan (mode : RMode) {l : List XVal} (h : XVal.nan ∈ l) : (sumX mode l).1 = .nan := by
  simp [sumX, h]

theorem scaled_ofInt (z : Int) : XVal.scaled 0 1 (.ofInt z) = z := by
  rcases lt_or_ge z 0 with h | h
  · simp [XVal.scaled, XVal.ofInt, h, abs_of_neg h]
  · simp [XVal.scaled, XVal.ofInt, not_lt.mpr h, abs_of_nonneg h]

/-- The sum of two integers is their sum as an integer; where it is zero the rules of R47 give its sign. -/
theorem sumX_ofInt (mode : RMode) (a b : Int) : ∃ neg, (sumX mode [.ofInt a, .ofInt b]).1 = .num neg (a + b).natAbs 1 0 ∧
    (a + b ≠ 0 → neg = decide (a + b < 0)) := by
  have hexp : minExp [.ofInt a, .ofInt b] 0 = 0 := rfl
  have hden : denProd [.ofInt a, .ofInt b] = 1 := rfl
  have hsum : ([XVal.ofInt a, .ofInt b].map (XVal.scaled 0 1)).foldl (· + ·) 0 = a + b := by simp [scaled_ofInt]
  have hnone : ∀ x ∈ [XVal.nan, .inf false, .inf true], [XVal.ofInt a, .ofInt b].contains x = false := by
    simp [XVal.ofInt]
  simp only [List.forall_mem_cons] at hnone
  obtain ⟨hnan, hpinf, hninf, -⟩ := hnone
  simp only [sumX, hexp, hden, hsum, hnan, hpinf, hninf]
  by_cases hz : a + b = 0
  · simp [hz, XVal.zero]
  · simp [hz]

theorem deliver_i32_num (mode : RMode) (neg : Bool) (n d : Nat) (e : Int) : deliver .i32 mode (.num neg n d e) =
    if Ty.i32.intMax < (roundAt mode neg n d e 0).1 then (intCode 32 neg Ty.i32.intMax, fOF ||| fIX)
    else (intCode 32 neg (roundAt mode neg n d e 0).1, if (roundAt mode neg n d e 0).2 then fIX else 0) := rfl

/-- An integer saturates at the greatest magnitude of i32. -/
theorem deliver_i32_int (mode : RMode) (neg : Bool) (n : Nat) :
    (deliver .i32 mode (.num neg n 1 0)).1 = intCode 32 neg (min n Ty.i32.intMax) := by
  have hround : roundAt mode neg n 1 0 0 = (n, false) := by simp [roundAt, quantize, roundUp, Nat.mod_one]
  rw [deliver_i32_num, hround]
  split
  next h => rw [Nat.min_eq_right (Nat.le_of_lt h)]
  next h => rw [Nat.min_eq_left (Nat.le_of_not_lt h)]

theorem toInt_intCode (neg : Bool) {n : Nat} (hn : n < 2 ^ 31) :
    (BitVec.ofNat 32 (intCode 32 neg n)).toInt = if neg then -(n : Int) else n := by
  cases neg
  · simp [intCode, BitVec.toInt_ofNat', Int.bmod]; omega
  · simp [intCode, BitVec.toInt_ofNat', Int.bmod]; omega

/-- The sum of two i32 numbers is delivered as their sum, kept within the range of i32 without ABSENT's code. -/
theorem toInt_deliver_sumX_i32 (a b : Int) :
    (BitVec.ofNat 32 (deliver .i32 .rne (sumX .rne [.ofInt a, .ofInt b]).1).1).toInt
      = max (-(2 ^ 31 - 1)) (min (2 ^ 31 - 1) (a + b)) := by
  obtain ⟨neg, hsum, hneg⟩ := sumX_ofInt .rne a b
  have hmax : Ty.i32.intMax = 2 ^ 31 - 1 := rfl
  rw [hsum, deliver_i32_int, hmax, toInt_intCode neg (by omega)]
  by_cases hz : a + b = 0
  · simp [hz]
  · rw [hneg hz]
    by_cases hlt : a + b < 0
    · simp only [hlt, decide_true, if_true]; omega
    · simp only [hlt, decide_false, Bool.false_eq_true, if_false]; omega

/-! ### VFADDA, minimum and maximum in f32 (R45, R149) -/

section Numbers

variable {mode : RMode} {hi : Bool} {m v : Nat}

theorem floatAdda_absent_left (h : Ty.f32.value m = .absent) : (floatAdda .f32 mode m v).1 = v := by
  simp [floatAdda, h, XVal.present]

/-- Two ABSENT inputs are the same code. -/
theorem floatAdda_absent_right (h : Ty.f32.value v = .absent) : (floatAdda .f32 mode m v).1 = m := by
  by_cases hm : Ty.f32.value m = .absent
  · rw [floatAdda_absent_left hm, Ty.value_f32_eq_absent.mp h, Ty.value_f32_eq_absent.mp hm]
  · simp [floatAdda, h, XVal.present_of_ne_absent hm, show XVal.absent.present = false from rfl]

theorem floatAdda_present (hm : Ty.f32.value m ≠ .absent) (hv : Ty.f32.value v ≠ .absent) :
    (floatAdda .f32 mode m v).1 = (deliver .f32 mode (sumX mode [Ty.f32.value m, Ty.f32.value v]).1).1 := by
  have hpm := XVal.present_of_ne_absent hm
  have hpv := XVal.present_of_ne_absent hv
  simp [floatAdda, floatBin, addX, give, hpm, hpv]

theorem floatAdda_nan (hm : Ty.f32.value m ≠ .absent) (hv : Ty.f32.value v ≠ .absent)
    (h : Ty.f32.value m = .nan ∨ Ty.f32.value v = .nan) : (floatAdda .f32 mode m v).1 = Ty.f32.nanCode := by
  rw [floatAdda_present hm hv, sumX_of_nan mode (by simpa [eq_comm] using h)]
  rfl

theorem floatPick_absent_left (h : Ty.f32.value m = .absent) : floatPick .f32 hi m v = v := if_pos h

theorem floatPick_absent_right (h : Ty.f32.value v = .absent) : floatPick .f32 hi m v = m := by
  by_cases hm : Ty.f32.value m = .absent
  · rw [floatPick_absent_left hm, Ty.value_f32_eq_absent.mp h, Ty.value_f32_eq_absent.mp hm]
  · simp [floatPick, h, hm]

theorem floatPick_nan (hm : Ty.f32.value m ≠ .absent) (hv : Ty.f32.value v ≠ .absent)
    (h : Ty.f32.value m = .nan ∨ Ty.f32.value v = .nan) : floatPick .f32 hi m v = Ty.f32.nanCode := by
  simp only [floatPick, if_neg hm, if_neg hv]
  exact if_pos (by simpa using h)

/-- Of two numbers the lesser is the minimum and the greater the maximum. -/
theorem floatPick_of_lt (h : (Ty.f32.value m).lt (Ty.f32.value v) = true) :
    floatPick .f32 hi m v = if hi then v else m := by
  obtain ⟨⟨hm, hmn⟩, hv, hvn⟩ := XVal.ne_of_lt h
  have hz := XVal.not_zeros_of_lt h
  rw [Bool.and_comm] at hz
  cases hi <;> simp [floatPick, hm, hmn, hv, hvn, h, XVal.lt_asymm h, hz]

theorem floatPick_of_gt (h : (Ty.f32.value v).lt (Ty.f32.value m) = true) :
    floatPick .f32 hi m v = if hi then m else v := by
  obtain ⟨⟨hv, hvn⟩, hm, hmn⟩ := XVal.ne_of_lt h
  have hz := XVal.not_zeros_of_lt h
  rw [Bool.and_comm] at hz
  cases hi <;> simp [floatPick, hm, hmn, hv, hvn, h, XVal.lt_asymm h, hz]

end Numbers

/-! ### Integers in memory (R177) -/

section Integers

variable {n m v c : Nat} (hn : n = 4 ∨ n = 8) (hm : m < 2 ^ (8 * n)) (hv : v < 2 ^ (8 * n))

include hn in
/-- An operand read as two's complement. -/
theorem signed_eq_toInt {a : Nat} (ha : a < 2 ^ (8 * n)) :
    (if a < 2 ^ (8 * n) / 2 then (a : Int) else a - (2 ^ (8 * n) : Nat)) = (BitVec.ofNat (8 * n) a).toInt := by
  have hhalf : a < 2 ^ (8 * n) / 2 ↔ 2 * a < 2 ^ (8 * n) := by
    rcases hn with rfl | rfl
    · omega
    · omega
  simp only [BitVec.toInt_eq_toNat_cond, BitVec.toNat_ofNat, Nat.mod_eq_of_lt ha, hhalf]

include hn hm hv

theorem atomicOp_signedMin : (BitVec.ofNat (8 * n) (atomicOp 3 n m v c)).toInt
    = min (BitVec.ofNat (8 * n) m).toInt (BitVec.ofNat (8 * n) v).toInt := by
  simp only [atomicOp, signed_eq_toInt hn hm, signed_eq_toInt hn hv]
  split
  next h => rw [min_eq_left h]
  next h => rw [min_eq_right (le_of_not_ge h)]

theorem atomicOp_signedMax : (BitVec.ofNat (8 * n) (atomicOp 6 n m v c)).toInt
    = max (BitVec.ofNat (8 * n) m).toInt (BitVec.ofNat (8 * n) v).toInt := by
  simp only [atomicOp, signed_eq_toInt hn hm, signed_eq_toInt hn hv]
  split
  next h => rw [max_eq_left h]
  next h => rw [max_eq_right (le_of_not_ge h)]

end Integers

/-! ### The incumbent cell (R179) -/

/-- A candidate that beats the cell is stored whole. -/
theorem Device.offer_beats {d : Device} {t : Space} {pa cell : Nat} (hcell : cell < 2 ^ 128)
    (h : beats (cell % 2 ^ 32) (bytesToNat (readBytes (d.space t) pa 16) % 2 ^ 32) = true) :
    bytesToNat (readBytes ((d.offer t pa cell).space t) pa 16) = cell := by
  have hspace : (d.offer t pa cell).space t = writeBytes (d.space t) pa (natToBytes 16 cell) := by
    rw [Device.offer, if_pos h, Device.space_store, if_pos rfl]
  rw [hspace]
  exact (readNat_writeBytes (d.space t) pa 16 cell).trans (Nat.mod_eq_of_lt hcell)

theorem Device.offer_loses {d : Device} {t : Space} {pa cell : Nat}
    (h : beats (cell % 2 ^ 32) (bytesToNat (readBytes (d.space t) pa 16) % 2 ^ 32) = false) : d.offer t pa cell = d := by
  rw [Device.offer, if_neg (Bool.eq_false_iff.mp h)]

theorem not_beats_of_nan {new : Nat} (old : Nat) (h : Ty.f32.value new = .nan) : beats new old = false := by
  simp [beats, h]

theorem scoreRank_number {c : Nat} (hp : (Ty.f32.value c).present = true) (hn : Ty.f32.value c ≠ .nan) : scoreRank c = 2 := by
  unfold scoreRank
  split
  next h => rw [h] at hp; cases hp
  next h => exact absurd h hn
  next => rfl

theorem beats_absent {new old : Nat} (ho : Ty.f32.value old = .absent) (hp : (Ty.f32.value new).present = true)
    (hn : Ty.f32.value new ≠ .nan) : beats new old = true := by
  have hrank : scoreRank old = 0 := by simp [scoreRank, ho]
  simp [beats, hn, hrank, scoreRank_number hp hn]

/-! ### The statement -/

theorem atomicOp_f32_identity_nan {m v : Nat} (c : Nat) {k : Nat} (hk : k = 1 ∨ k = 4 ∨ k = 7) :
    (Ty.f32.value m = .absent → atomicOp k 4 m v c = canonF32 v) ∧
    (Ty.f32.value v = .absent → atomicOp k 4 m v c = canonF32 m) ∧
    (Ty.f32.value m ≠ .absent → Ty.f32.value v ≠ .absent → Ty.f32.value m = .nan ∨ Ty.f32.value v = .nan →
      atomicOp k 4 m v c = 0x7FC00000) := by
  rcases hk with rfl | rfl | rfl
  · exact ⟨fun h => congrArg canonF32 (floatAdda_absent_left h), fun h => congrArg canonF32 (floatAdda_absent_right h),
      fun hm hv h => (congrArg canonF32 (floatAdda_nan hm hv h)).trans canonF32_nanCode⟩
  · exact ⟨fun h => congrArg canonF32 (floatPick_absent_left h), fun h => congrArg canonF32 (floatPick_absent_right h),
      fun hm hv h => (congrArg canonF32 (floatPick_nan hm hv h)).trans canonF32_nanCode⟩
  · exact ⟨fun h => congrArg canonF32 (floatPick_absent_left h), fun h => congrArg canonF32 (floatPick_absent_right h),
      fun hm hv h => (congrArg canonF32 (floatPick_nan hm hv h)).trans canonF32_nanCode⟩

/-- The minimum and the maximum of two f32 numbers in memory that compare. -/
theorem atomicOp_f32_of_lt {m v : Nat} (c : Nat) (h : (Ty.f32.value m).lt (Ty.f32.value v) = true) :
    atomicOp 4 4 m v c = m ∧ atomicOp 7 4 m v c = v := by
  obtain ⟨⟨-, hm⟩, -, hv⟩ := XVal.ne_of_lt h
  exact ⟨(congrArg canonF32 (floatPick_of_lt h)).trans (canonF32_of_ne_nan hm),
    (congrArg canonF32 (floatPick_of_lt h)).trans (canonF32_of_ne_nan hv)⟩

theorem atomicOp_f32_of_gt {m v : Nat} (c : Nat) (h : (Ty.f32.value v).lt (Ty.f32.value m) = true) :
    atomicOp 4 4 m v c = v ∧ atomicOp 7 4 m v c = m := by
  obtain ⟨⟨-, hv⟩, -, hm⟩ := XVal.ne_of_lt h
  exact ⟨(congrArg canonF32 (floatPick_of_gt h)).trans (canonF32_of_ne_nan hv),
    (congrArg canonF32 (floatPick_of_gt h)).trans (canonF32_of_ne_nan hm)⟩

/-- The zero of negative sign lies below the other. -/
theorem atomicOp_f32_zeros (c : Nat) :
    atomicOp 4 4 0x80000000 0 c = 0x80000000 ∧ atomicOp 7 4 0x80000000 0 c = 0 := by
  have hmin : canonF32 (floatPick .f32 false 0x80000000 0) = 0x80000000 := by decide
  have hmax : canonF32 (floatPick .f32 true 0x80000000 0) = 0 := by decide
  exact ⟨hmin, hmax⟩

theorem atomicOp_i32 (m v c : Nat) : atomicOp 14 4 m v c = if Ty.i32.value m = .absent then v
    else if Ty.i32.value v = .absent then m
    else (deliver .i32 .rne (sumX .rne [Ty.i32.value m, Ty.i32.value v]).1).1 := rfl

theorem atomicOp_i32_absent_left (v c : Nat) : atomicOp 14 4 0x80000000 v c = v := by
  rw [atomicOp_i32, if_pos (Ty.value_i32_eq_absent.mpr rfl)]

theorem atomicOp_i32_absent_right (m c : Nat) : atomicOp 14 4 m 0x80000000 c = m := by
  rw [atomicOp_i32, if_pos (Ty.value_i32_eq_absent.mpr (rfl : 0x80000000 = 0x80000000))]
  split
  next hm => exact (Ty.value_i32_eq_absent.mp hm).symm
  next => rfl

theorem atomicOp_i32_present {m v : Nat} (c : Nat) (hm : m ≠ 0x80000000) (hv : v ≠ 0x80000000) :
    (BitVec.ofNat 32 (atomicOp 14 4 m v c)).toInt
      = max (-(2 ^ 31 - 1)) (min (2 ^ 31 - 1) ((BitVec.ofNat 32 m).toInt + (BitVec.ofNat 32 v).toInt)) := by
  rw [atomicOp_i32, if_neg (hm ∘ Ty.value_i32_eq_absent.mp), if_neg (hv ∘ Ty.value_i32_eq_absent.mp), Ty.value_i32, if_neg hm,
    Ty.value_i32, if_neg hv, toInt_deliver_sumX_i32]

/-- Settles O36: integers by their operations, numbers with ABSENT's codes apart, and the cell by who beats it. -/
theorem atomicValues : Obligations.AtomicValues := by
  unfold Obligations.AtomicValues
  refine ⟨fun n m v c hn hm hv => ?_, fun m v c _ _ => ?_, fun d t pa cell hcell => ?_⟩
  · exact ⟨rfl, rfl, rfl, rfl, rfl, rfl, rfl, rfl, rfl, atomicOp_signedMin hn hm hv, atomicOp_signedMax hn hm hv⟩
  · refine ⟨fun _ => atomicOp_f32_identity_nan c, fun hm hv => congrArg canonF32 (floatAdda_present hm hv),
      atomicOp_f32_of_lt c, atomicOp_f32_of_gt c, ?_, ?_, ?_, atomicOp_i32_present c⟩
    · rintro rfl rfl
      exact atomicOp_f32_zeros c
    · rintro rfl
      exact atomicOp_i32_absent_left v c
    · rintro rfl
      exact atomicOp_i32_absent_right m c
  · exact ⟨Device.offer_beats hcell, Device.offer_loses, fun h => Device.offer_loses (not_beats_of_nan _ h),
      fun _ _ => beats_absent⟩

end Sys2Proof.Machine

/-! SUPPORT and O2. What the decoder reads of a word is what the encoder writes: format by format, fields read as slices of the
words are put together again, and then opcode by opcode (R61 to R78). -/

namespace Sys2Proof

open BitVec (extractLsb'_append_extractLsb'_eq_extractLsb' extractLsb'_eq_self)

/-! ### Fields -/

theorem bit1_getLsbD {n : Nat} (w : BitVec n) (k : Nat) : bit1 (w.getLsbD k) = w.extractLsb' k 1 := by
  ext i hi
  obtain rfl : i = 0 := by omega
  cases h : w.getLsbD k <;> simp [bit1, h]

/-- A slice of a slice. -/
theorem extract_extract {n s a t b : Nat} (w : BitVec n) (h : t + b ≤ a) :
    (w.extractLsb' s a).extractLsb' t b = w.extractLsb' (s + t) b := by
  ext i hi
  simp [show t + i < a by omega, Nat.add_assoc]

/-- A field rebuilt from a code that is its value. -/
theorem ofNat_code {n k : Nat} {x : BitVec n} (h : k = x.toNat) : BitVec.ofNat n k = x := by
  rw [h, BitVec.ofNat_toNat, BitVec.setWidth_eq]

theorem Rm.code_of_ofCode {n : Nat} {r : Rm} (h : Rm.ofCode n = some r) : r.code = n := by
  unfold Rm.ofCode at h
  split at h <;> cases h <;> rfl

theorem Ty.code_of_ofCode {n : Nat} {t : Ty} (h : Ty.ofCode n = some t) : t.code = n := by
  unfold Ty.ofCode at h
  split at h <;> cases h <;> rfl

theorem Pred.code_of_ofCode {n : Nat} {p : Pred} (h : Pred.ofCode n = some p) : p.code = n := by
  unfold Pred.ofCode at h
  split at h
  next h0 => cases h; exact h0.symm
  next h0 =>
    split at h <;> cases h
    exact Nat.sub_add_cancel (Nat.pos_of_ne_zero h0)

theorem Scope.rank_of_ofCode {n : Nat} {c : Scope} (h : Scope.ofCode n = some c) : c.rank = n := by
  unfold Scope.ofCode at h
  split at h <;> cases h <;> rfl

theorem MemOrd.code_ofCode {n : Nat} (h : n < 4) : (MemOrd.ofCode n).code = n := by
  interval_cases n <;> rfl

theorem Width.code_of_ofCode {n : Nat} {w : Width} (h : Width.ofCode n = some w) : w.code = n := by
  unfold Width.ofCode at h
  split at h <;> cases h <;> rfl

theorem val_of_scaleOfCode {n : Nat} {c : Fin 5} (h : scaleOfCode n = some c) : c.val = n := by
  unfold scaleOfCode at h
  split at h <;> cases h
  rfl

/-! ### Formats: the words that fields were read from -/

section Formats

variable {opc len : Nat} {w0 w1 w2 : W32}

theorem FmtSI.words_of_ofWords {f : FmtSI} (h : FmtSI.ofWords w0 w1 w2 = some f) (hh : head opc 2 = w0.extractLsb' 0 10) :
    f.words opc = [w0, w1, w2] := by
  unfold FmtSI.ofWords at h
  split at h <;> cases h
  next hz =>
  have hz : 0#16 = w1.extractLsb' 16 16 := hz.symm
  simp only [FmtSI.words, hh, hz, bit1_getLsbD, extractLsb'_append_extractLsb'_eq_extractLsb', extractLsb'_eq_self]

theorem FmtV.words_of_ofWords {f : FmtV} (h : FmtV.ofWords w0 w1 = some f) (hh : head opc len = w0.extractLsb' 0 10) :
    f.words opc len = [w0, w1] := by
  unfold FmtV.ofWords at h
  split at h <;> cases h
  next hrm hty hms =>
  simp only [FmtV.words, hh, bit1_getLsbD, ofNat_code (Rm.code_of_ofCode hrm), ofNat_code (Ty.code_of_ofCode hty),
    ofNat_code (Pred.code_of_ofCode hms), extractLsb'_append_extractLsb'_eq_extractLsb', extractLsb'_eq_self]

theorem FmtVI.words_of_ofWords {f : FmtVI} (h : (FmtV.ofWords w0 w1).map (fun v => { v, lit := w2 }) = some f)
    (hh : head opc 2 = w0.extractLsb' 0 10) : f.words opc = [w0, w1, w2] := by
  obtain ⟨v, hv, rfl⟩ := Option.map_eq_some_iff.mp h
  simp only [FmtVI.words, FmtV.words_of_ofWords hv hh, List.cons_append, List.nil_append]

theorem FmtM.words_of_ofWords {f : FmtM} (h : FmtM.ofWords w0 w1 = some f) (hh : head opc len = w0.extractLsb' 0 10) :
    f.words opc len = [w0, w1] := by
  unfold FmtM.ofWords at h
  split at h <;> cases h
  next hms hscope hsc hw =>
  simp only [FmtM.words, hh, bit1_getLsbD, ofNat_code (Pred.code_of_ofCode hms), ofNat_code (Scope.rank_of_ofCode hscope),
    ofNat_code (MemOrd.code_ofCode (w1.extractLsb' 13 2).isLt), ofNat_code (val_of_scaleOfCode hsc),
    ofNat_code (Width.code_of_ofCode hw), extractLsb'_append_extractLsb'_eq_extractLsb', extractLsb'_eq_self]

theorem FmtMI.words_of_ofWords {f : FmtMI} (h : FmtMI.ofWords w0 w1 w2 = some f) (hh : head opc 2 = w0.extractLsb' 0 10) :
    f.words opc = [w0, w1, w2] := by
  unfold FmtMI.ofWords at h
  split at h
  next m hm =>
    split at h <;> cases h
    next hz =>
    have hz : 0#14 = w2.extractLsb' 18 14 := hz.symm
    simp only [FmtMI.words, FmtM.words_of_ofWords hm hh, hz, extractLsb'_append_extractLsb'_eq_extractLsb', extractLsb'_eq_self,
      List.cons_append, List.nil_append]
  next => cases h

theorem FmtX.words_of_ofWords {f : FmtX} (h : FmtX.ofWords w0 w1 = some f) (hh : head opc 1 = w0.extractLsb' 0 10) :
    f.words opc = [w0, w1] := by
  unfold FmtX.ofWords at h
  split at h <;> cases h
  next hrm htb hta =>
  simp only [FmtX.words, hh, ofNat_code (Rm.code_of_ofCode hrm), ofNat_code (Ty.code_of_ofCode htb),
    ofNat_code (Ty.code_of_ofCode hta), extractLsb'_append_extractLsb'_eq_extractLsb', extractLsb'_eq_self]

theorem FmtB.words_of_ofWords {f : FmtB} (h : FmtB.ofWords w0 w1 = some f) (hh : head opc 1 = w0.extractLsb' 0 10) :
    f.words opc = [w0, w1] := by
  unfold FmtB.ofWords at h
  split at h <;> cases h
  next hz =>
  have hz : 0#3 = w1.extractLsb' 29 3 := hz.symm
  simp only [FmtB.words, hh, hz, bit1_getLsbD, extractLsb'_append_extractLsb'_eq_extractLsb', extractLsb'_eq_self]

theorem FmtW.words_of_ofWords {f : FmtW} (h : FmtW.ofWords w0 w1 w2 = some f) (hh : head opc 2 = w0.extractLsb' 0 10) :
    f.words opc = [w0, w1, w2] := by
  unfold FmtW.ofWords at h
  split at h <;> cases h
  next hz =>
  have hz : 0#2 = w0.extractLsb' 30 2 := hz.symm
  simp only [FmtW.words, hh, hz, extractLsb'_append_extractLsb'_eq_extractLsb', extractLsb'_eq_self]

theorem FmtT.words_of_ofWords {f : FmtT} (h : FmtT.ofWords w0 w1 = some f) (hh : head opc 1 = w0.extractLsb' 0 10) :
    f.words opc = [w0, w1] := by
  unfold FmtT.ofWords at h
  split at h <;> cases h
  next hms =>
  simp only [FmtT.words, hh, bit1_getLsbD, ofNat_code (Pred.code_of_ofCode hms),
    extractLsb'_append_extractLsb'_eq_extractLsb', extractLsb'_eq_self]

end Formats

/-! ### Opcodes of formats SI to T: the encoder writes the opcode that names the constructor -/

section Tables

variable {opc : Nat}

theorem encode_ctorSI {c : FmtSI → Instr} (h : ctorSI opc = some c) (f : FmtSI) : encode (c f) = f.words opc := by
  unfold ctorSI at h
  split at h <;> cases h <;> rfl

theorem encode_ctorV {c : FmtV → Instr} (h : ctorV opc = some c) (f : FmtV) : encode (c f) = f.words opc 1 := by
  unfold ctorV at h
  split at h <;> cases h <;> rfl

theorem encode_ctorVI {c : FmtVI → Instr} (h : ctorVI opc = some c) (f : FmtVI) : encode (c f) = f.words opc := by
  unfold ctorVI at h
  split at h <;> cases h <;> rfl

theorem encode_ctorM {c : FmtM → Instr} (h : ctorM opc = some c) (f : FmtM) : encode (c f) = f.words opc 1 := by
  unfold ctorM at h
  split at h <;> cases h <;> rfl

theorem encode_ctorMI {c : FmtMI → Instr} (h : ctorMI opc = some c) (f : FmtMI) : encode (c f) = f.words opc := by
  unfold ctorMI at h
  split at h <;> cases h <;> rfl

theorem encode_ctorX {c : FmtX → Instr} (h : ctorX opc = some c) (f : FmtX) : encode (c f) = f.words opc := by
  unfold ctorX at h
  split at h <;> cases h <;> rfl

theorem encode_ctorB {c : FmtB → Instr} (h : ctorB opc = some c) (f : FmtB) : encode (c f) = f.words opc := by
  unfold ctorB at h
  split at h <;> cases h <;> rfl

theorem encode_ctorW {c : FmtW → Instr} (h : ctorW opc = some c) (f : FmtW) : encode (c f) = f.words opc := by
  unfold ctorW at h
  split at h <;> cases h
  rfl

theorem encode_ctorT {c : FmtT → Instr} (h : ctorT opc = some c) (f : FmtT) : encode (c f) = f.words opc := by
  unfold ctorT at h
  split at h <;> cases h <;> rfl

theorem encode_ctorSplitT {f : FmtT} {i : Instr} (h : ctorSplitT opc f = some i) : encode i = f.words opc := by
  unfold ctorSplitT at h
  split at h <;> cases h <;> rfl

theorem build_eq_some {α : Type} {c : Option (α → Instr)} {f : Option α} {i : Instr} (h : build c f = some i) :
    ∃ k a, c = some k ∧ f = some a ∧ i = k a := by
  unfold build at h
  split at h <;> cases h
  exact ⟨_, _, rfl, rfl, rfl⟩

end Tables

/-! ### Format S -/

section OneWord

variable {opc fn : Nat} {w : W32} {b a d : SReg} {i : Instr}

/-- The word of format S with a register operand B, from its slices. -/
theorem encS_slices (hh : head opc 0 = w.extractLsb' 0 10) (hi : ¬w.getLsbD 31 = true) (hfn : (w.extractLsb' 28 3).toNat = fn)
    (hb : b = w.extractLsb' 22 6) (ha : a = w.extractLsb' 16 6) (hd : d = w.extractLsb' 10 6) : encS opc fn b a d = [w] := by
  have hi : 0#1 = w.extractLsb' 31 1 := by rw [← bit1_getLsbD, eq_false_of_ne_true hi]; rfl
  simp only [encS, hh, hi, ofNat_code hfn.symm, hb, ha, hd, extractLsb'_append_extractLsb'_eq_extractLsb', extractLsb'_eq_self]

/-- The word of format S with an immediate operand B, from its slices. -/
theorem encImm_slices {imm : BitVec 9} (hh : head opc 0 = w.extractLsb' 0 10) (hi : w.getLsbD 31 = true)
    (hm : imm = w.extractLsb' 22 9) (ha : a = w.extractLsb' 16 6) (hd : d = w.extractLsb' 10 6) : encImm opc imm a d = [w] := by
  have hi : 1#1 = w.extractLsb' 31 1 := by rw [← bit1_getLsbD, hi]; rfl
  simp only [encImm, hh, hi, hm, ha, hd, extractLsb'_append_extractLsb'_eq_extractLsb', extractLsb'_eq_self]

/-- A word of an instruction with no operand: every bit above the opcode is zero. -/
theorem encS_zero (hh : head opc 0 = w.extractLsb' 0 10) (hz : w.extractLsb' 10 22 = 0) : encS opc 0 0 0 0 = [w] := by
  have hz : (0#1 ++ BitVec.ofNat 3 0 ++ (0 : SReg) ++ (0 : SReg) ++ (0 : SReg) : BitVec 22) = w.extractLsb' 10 22 := hz.symm
  simp only [encS, hh, hz, extractLsb'_append_extractLsb'_eq_extractLsb', extractLsb'_eq_self]

/-- An instruction with a register or an immediate operand B. -/
theorem encode_two {r : SReg → SReg → SReg → Instr} {m : SReg → SReg → BitVec 9 → Instr}
    (hr : ∀ d a b, encode (r d a b) = encS opc 0 b a d) (hm : ∀ d a imm, encode (m d a imm) = encImm opc imm a d)
    (hh : head opc 0 = w.extractLsb' 0 10)
    (h : (if w.getLsbD 31 then some (m (w.extractLsb' 10 6) (w.extractLsb' 16 6) (w.extractLsb' 22 9))
      else if (w.extractLsb' 28 3).toNat = 0 then some (r (w.extractLsb' 10 6) (w.extractLsb' 16 6) (w.extractLsb' 22 6))
      else none) = some i) : encode i = [w] := by
  split at h
  next hi =>
    cases h
    exact (hm _ _ _).trans (encImm_slices hh hi rfl rfl rfl)
  next hi =>
    split at h <;> cases h
    next hfn => exact (hr _ _ _).trans (encS_slices hh hi hfn rfl rfl rfl)

/-- A shift, whose immediate is below 32. -/
theorem encode_shift {r : SReg → SReg → SReg → Instr} {m : SReg → SReg → BitVec 5 → Instr}
    (hr : ∀ d a b, encode (r d a b) = encS opc 0 b a d) (hm : ∀ d a imm, encode (m d a imm) = encImm opc (0#4 ++ imm) a d)
    (hh : head opc 0 = w.extractLsb' 0 10)
    (h : (if w.getLsbD 31 then
        if (w.extractLsb' 22 9).toNat < 32 then some (m (w.extractLsb' 10 6) (w.extractLsb' 16 6) (w.extractLsb' 22 5)) else none
      else if (w.extractLsb' 28 3).toNat = 0 then some (r (w.extractLsb' 10 6) (w.extractLsb' 16 6) (w.extractLsb' 22 6))
      else none) = some i) : encode i = [w] := by
  split at h
  next hi =>
    split at h <;> cases h
    next hlt =>
    have himm : 0#4 ++ w.extractLsb' 22 5 = w.extractLsb' 22 9 := by
      apply BitVec.eq_of_toNat_eq
      rw [BitVec.extractLsb'_toNat] at hlt
      simp only [BitVec.toNat_append, BitVec.extractLsb'_toNat, BitVec.toNat_ofNat, Nat.zero_mod, Nat.zero_shiftLeft, Nat.zero_or]
      omega
    exact (hm _ _ _).trans (encImm_slices hh hi himm rfl rfl)
  next hi =>
    split at h <;> cases h
    next hfn => exact (hr _ _ _).trans (encS_slices hh hi hfn rfl rfl rfl)

/-- An instruction with no operand B, in two forms told apart by FN. -/
theorem encode_one {r l : SReg → SReg → Instr} (hr : ∀ d a, encode (r d a) = encS opc 0 0 a d)
    (hl : ∀ d a, encode (l d a) = encS opc 1 0 a d) (hh : head opc 0 = w.extractLsb' 0 10)
    (h : (if w.getLsbD 31 || w.extractLsb' 22 6 ≠ 0 then none
      else if (w.extractLsb' 28 3).toNat = 0 then some (r (w.extractLsb' 10 6) (w.extractLsb' 16 6))
      else if (w.extractLsb' 28 3).toNat = 1 then some (l (w.extractLsb' 10 6) (w.extractLsb' 16 6)) else none) = some i) :
    encode i = [w] := by
  split at h
  next => cases h
  next hib =>
  simp only [Bool.or_eq_true, decide_eq_true_eq, not_or, not_not] at hib
  obtain ⟨hi, hb⟩ := hib
  split at h
  next hfn =>
    cases h
    exact (hr _ _).trans (encS_slices hh hi hfn hb.symm rfl rfl)
  next =>
    split at h <;> cases h
    next hfn => exact (hl _ _).trans (encS_slices hh hi hfn hb.symm rfl rfl)

/-- An instruction with operands A and D alone. -/
theorem encode_pair {k : SReg → SReg → Instr} (hk : ∀ d a, encode (k d a) = encS opc 0 0 a d)
    (hh : head opc 0 = w.extractLsb' 0 10)
    (h : (if w.getLsbD 31 || (w.extractLsb' 28 3).toNat ≠ 0 || w.extractLsb' 22 6 ≠ 0 then none
      else some (k (w.extractLsb' 10 6) (w.extractLsb' 16 6))) = some i) : encode i = [w] := by
  split at h <;> cases h
  next hz =>
  simp only [Bool.or_eq_true, decide_eq_true_eq, not_or, not_not] at hz
  obtain ⟨⟨hi, hfn⟩, hb⟩ := hz
  exact (hk _ _).trans (encS_slices hh hi hfn hb.symm rfl rfl)

/-- An indirect transfer: operand A alone. -/
theorem encode_target {k : SReg → Instr} (hk : ∀ a, encode (k a) = encS opc 0 0 a 0) (hh : head opc 0 = w.extractLsb' 0 10)
    (h : (if w.getLsbD 31 || (w.extractLsb' 28 3).toNat ≠ 0 || w.extractLsb' 22 6 ≠ 0 || w.extractLsb' 10 6 ≠ 0 then none
      else some (k (w.extractLsb' 16 6))) = some i) : encode i = [w] := by
  split at h <;> cases h
  next hz =>
  simp only [Bool.or_eq_true, decide_eq_true_eq, not_or, not_not] at hz
  obtain ⟨⟨⟨hi, hfn⟩, hb⟩, hd⟩ := hz
  exact (hk _).trans (encS_slices hh hi hfn hb.symm rfl hd.symm)

/-- Format S reads every bit of its word (R62, R65). The cases are the rows of `rawS` in their order. -/
theorem encode_rawS (h : rawS opc w = some i) (hh : head opc 0 = w.extractLsb' 0 10) : encode i = [w] := by
  unfold rawS at h
  dsimp only at h
  split at h
  case h_1 =>
    split at h <;> cases h
    next hw => rw [hw]; rfl
  case h_2 =>
    split at h
    next hi =>
      split at h <;> cases h
      next ha => exact encImm_slices hh hi rfl ha.symm rfl
    next => exact encode_one (fun _ _ => rfl) (fun _ _ => rfl) hh h
  case h_3 | h_4 | h_5 | h_6 | h_7 | h_8 | h_9 | h_10 | h_11 | h_15 | h_16 | h_17 | h_18 | h_19 | h_20 | h_23 | h_24 =>
    exact encode_two (fun _ _ _ => rfl) (fun _ _ _ => rfl) hh h
  case h_12 | h_13 | h_14 => exact encode_shift (fun _ _ _ => rfl) (fun _ _ _ => rfl) hh h
  case h_21 | h_22 => exact encode_one (fun _ _ => rfl) (fun _ _ => rfl) hh h
  case h_25 =>
    split at h <;> cases h
    next hi => exact encImm_slices hh hi rfl rfl rfl
    next hi => exact encS_slices hh hi rfl rfl rfl rfl
  case h_26 =>
    split at h <;> cases h
    next hi => exact encS_slices hh hi rfl rfl rfl rfl
  case h_27 | h_29 => exact encode_target (fun _ => rfl) hh h
  case h_28 | h_34 => exact encode_pair (fun _ _ => rfl) hh h
  case h_30 | h_35 =>
    split at h <;> cases h
    next hz => exact encS_zero hh hz
  case h_31 =>
    split at h
    next => cases h
    next hz =>
    simp only [Bool.or_eq_true, decide_eq_true_eq, not_or, not_not] at hz
    obtain ⟨⟨⟨hi, hb⟩, ha⟩, hd⟩ := hz
    split at h
    next hfn =>
      cases h
      exact encS_slices hh hi hfn hb.symm ha.symm hd.symm
    next =>
      split at h <;> cases h
      next hfn => exact encS_slices hh hi hfn hb.symm ha.symm hd.symm
  case h_32 =>
    split at h
    next => cases h
    next hz =>
    simp only [Bool.or_eq_true, decide_eq_true_eq, not_or, not_not] at hz
    obtain ⟨ha, hd⟩ := hz
    split at h
    next hi =>
      cases h
      exact encImm_slices hh hi rfl ha.symm hd.symm
    next =>
      split at h <;> cases h
      next hz => exact encS_zero hh hz
  case h_33 =>
    split at h
    next => cases h
    next hz =>
    simp only [Bool.or_eq_true, decide_eq_true_eq, not_or, not_not, Bool.not_eq_true', Bool.not_eq_false] at hz
    obtain ⟨⟨ha, hd⟩, hi⟩ := hz
    split at h <;> cases h
    next hk =>
    have hm : 1#2 ++ w.extractLsb' 22 7 = w.extractLsb' 22 9 := by
      rw [← (show _ = 1#2 from hk), extract_extract w (by decide), extractLsb'_append_extractLsb'_eq_extractLsb' rfl]
    exact encImm_slices hh hi hm ha.symm hd.symm
  case h_36 => cases h

end OneWord

/-! ### Words -/

/-- Opcode and length as a word holds them. -/
theorem head_of_word (w : W32) {len : Nat} (h : len = (w.extractLsb' 0 2).toNat) :
    head (w.extractLsb' 2 8).toNat len = w.extractLsb' 0 10 := by
  simp only [head, ofNat_code rfl, ofNat_code h, extractLsb'_append_extractLsb'_eq_extractLsb']

/-- The fields that an opcode's format reads are those its words are written from. -/
theorem encode_rawDecode {opc : Nat} {fmt : Fmt} {w0 w1 w2 : W32} {i : Instr} (h : rawDecode opc fmt w0 w1 w2 = some i)
    (hh : head opc fmt.len = w0.extractLsb' 0 10) : encode i = [w0, w1, w2].take (fmt.len + 1) := by
  cases fmt with
  | S => exact encode_rawS h hh
  | SI =>
    obtain ⟨c, f, hc, hf, rfl⟩ := build_eq_some h
    exact (encode_ctorSI hc f).trans (FmtSI.words_of_ofWords hf hh)
  | V =>
    obtain ⟨c, f, hc, hf, rfl⟩ := build_eq_some h
    exact (encode_ctorV hc f).trans (FmtV.words_of_ofWords hf hh)
  | VI =>
    obtain ⟨c, f, hc, hf, rfl⟩ := build_eq_some h
    exact (encode_ctorVI hc f).trans (FmtVI.words_of_ofWords hf hh)
  | M =>
    obtain ⟨c, f, hc, hf, rfl⟩ := build_eq_some h
    exact (encode_ctorM hc f).trans (FmtM.words_of_ofWords hf hh)
  | MI =>
    obtain ⟨c, f, hc, hf, rfl⟩ := build_eq_some h
    exact (encode_ctorMI hc f).trans (FmtMI.words_of_ofWords hf hh)
  | X =>
    obtain ⟨c, f, hc, hf, rfl⟩ := build_eq_some h
    exact (encode_ctorX hc f).trans (FmtX.words_of_ofWords hf hh)
  | B =>
    obtain ⟨c, f, hc, hf, rfl⟩ := build_eq_some h
    exact (encode_ctorB hc f).trans (FmtB.words_of_ofWords hf hh)
  | W =>
    obtain ⟨c, f, hc, hf, rfl⟩ := build_eq_some h
    exact (encode_ctorW hc f).trans (FmtW.words_of_ofWords hf hh)
  | T =>
    simp only [rawDecode] at h
    split at h
    next f hf =>
      have hwords : f.words opc = [w0, w1] := FmtT.words_of_ofWords hf hh
      rcases Option.or_eq_some_iff.mp h with hs | ⟨-, hb⟩
      · exact (encode_ctorSplitT hs).trans hwords
      · obtain ⟨c, f, hc, hf, rfl⟩ := build_eq_some hb
        cases hf
        exact (encode_ctorT hc f).trans hwords
    next => cases h

/-- What it takes to decode: an assigned opcode, the length of its format, words enough, and fields that the instruction
accepts (R61, steps 1 to 6). -/
theorem decode_eq_ok {w0 : W32} {rest : List W32} {i : Instr} (h : decode (w0 :: rest) = .ok i) :
    ∃ fmt, opFormat (w0.extractLsb' 2 8).toNat = some fmt ∧ fmt.len = (w0.extractLsb' 0 2).toNat ∧ fmt.len ≤ rest.length ∧
      rawDecode (w0.extractLsb' 2 8).toNat fmt w0 (rest.getD 0 0) (rest.getD 1 0) = some i ∧ i.wf = true := by
  unfold decode at h
  dsimp only at h
  split at h
  next => cases h
  split at h
  next => cases h
  next fmt hfmt =>
  split at h
  next => cases h
  next hlen =>
  split at h
  next => cases h
  next hrest =>
  split at h
  next => cases h
  next j hraw =>
  split at h <;> cases h
  next hwf => exact ⟨fmt, hfmt, not_not.mp hlen, not_lt.mp hrest, hraw, hwf⟩

/-- The words a format reads are the first of the list. -/
theorem take_words (w0 : W32) {rest : List W32} {n : Nat} (hn : n ≤ 2) (hr : n ≤ rest.length) :
    [w0, rest.getD 0 0, rest.getD 1 0].take (n + 1) = (w0 :: rest).take (n + 1) := by
  match n, rest, hr with
  | 0, _, _ => rfl
  | 1, _ :: _, _ => rfl
  | 2, _ :: _ :: _, _ => rfl

theorem Fmt.len_le (fmt : Fmt) : fmt.len ≤ 2 := by cases fmt <;> decide

/-- Settles O2: an instruction that decodes is made of slices of its words, and the encoder puts the same slices together. -/
theorem encodeDecode : Obligations.EncodeDecode := by
  unfold Obligations.EncodeDecode
  intro ws i h
  cases ws with
  | nil => cases h
  | cons w0 rest =>
    obtain ⟨fmt, -, hlen, hrest, hraw, hwf⟩ := decode_eq_ok h
    have henc : encode i = (w0 :: rest).take (fmt.len + 1) :=
      (encode_rawDecode hraw (head_of_word w0 hlen)).trans (take_words w0 fmt.len_le hrest)
    have hcount : (encode i).length = fmt.len + 1 := by rw [henc, List.length_take, List.length_cons]; omega
    exact ⟨hwf, hcount ▸ henc, List.ne_nil_of_length_eq_add_one hcount⟩

end Sys2Proof

/-! SUPPORT, O3, O4 and O7. Words that decode, words that do not, and the step of a split that runs what its words decode to. -/

namespace Sys2Proof.Machine

/-- Settles O3: the decoder is run on the words. -/
theorem decodeWords : Obligations.DecodeWords := by
  unfold Obligations.DecodeWords
  exact ⟨rfl, rfl, rfl, rfl, rfl⟩

/-! ### The issue of an instruction -/

/-- A split taken off its wait stays where it is in the program. -/
@[simp] theorem Split.unstalled_pc (sp : Split) : sp.unstalled.pc = sp.pc := by
  simp only [Split.unstalled, Split.restored]
  split <;> rfl

/-- The instruction that words run: what they decode to, else the one that raises ILLOP. -/
def instrOf (ws : List W32) : Instr :=
  match decode ws with
  | .ok i => i
  | .error _ => .illop

theorem instrOf_of_not_ok {ws : List W32} (h : ∀ i, decode ws ≠ .ok i) : instrOf ws = .illop := by
  unfold instrOf
  split
  next hd => exact absurd hd (h _)
  next => rfl

theorem State.fetch_words {s : State} {x : View} {d : Device} {ws : List W32}
    (hf : s.dev.fetch s.plat s.tick x.g.ctx s.cur.core x.sp.pc = .ok (d, ws)) : s.fetch x = .instr d (instrOf ws) := by
  simp only [State.fetch, hf, instrOf]
  cases decode ws <;> rfl

/-- The outcome of an instruction with the record of its issue from the state `s`. -/
def State.recorded (s : State) (i : Instr) : Host.Outcome State Fault Refusal → Host.Outcome State Fault Refusal
  | .next t => .next (State.noteIssued i s t)
  | o => o

theorem step_of_issue {s : State} {core slot lane : Nat} {rest : List Turn} (ha : s.agenda = .issue core slot lane :: rest) :
    step s = (s.begin rest).issueAt { core, slot, lane } := by
  unfold step State.turn
  rw [ha]

/-- A split that may issue runs the instruction its fetch gives, and the issue is recorded. -/
theorem State.issueAt_instr {s s0 : State} {r : SplitRef} {x : View} {d : Device} {i : Instr}
    (h0 : s0 = { s with cur := r }) (hx : s0.issuer = some x) (hm : s0.mayIssue x = true)
    (hf : (s0.unstall x).fetch { x with sp := x.sp.unstalled } = .instr d i) :
    s.issueAt r = (s0.unstall x).recorded i (exec i ((s0.unstall x).withDev d)) := by
  unfold State.issueAt
  rw [← h0]
  simp only [hx, hm, hf, Bool.not_true, Bool.false_eq_true, if_false]
  rfl

/-- Settles O4: the fetch gives the decoded instruction, and the turn is its meaning and the record of the issue. -/
theorem stepRunsDecoded : Obligations.StepRunsDecoded := by
  unfold Obligations.StepRunsDecoded
  intro s core slot lane rest x d ws s0 s1 ha hx hm hf i
  have hf : s1.dev.fetch s1.plat s1.tick x.g.ctx s1.cur.core x.sp.unstalled.pc = .ok (d, ws) := by
    rw [Split.unstalled_pc]; exact hf
  have hfetch : s1.fetch { x with sp := x.sp.unstalled } = .instr d (instrOf ws) := State.fetch_words hf
  exact (step_of_issue ha).trans (State.issueAt_instr rfl hx hm hfetch)

/-! ### Erased and zero-filled memory (R63) -/

/-- Opcode 0xFF is not assigned. -/
theorem decode_opcode_ff {w : W32} (rest : List W32) (ho : w.extractLsb' 2 8 = 0xFF) (i : Instr) :
    decode (w :: rest) ≠ .ok i := by
  intro h
  obtain ⟨fmt, hfmt, -⟩ := decode_eq_ok h
  rw [ho] at hfmt
  cases (show none = some fmt from hfmt)

/-- Opcode 0 is NOP's word or no instruction. -/
theorem decode_opcode_zero {w : W32} (rest : List W32) (ho : w.extractLsb' 2 8 = 0) (hw : w ≠ 0x0FFFFC00) (i : Instr) :
    decode (w :: rest) ≠ .ok i := by
  intro h
  obtain ⟨fmt, hfmt, -, -, hraw, -⟩ := decode_eq_ok h
  rw [ho] at hfmt hraw
  cases (show some Fmt.S = some fmt from hfmt)
  exact Option.some_ne_none i (hraw.symm.trans (if_neg hw))

/-- ILLOP's instruction raises ILLOP on the issuing split. -/
theorem exec_illop_withDev {s : State} {d : Device} {y : View} (hy : (s.withDev d).issuer = some y) :
    exec .illop (s.withDev d) =
      (s.withDev d).close y (d.raise s.env s.cur.key y.g y.sp { code := 0x01, lanes := y.sp.e }) := by
  dsimp only [exec, execIllop]
  exact State.onView_trap hy rfl rfl

/-- Settles O7: each of these words is rejected by the decoder, so that the step runs ILLOP's instruction. -/
theorem erasedMemoryIsIllop : Obligations.ErasedMemoryIsIllop := by
  unfold Obligations.ErasedMemoryIsIllop
  refine ⟨rfl, fun _ rest i hop => decode_opcode_ff rest hop i, ?_⟩
  intro s core slot lane agenda x y d w rest s1 ha hx hm hf hy hw
  have hi : instrOf (w :: rest) = .illop := by
    rcases hw with rfl | ⟨hop, -, hne⟩
    · exact instrOf_of_not_ok (decode_opcode_ff rest rfl)
    · exact instrOf_of_not_ok (decode_opcode_zero rest hop hne)
  have hstep : step s = s1.recorded (instrOf (w :: rest)) (exec (instrOf (w :: rest)) (s1.withDev d)) :=
    stepRunsDecoded s core slot lane agenda x d (w :: rest) ha hx hm hf
  rw [hstep, hi, exec_illop_withDev hy]
  rfl

end Sys2Proof.Machine

/-! SUPPORT and O17. The uniform branches: one view taken or not, and the indirect transfers with their check of the target. -/

namespace Sys2Proof.Machine

open Sys2Proof.Spec

/-- A branch goes on at its target when its condition holds, else past its words (R110). -/
theorem State.branch_next {s : State} {x : View} (hx : s.issuer = some x) (f : FmtB) {p : View → Bool} {b : Bool} (hp : p x = b) :
    s.branch f p = .next (s.after x (x.goto (if b then relTarget x.sp.pc f.off else x.sp.pc + 8))) := by
  refine State.onView_view hx rfl ?_
  subst hp
  cases p x <;> rfl

theorem exec_of_taken {s : State} {x : View} {i : Instr} {f : FmtB} {b : Bool} (hx : s.issuer = some x)
    (h : taken x i = some (f, b)) :
    exec i s = .next (s.after x (x.goto (if b then relTarget x.sp.pc f.off else x.sp.pc + 8))) := by
  cases i <;> cases h
  case br => exact State.branch_next hx f rfl
  case brs => exact State.branch_next hx f rfl
  case brany => exact State.branch_next hx f (by simp only [Bool.decide_and])

theorem exec_call {s : State} {x : View} (hx : s.issuer = some x) (f : FmtB) :
    exec (.call f) s = .next (s.after x ((x.setPair f.sd.toNat (x.sp.pc + 8)).goto (relTarget x.sp.pc f.off))) := by
  dsimp only [exec, execCall]
  exact State.onView_view hx rfl rfl

theorem indirect_aligned (x y : View) {a : W64} (h : a.toNat % 4 = 0) : indirect x y a = Out.view (y.goto a) :=
  if_neg (not_not.mpr h)

theorem indirect_misaligned (x y : View) {a : W64} (h : a.toNat % 4 ≠ 0) : indirect x y a = .trap (misalignAt x a) := if_pos h

/-- JMP, RET and CALLI are one indirect transfer, told apart by the view they leave (R114). -/
theorem exec_of_indirectTo (s : State) {x y : View} {i : Instr} {a : W64} (h : indirectTo x i = some (a, y)) :
    ∃ f, exec i s = s.onView [] f ∧ f x = indirect x y a := by
  cases i <;> cases h
  case jmp | ret | calli => exact ⟨_, rfl, rfl⟩

/-- Settles O17: a branch leaves one view, and an indirect transfer a view or the trap of its target. -/
theorem branchCompletes : Obligations.BranchCompletes := by
  unfold Obligations.BranchCompletes
  refine ⟨fun s x hx => ⟨fun i f b h => exec_of_taken hx h, exec_call hx⟩, fun s x y i a hx h => ?_⟩
  obtain ⟨g, hexec, hg⟩ := exec_of_indirectTo s h
  rw [hexec]
  exact ⟨fun ha => State.onView_view hx rfl (hg.trans (indirect_aligned x y ha)),
    fun ha => State.onView_trap hx rfl (hg.trans (indirect_misaligned x y ha))⟩

end Sys2Proof.Machine

/-! SUPPORT and O38. Instructions with no lane active, the lines that CACHE treats, and what a discarded granule reads. -/

namespace Sys2Proof.Machine

/-! ### No lane active (R83, R128, R168) -/

section NoLane

variable {s : State} {x : View} {i : Instr}

/-- A BAR instruction whose barrier the team has only moves past itself when no lane is active (R27, R168). -/
theorem State.barOp_none {f : FmtT} {op : Env → SplitRef → Device → View → Barrier → Res} (hx : s.issuer = some x)
    (hr : x.g.inRange i.spans = true) (hb : f.va.toNat < (s.dev.teamOf x.g).bars.length) (ha : x.active f.ms = 0) :
    s.barOp i f op = .next (s.afterOn s.dev x (x.next 8)) :=
  State.onDevice_view hx hr ((if_neg (Nat.not_le.mpr hb)).trans (if_pos ha))

theorem State.modulo_none {f : FmtM} {go : SplitRef → Device → View → Nat → List (Nat × Nat) → (View → View) → Res}
    (hx : s.issuer = some x) (hr : x.g.inRange i.spans = true) (ha : x.active f.ms = 0) :
    s.modulo i f go = .next (s.afterOn s.dev x (x.next 8)) := State.access_none hx hr ha

theorem State.swarmOp_none {f : FmtT} {acts : Swarm → Bool}
    {effect : Env → Device → View → Nat → Swarm → Except Miss Device} (hx : s.issuer = some x) (hr : x.g.inRange i.spans = true) (ha : x.active f.ms = 0) :
    s.swarmOp i f acts effect = .next (s.afterOn s.dev x (x.next 8)) := State.access_none hx hr ha

theorem State.copyOp_none {f : FmtT} {go : Env → SplitRef → Device → View → List W64 → Res} {sealable : Bool}
    (hx : s.issuer = some x) (hr : x.g.inRange i.spans = true) (ha : x.active f.ms = 0) :
    s.copyOp i f go sealable = .next (s.afterOn s.dev x (x.next 8)) := State.access_none hx hr ha

theorem State.colq_none {f : FmtT} {regionBad : Region → Bool} {laneBad : Region → View → Nat → Bool}
    {query : View → Nat → Query} (hx : s.issuer = some x) (hr : x.g.inRange i.spans = true) (ha : x.active f.ms = 0) :
    s.colq i f regionBad laneBad query = .next (s.afterOn s.dev x (x.next 8)) := State.access_none hx hr ha

theorem State.poolOnce_none {f : FmtT} {limit : Nat} {go : Env → SplitRef → Device → View → Nat → Res}
    (hx : s.issuer = some x) (hr : x.g.inRange i.spans = true) (ha : x.active f.ms = 0) :
    s.poolOnce i f limit go = .next (s.afterOn s.dev x (x.next 8)) := State.access_none hx hr ha

/-- Without a predicate the active lanes are those of E. -/
theorem View.active_none (x : View) : x.active .none = x.sp.e := BitVec.and_self

/-- An instruction under a predicate that admits no lane only moves past its words. -/
theorem exec_none_active {m : Pred} {n : Nat} (hx : s.issuer = some x) (h : Spec.maskOf i = some (m, n))
    (hr : x.g.inRange i.spans = true) (hb : ∀ k, Spec.barOf i = some k → k < (s.dev.teamOf x.g).bars.length)
    (ha : x.active m = 0) : exec i s = .next (s.afterOn s.dev x (x.next n)) := by
  cases i <;> cases h <;> dsimp only [exec]
  case barInit | barArrive | barWait | barExpect | barTest => exact State.barOp_none hx hr (hb _ rfl) ha
  case ldsm | stsm => exact State.modulo_none hx hr ha
  case swdl | swcan | swendClose | swendRun => exact State.swarmOp_none hx hr ha
  case cpy | cpydn | dyns => exact State.copyOp_none hx hr ha
  case colqQpoint | colqQsphere | colqQseg => exact State.colq_none hx hr ha
  case pdef | preset | regdef => exact State.poolOnce_none hx hr ha
  case gqpop => exact State.onDevice_view hx hr (if_pos (x.active_none ▸ ha))
  -- every other one is an access of its own
  all_goals exact State.access_none hx hr ha

end NoLane

/-! ### FENCE, CACHE and DISC (R184 to R186, R396) -/

/-- What CACHE does with the checks of one line: a line that fails one is skipped (R185). -/
def Device.cacheRun (core op ctx : Nat) (d : Device) : Except Miss Run → Device
  | .ok l => l.foldl (fun d t => d.cacheLine core op t.1) (d.touchAll (Agent.core core) ctx .load l)
  | .error _ => d

/-- CACHE goes on when no line's walk waits for a channel (R185, R415). -/
theorem exec_cache_next {f : FmtM} {s : State} {x : View} (hx : s.issuer = some x) (ha : x.active f.ms ≠ 0)
    (hr : x.g.inRange (Instr.cache f).spans = true) {runs : List (Except Miss Run)}
    (hruns : (x.globalReqs f 1 (x.active f.ms)).map (fun p =>
      s.dev.laneRun s.env x.g.ctx (Agent.core s.cur.core) .load true 1 1 p.2) = runs)
    (hc : ∀ r ∈ runs, r ≠ .error .channel) :
    exec (.cache f) s =
      .next (s.afterOn (runs.foldl (Device.cacheRun s.cur.core f.md.toNat x.g.ctx) s.dev) x (x.next 8)) := by
  subst hruns
  dsimp only [exec, execCache]
  refine State.access_view hx hr ha ((if_neg ?_).trans rfl)
  rw [Bool.not_eq_true, List.any_eq_false]
  intro r hmem
  have hne := hc r hmem
  split
  next => exact absurd rfl hne
  next => exact Bool.false_ne_true

/-- A byte of a store from which every key that fails a test is gone. -/
theorem SMap.get_filter {w : Nat} (m : SMap w) (p : Nat → Bool) (a : Nat) :
    SMap.get (m.filter (fun c => p c.1)) a = if p a then m.get a else 0 := by
  induction m with
  | nil => exact (ite_self _).symm
  | cons c m ih =>
    obtain ⟨k, v⟩ := c
    rw [List.filter_cons]
    by_cases hk : a = k
    · subst hk
      cases hp : p a
      · simpa [hp] using ih
      · simp [SMap.get]
    · cases hp : p k <;> simp [SMap.get, hk, ih]

theorem Device.mem_discard (d : Device) (pa : Nat) :
    (d.discard pa).mem = d.mem.filter (fun c => decide (c.1 / 4096 ≠ pa / 4096)) := by
  have htell (l : List Nat) (c : Device) : (l.foldl (fun c k => c.tell (lineKey .dev (pa + 128 * k))) c).mem = c.mem := by
    induction l generalizing c with
    | nil => rfl
    | cons k l ih => exact (ih _).trans (Device.space_tell c _ .dev)
  exact htell _ _

/-- A byte of a discarded granule reads zero, every other one as before. -/
theorem Device.get_discard (d : Device) (pa a : Nat) :
    SMap.get (d.discard pa).mem a = if a / 4096 = pa / 4096 then 0 else SMap.get d.mem a := by
  rw [Device.mem_discard, SMap.get_filter d.mem (fun k => decide (k / 4096 ≠ pa / 4096))]
  by_cases h : a / 4096 = pa / 4096 <;> simp [h]

/-- After discards one after another a byte of any of the granules reads zero, as does one that read zero before. -/
theorem Device.get_foldl_discard {a : Nat} (q : Run) (d : Device)
    (h : (∃ t ∈ q, a / 4096 = t.1.pa / 4096) ∨ SMap.get d.mem a = 0) :
    SMap.get (q.foldl (fun d t => d.discard t.1.pa) d).mem a = 0 := by
  induction q generalizing d with
  | nil => simpa using h
  | cons t q ih =>
    rw [List.foldl_cons]
    refine ih (d.discard t.1.pa) ?_
    rw [Device.get_discard]
    by_cases ht : a / 4096 = t.1.pa / 4096
    · exact .inr (if_pos ht)
    · simpa [ht] using h

/-- DISC of an open group goes on with each lane's granules discarded (R186, R396). -/
theorem exec_disc_next {f : FmtM} {s : State} {x : View} {l : List (Nat × Run)} (hx : s.issuer = some x) (ha : x.active f.ms ≠ 0)
    (hr : x.g.inRange (Instr.disc f).spans = true) (hopen : x.g.sealBuf = none) (hroom : s.dev.writeFull x.g = false)
    (hl : sumChecks ((x.globalReqs f 1 (x.active f.ms)).map (fun p =>
      (p.1, s.dev.laneRun s.env x.g.ctx (Agent.core s.cur.core) .store false 4096 4096 p.2))) = .ok l) :
    exec (.disc f) s = .next (s.afterOn (l.foldl (fun d p => p.2.foldl (fun d t => d.discard t.1.pa) d) s.dev) x
      ((x.counted.notePriv (l.any (fun p => runPriv p.2))).next 8)) := by
  dsimp only [exec, execDisc]
  refine State.access_view hx hr ha ?_
  simp only [hopen, Option.isSome_none, Bool.false_eq_true, if_false, hl, Checked.run, Device.writeGate, hroom]

/-- Settles O38: the rule of R168 for an empty mask, one meaning each for FENCE, CACHE and DISC, and what discarding leaves. -/
theorem fenceCacheDiscard : Obligations.FenceCacheDiscard := by
  unfold Obligations.FenceCacheDiscard
  refine ⟨fun i s x m n hx hm hr hb ha => exec_none_active hx hm hr hb ha,
    fun f s x hx ha => ⟨fun hr => ?_, fun hr hc => exec_cache_next hx ha hr rfl hc, fun l hr hopen hroom hl => ?_⟩⟩
  · dsimp only [exec, execFence]
    exact State.access_view hx hr ha rfl
  · refine ⟨exec_disc_next hx ha hr hopen hroom hl, ?_⟩
    rintro a ⟨p, hp, t, ht, hat⟩
    rw [← List.foldl_flatMap]
    exact Device.get_foldl_discard _ _ (.inl ⟨t, List.mem_flatMap.mpr ⟨p, hp, ht⟩, hat⟩)

end Sys2Proof.Machine

/-! SUPPORT, O13, O22 and O23. Scalar instructions whatever E holds; traps that wait or end the group, and the return from a
trap. -/

namespace Sys2Proof.Machine

open Sys2Proof.Spec

/-- Settles O13: a scalar instruction is its change of the view, which reads E as it does any register. -/
theorem scalarCompletes : Obligations.ScalarCompletes := by
  unfold Obligations.ScalarCompletes
  exact fun i n f s x hf hx => exec_scalar_next hf hx

/-! ### Traps elsewhere than in a free handler (R121, R124) -/

section Raised

variable {d : Device} {e : Env} {key : Nat} {g : Group} {sp : Split} {t : TrapReq} (hc : t.code ≠ 0x0D) (hs : g.sealBuf = none)

include hc hs

/-- A trap raised by a split while another handles one waits, and its split with it (R121). -/
theorem Device.raise_waits (hh : g.inHandler = true) (hsp : sp.handling = false) : d.raise e key g sp t =
    .ok (d.putGroup key { g.put sp.low [{ sp with park := .running, trapped := true }] with
      waiting := g.waiting ++ [t.waiting sp] }) := by
  simp [Device.raise, hc, hs, hh, hsp]

/-- A trap that no handler can take ends the group, as cancelled where it is CANCEL and TVEC is zero (R124). -/
theorem Device.raise_ends (hh : g.inHandler = true → sp.handling = true) (hv : g.tvec = 0 ∨ g.inHandler = true) :
    d.raise e key g sp t = if t.code = 0x0E ∧ g.tvec = 0 then d.endGroup e key g .cancelled
      else d.unhandled e key g t.code t.detail sp.pc t.addr := by
  have hnowait : (g.inHandler && !sp.handling) = false := by
    cases h : g.inHandler
    · rfl
    · simp [hh h]
  have hend : (g.inHandler || decide (g.tvec = 0)) = true := by simpa [or_comm] using hv
  simp only [Device.raise, hc, hs, hnowait, hend, if_false, if_true, Option.isSome_none, Bool.false_eq_true, Bool.and_eq_true,
    decide_eq_true_eq]

end Raised

/-- Settles O22: the branches of raising a trap in which no handler is entered. -/
theorem trapsElsewhere : Obligations.TrapsElsewhere := by
  unfold Obligations.TrapsElsewhere
  refine ⟨fun d e key g sp t hc hs hh hsp => Device.raise_waits hc hs hh hsp, fun d e key g sp t hc hs hh hv => ?_⟩
  rw [Device.raise_ends hc hs hh hv]
  unfold Device.unhandled
  cases g.task <;> rfl

/-! ### The return from a trap (R123) -/

/-- TRET outside a handler is ILLOP. -/
theorem execTret_outside {s : State} {x : View} (hx : s.issuer = some x) (hh : x.g.inHandler = false) :
    execTret s = s.close x (s.dev.raise s.env s.cur.key x.g x.sp { code := 0x01, lanes := x.sp.e }) := by
  simp [execTret, hx, hh]

theorem execTret_inside {s : State} {x : View} (hx : s.issuer = some x) (hh : x.g.inHandler = true) :
    execTret s = s.close x (s.dev.tret s.env s.cur.key x) := by
  simp [execTret, hx, hh]

/-- With no trap waiting a handler's end only releases the held splits. -/
theorem Device.released_of_none {d : Device} {e : Env} {key : Nat} {g : Group} (h : g.waiting = []) :
    d.released e key g = .ok (d.putGroup key { g with
      inHandler := false, splits := settleSplits (g.splits.map (fun sp => { sp with handling := false })) }) := by
  simp only [Device.released, h, firstWaiting]

/-- The words of s52 to s59 in a frame's bytes. -/
theorem savedWords_drop (l : List Byte) (o : Nat) : savedWords (l.drop o) =
    (List.range 8).map (fun k => BitVec.ofNat 32 (bytesToNat ((l.drop (o + 4 * k)).take 4))) := by
  simp only [savedWords, List.drop_drop]

/-- TRET's effect, once the frame is read and its resumption address is a multiple of 4. -/
theorem Device.tret_ok {d d1 : Device} {e : Env} {key : Nat} {x : View} {bytes : List Byte}
    (hf : d.frameRead e key x.g 0 96 = .ok (d1, bytes)) (hr : bytesToNat ((bytes.drop 8).take 8) % 4 = 0) :
    d.tret e key x = d1.released e key { x.g.restore (savedWords (bytes.drop 64)) with
      splits := x.g.splits.map (fun y => if y.low = x.sp.low then
        { x.sp with e := BitVec.ofNat 96 (bytesToNat ((bytes.drop 48).take 12)) &&& x.sp.l
                    pc := BitVec.ofNat 64 (bytesToNat ((bytes.drop 8).take 8)), handling := false }
        else y) } := by
  have haligned : (BitVec.ofNat 64 (bytesToNat ((bytes.drop 8).take 8))).toNat % 4 = 0 := by
    rw [BitVec.toNat_ofNat]
    omega
  simp only [Device.tret, hf, haligned, ne_eq, not_true_eq_false, if_false, Group.restore]

/-- Settles O23: the frame's fields give the handling split and s52 to s59, and the release the other splits. -/
theorem trapReturns : Obligations.TrapReturns := by
  unfold Obligations.TrapReturns
  refine fun s x hx => ⟨execTret_outside hx, ?_⟩
  intro d1 bytes hh hw hf at_ hr
  dsimp only [exec]
  rw [execTret_inside hx hh, Device.tret_ok hf hr, savedWords_drop]
  exact congrArg (s.close x) (Device.released_of_none (by exact hw))

end Sys2Proof.Machine

/-! SUPPORT and O19. Parking, and lanes that leave their split: what is left of a group whose issuing split has ended. -/

namespace Sys2Proof.Machine

/-! ### Lanes that leave (R117) -/

/-- Nothing is left of a group once the split that ends was its only one. -/
theorem Group.put_nil_splits_eq_nil (g : Group) (low : Nat) : (g.put low []).splits = [] ↔ ∀ y ∈ g.splits, y.low = low := by
  have hput : (g.put low []).splits = settleSplits (g.splits.filter (fun sp => sp.low ≠ low)) := by
    simp only [Group.put, List.append_nil]
  have hnil : g.splits.filter (fun sp => sp.low ≠ low) = [] ↔ ∀ y ∈ g.splits, y.low = low := by
    simp [List.filter_eq_nil_iff]
  rw [hput, ← hnil]
  exact ⟨fun h => by_contra fun hne => settleSplits_ne_nil _ hne h, fun h => by rw [h]; rfl⟩

section Exit

variable {s : State} {x : View}

/-- EXIT with lanes of L beyond E leaves them in the split, past its word. -/
theorem execExit_next (hx : s.issuer = some x) (h : x.sp.l &&& ~~~x.sp.e ≠ 0) : execExit s =
    .next (s.after x { x with sp := { x.sp with l := x.sp.l &&& ~~~x.sp.e, e := 0, pc := x.sp.pc + 4 } }) := by
  refine State.onView_view hx rfl ?_
  simp only [exitLanes, h, if_false, BitVec.and_not_self, Out.view]

/-- An exit that takes every lane of the split ends it. -/
def EndsSplit (x : View) (i : Instr) : Prop := (i = .exit ∧ x.sp.l &&& ~~~x.sp.e = 0) ∨ i = .exitAll

theorem exec_of_endsSplit {i : Instr} (hx : s.issuer = some x) (h : EndsSplit x i) :
    exec i s = s.close x (s.dev.finish s.env s.cur.key x.g x.sp.low x.sp.handling []) := by
  have hlanes {m : Mask} (hm : x.sp.l &&& ~~~m = 0) : exitLanes x m = .ok x.g [] := by simp only [exitLanes, hm, if_true]
  rcases h with ⟨rfl, h⟩ | rfl
  · dsimp only [exec, execExit]
    simp [State.onView, hx, Group.inRange, hlanes h]
  · dsimp only [exec, execExitAll]
    simp [State.onView, hx, Group.inRange, hlanes (BitVec.and_not_self x.sp.l)]

end Exit

/-! ### The end of a split (R123, R222, R223) -/

section Ends

variable {d : Device} {e : Env} {key low : Nat} {g : Group}

/-- A split that ends leaves the others. -/
theorem Device.finish_nil_others (h : ∃ y ∈ g.splits, y.low ≠ low) :
    d.finish e key g low false [] = .ok (d.putGroup key (g.put low [])) := by
  have hne : (g.put low []).splits ≠ [] := fun hnil => by
    obtain ⟨y, hy, hlow⟩ := h
    exact hlow ((g.put_nil_splits_eq_nil low).mp hnil y hy)
  simp [Device.finish, hne]

/-- A handling split that ends gives back s52 to s59 from its frame, and the group. -/
theorem Device.finish_nil_handling {d1 : Device} {l : List Byte} (h : ∃ y ∈ g.splits, y.low ≠ low)
    (hf : d.frameRead e key (g.put low []) 64 32 = .ok (d1, l)) :
    d.finish e key g low true [] = d1.released e key ((g.put low []).restore (savedWords l)) := by
  have hne : (g.put low []).splits ≠ [] := fun hnil => by
    obtain ⟨y, hy, hlow⟩ := h
    exact hlow ((g.put_nil_splits_eq_nil low).mp hnil y hy)
  simp [Device.finish, hne, hf]

/-- The last split that ends takes the group past its commit point or out of its slot. -/
theorem Device.finish_nil_last (handling : Bool) (h : ∀ y ∈ g.splits, y.low = low) :
    d.finish e key g low handling [] = d.lastSplit e key (g.put low []) := by
  simp only [Device.finish, (g.put_nil_splits_eq_nil low).mpr h, if_true]

end Ends

/-- Settles O19: the parks are views, and an exit that ends its split is the end of that split in its group. -/
theorem parkAndExitComplete : Obligations.ParkAndExitComplete := by
  unfold Obligations.ParkAndExitComplete
  refine ⟨fun s x hx => ⟨?_, ?_, fun n hn => ?_, ?_⟩, fun s x hx => ⟨execExit_next hx, ?_, ?_, ?_, ?_⟩⟩
  · dsimp only [exec, execSyncs]
    exact State.onView_view hx rfl rfl
  · dsimp only [exec, execYield]
    exact State.onView_view hx rfl rfl
  · dsimp only [exec, execYieldImm]
    exact State.onView_view hx rfl (if_neg hn)
  · rfl
  · intro i hi hh hothers
    rw [exec_of_endsSplit hx hi, hh, Device.finish_nil_others hothers]
    rfl
  · intro i d1 l d hi hh hothers hf hr
    rw [exec_of_endsSplit hx hi, hh, Device.finish_nil_handling hothers hf, hr]
    rfl
  · intro i d hi hlast hopen hend
    rw [exec_of_endsSplit hx hi, Device.finish_nil_last _ hlast, Device.lastSplit, Group.put_sealBuf, hopen]
    simp only [Option.isSome_none, Bool.false_eq_true, if_false, hend]
    rfl
  · intro i hi hlast hseal
    rw [exec_of_endsSplit hx hi, Device.finish_nil_last _ hlast, Device.lastSplit, Group.put_sealBuf, if_pos hseal]
    rfl

end Sys2Proof.Machine

/-! SUPPORT and O48. The events of a waiting split, one lemma for each that is due. -/

namespace Sys2Proof.Machine

/-- A due event that leaves the device and changes its split alone. -/
theorem State.onParked_done {s : State} {core slot lane : Nat} {x : View} {sp : Split}
    {f : Env → SplitRef → Device → View → Option Res} (hx : s.viewAt core slot lane = some x)
    (hf : f s.env { core, slot, lane } s.dev x = some (.done s.dev sp)) :
    s.onParked core slot lane f = .next (s.afterSplit core slot x sp) := by
  simp only [State.onParked, hx, hf, Device.apply, State.viewAt_group hx, Device.finish_cons, State.closeParked,
    State.afterSplit]

/-- The split, waiting no longer. -/
def View.running (x : View) : View := { x with sp := { x.sp with park := .running } }

/-- The view that a WATCH leaves when it ends with a status: the write is noted in the spin record. -/
def View.watchLeft (x : View) (sd : SReg) (v : W32) : View :=
  let y := (x.running.setS sd.toNat v).next 4
  { y with sp := y.sp.noteWrites false x.g y.g (changedExec x.sp.e y.sp.e) }

section Due

variable {s : State} {core slot lane : Nat} {x : View} (hx : s.viewAt core slot lane = some x)

include hx

/-! ### YIELD (R118) -/

/-- A YIELD ends once 64 cycles have passed, or none of the others is still there that has not issued. -/
theorem execYieldEnd_others {since : Nat} {others : List Nat} (hp : x.sp.park = .yieldAll since others)
    (h : since + 64 ≤ s.plat.cycles.toNat ∨ ∀ k ∈ others, ∀ sp ∈ x.g.splits, sp.low = k → k = x.sp.low) :
    execYieldEnd core slot lane s = .next (s.afterSplit core slot x x.running.sp) := by
  unfold execYieldEnd
  have hover : x.yieldOver s.plat.cycles.toNat since others = true := by simpa [View.yieldOver] using h
  exact State.onSplit_some hx (by simp [hp, State.env, hover, View.running])

theorem execYieldEnd_count {t : Nat} (hp : x.sp.park = .yieldUntil t) (h : t ≤ s.plat.cycles.toNat) :
    execYieldEnd core slot lane s = .next (s.afterSplit core slot x x.running.sp) := by
  unfold execYieldEnd
  exact State.onSplit_some hx (by simp [hp, State.env, h, View.running])

/-! ### WATCH (R119) -/

theorem execWatchWake_due {sd : SReg} {since : Nat} {m : Monitor} (hp : x.sp.park = .watch sd since)
    (hm : s.dev.monitorOf { core, slot, lane } x = some m) (hhit : m.hit = true) : execWatchWake core slot lane s =
      .next (s.afterParked core slot (s.dev.disarm { core, slot, lane } x.sp.low) x (x.watchLeft sd 0)) := by
  unfold execWatchWake
  refine State.onParked_view hx ?_
  simp only [hp, hm, hhit, if_true]
  rfl

theorem execWatchTimeout_due {sd : SReg} {since : Nat} (hp : x.sp.park = .watch sd since)
    (h : since + 4096 ≤ s.plat.cycles.toNat) : execWatchTimeout core slot lane s =
      .next (s.afterParked core slot (s.dev.disarm { core, slot, lane } x.sp.low) x (x.watchLeft sd 1)) := by
  unfold execWatchTimeout
  refine State.onParked_view hx ?_
  simp only [hp, State.env, h, if_true]
  rfl

/-! ### The boost and the spin detector (R216, R218, R219) -/

theorem execSplitEligibilityBoost_due (hq : s.dev.qualifies s.plat.cycles.toNat (slotKey core slot) x.g x.sp = true)
    (hfree : 0 < x.g.freePlaces) : execSplitEligibilityBoost core slot lane s =
      .next (s.afterSplit core slot x { x.sp with boosted := true }) := by
  unfold execSplitEligibilityBoost
  exact State.onParked_done hx (by simp [State.env, SplitRef.key, hq, hfree])

theorem execSpinDemote_due (h : 64 ≤ x.sp.spin.n) : execSpinDemote core slot lane s =
    .next (s.afterSplit core slot x (x.sp.demote s.plat.cycles.toNat)) := by
  unfold execSpinDemote
  exact State.onSplit_some hx (by simp [State.env, h])

theorem execSpinRestore_due (hd : x.sp.demoted = true) (hn : x.sp.notedHit = true) : execSpinRestore core slot lane s =
    .next (s.afterSplit core slot x x.sp.restoreSpin) := by
  unfold execSpinRestore
  exact State.onSplit_some hx (by simp [hd, hn, Split.restored])

theorem execSpinRestoreTimeout_due (hd : x.sp.demoted = true) (h : x.sp.demotedAt + 4096 ≤ s.plat.cycles.toNat) :
    execSpinRestoreTimeout core slot lane s = .next (s.afterSplit core slot x x.sp.restoreSpin) := by
  unfold execSpinRestoreTimeout
  exact State.onSplit_some hx (by simp [State.env, hd, h])

/-! ### The timeout of a barrier's WAIT (R302) -/

theorem execBarWaitTimeout_due {f : FmtT} {p : W32} {start : W64} {tout : W32} (hp : x.sp.park = .barWait f p start tout)
    (ht : tout ≠ 0) (h : start.toNat + tout.toNat ≤ s.plat.dtime.toNat) : execBarWaitTimeout core slot lane s =
      .next (s.afterParked core slot s.dev x ((x.running.setS f.sd.toNat 1).next 8)) := by
  unfold execBarWaitTimeout
  have hnow : start.toNat + tout.toNat ≤ s.env.now.toNat := h
  refine State.onParked_view hx ?_
  simp only [hp, ht, hnow, ne_eq, not_false_eq_true, decide_true, Bool.and_self, if_true]
  rfl

end Due

/-- What a split must be to take a place (R216). -/
theorem Device.qualifies_of {d : Device} {now key c : Nat} {g : Group} {sp : Split} (hb : sp.boosted = false)
    (hd : sp.isDemoted = false) (hw : d.unwaiting key g sp = true) (hel : ∀ q ∈ g.eligible, q.low ≠ sp.low)
    (hc : sp.eligibleAt = some c) (hlate : c + 1024 ≤ now) : d.qualifies now key g sp = true := by
  have hnot : g.eligible.any (fun q => q.low = sp.low) = false := by simpa using hel
  simp only [Device.qualifies, hb, hd, hw, hnot, hc, Option.any_some, hlate, decide_true, Bool.not_false, Bool.and_self]

/-- Settles O48: each event, when due, leaves what its definition gives. -/
theorem splitEventsComplete : Obligations.SplitEventsComplete := by
  unfold Obligations.SplitEventsComplete
  intro s core slot lane x hx
  refine ⟨?_, ?_, ?_, ?_, ?_, ?_, ?_, ?_⟩
  · exact fun _ _ hp h => execYieldEnd_others hx hp h
  · exact fun _ hp h => execYieldEnd_count hx hp h
  · exact fun _ _ hp => ⟨fun _ hm hhit => execWatchWake_due hx hp hm hhit, execWatchTimeout_due hx hp⟩
  · rintro hb hd hw hel ⟨c, hc, hlate⟩ hfree
    exact execSplitEligibilityBoost_due hx (Device.qualifies_of hb hd hw hel hc hlate) hfree
  · exact execSpinDemote_due hx
  · exact execSpinRestore_due hx
  · exact execSpinRestoreTimeout_due hx
  · exact fun _ _ _ _ hp ht h => execBarWaitTimeout_due hx hp ht h

end Sys2Proof.Machine

/-! SUPPORT and O47. What the device puts out: entries of a stream, a signal's decrement, and the monitor of a WATCH. -/

namespace Sys2Proof.Machine

/-- What may miss and does not, for an instruction that acts once for its split. -/
theorem onceRun_ok {α : Type} {d : Device} {x : View} {m : Except Miss α} {f : α → Res} {a : α} (h : m = .ok a) :
    onceRun d x m f = f a := by
  simp only [onceRun, h]

/-- Lanes whose entries all find room end their HSTW with the triple of those that wrote (R380). -/
theorem hstwGo_done {e : Env} {r : SplitRef} {d d1 d2 : Device} {x : View} {f : FmtT} {lanes : List Nat} {done act m : Mask}
    {since n : Nat} (hl : d.streamLanes e x.g.ctx f.md.toNat (lanes.map (fun l => (l, x.regBytes f.va.toNat l n))) done
      = .ok (d1, [], m))
    (hp : (d1.order r.core .rel .sys).streamPublish e x.g.ctx f.md.toNat = .ok d2) :
    hstwGo e r d x f lanes done act since n = Res.view d2 r.key ((x.writeT act f.sd.toNat m).next 8) :=
  (onceRun_ok hl).trans (onceRun_ok hp)

/-- The line of the byte that a WATCH has checked. -/
def watchedLine (l : Run) : Nat := (l.map (fun t => lineKey t.1.space t.1.pa)).headD 0

section Outputs

variable {s : State} {x : View} (hx : s.issuer = some x)

include hx

theorem execHstw_next {f : FmtT} {st : HStream} {d1 d2 : Device} {m : Mask} (hopen : x.g.sealBuf = none)
    (ha : x.active f.ms ≠ 0) (hr : x.g.inRange (Instr.hstw f).spans = true)
    (hst : s.dev.stream x.g.ctx f.md.toNat = some st) (hsz : st.esz = f.sub.toNat)
    (hw : s.dev.streamWaiters x.g.ctx f.md.toNat = [])
    (hl : s.dev.streamLanes s.env x.g.ctx f.md.toNat
      ((lanesOf (x.active f.ms)).map (fun l => (l, x.regBytes f.va.toNat l st.size))) 0 = .ok (d1, [], m))
    (hp : (d1.order s.cur.core .rel .sys).streamPublish s.env x.g.ctx f.md.toNat = .ok d2) :
    execHstw f s = .next (s.afterOn d2 x ((x.writeT (x.active f.ms) f.sd.toNat m).next 8)) := by
  unfold execHstw
  refine State.access_view hx hr ha ?_
  simpa [hopen, hst, hsz, hw] using hstwGo_done (r := s.cur) hl hp

theorem execSigdec_next {f : FmtT} {n v : Nat} {l : Run} {d1 : Device} (hopen : x.g.sealBuf = none)
    (ha : x.active f.ms ≠ 0) (hr : x.g.inRange (Instr.sigdec f).spans = true)
    (harg : sigdecArgs (x.s f.sb.toNat) (f.opt.getLsbD 0) = some (n, v))
    (hl : s.dev.laneRun s.env x.g.ctx (Agent.core s.cur.core) .atomic false 8 8 (x.pair f.sa.toNat).toNat = .ok l)
    (hd : (s.dev.order s.cur.core .rel .sys).signalDec s.env x.g.ctx (Agent.core s.cur.core) (x.pair f.sa.toNat) n false false
      = .ok d1) :
    execSigdec f s = .next (s.afterOn (if f.opt.getLsbD 0 then d1.interrupt s.env v else d1) x (x.next 8)) := by
  unfold execSigdec
  refine State.access_view hx hr ha ?_
  simp only [hopen, Option.isSome_none, Bool.false_eq_true, if_false, harg, onceRun_ok hl, onceRun_ok hd]

section Watch

variable {sd sa : SReg} {l : Run}
  (hl : s.dev.probeN s.plat s.tick x.g.ctx (Agent.core s.cur.core) .load true (x.pair sa.toNat) 1 = .ok l)

include hl

/-- WATCH goes on with status 2 where its core has 32 monitors armed. -/
theorem execWatch_armed (h : 32 ≤ (s.dev.touchAll (Agent.core s.cur.core) x.g.ctx .load l).armed s.cur.core) :
    execWatch sd sa s = .next (s.afterOn (s.dev.touchAll (Agent.core s.cur.core) x.g.ctx .load l) x
      ((x.setS sd.toNat 2).next 4)) := by
  unfold execWatch
  refine State.onDevice_view hx rfl ?_
  simp only [State.env, hl, h, if_true]

/-- WATCH parks with a monitor armed on its line. -/
theorem execWatch_parks {g : Group} {d1 : Device} (hd : s.dev.touchAll (Agent.core s.cur.core) x.g.ctx .load l = d1)
    (h : d1.armed s.cur.core < 32) (hg : d1.groups.get s.cur.key = some g) :
    execWatch sd sa s = .next (s.withDev (({ d1 with monitors := d1.monitors ++ [
      { core := s.cur.core, slot := s.cur.slot, lane := x.sp.low, line := watchedLine l, hit := false }] } : Device).putGroup
        s.cur.key (g.put x.sp.low [{ x.sp with park := .watch sd s.plat.cycles.toNat }]))) := by
  unfold execWatch
  refine State.onDevice_done hx rfl ?_ hg
  simp only [State.env, hl, hd, Nat.not_le.mpr h, if_false, watchedLine]

end Watch

end Outputs

/-- Settles O47: the checks that pass leave each instruction one result. -/
theorem outputsComplete : Obligations.OutputsComplete := by
  unfold Obligations.OutputsComplete
  intro f s x hx
  refine ⟨?_, ?_, fun sd sa l hl => ⟨?_, ?_⟩⟩
  · exact fun _ _ _ _ hopen ha hr hst hsz hw hl hp => execHstw_next hx hopen ha hr hst hsz hw hl hp
  · exact fun _ _ _ _ hopen ha hr harg hl hd => execSigdec_next hx hopen ha hr harg hl hd
  · exact fun h => execWatch_armed hx hl h
  · exact fun g h hg => execWatch_parks hx hl rfl h hg

end Sys2Proof.Machine

/-! SUPPORT and O40. FWAIT and FPOLL: the lanes' reads, the registers that they write, and the wait for stamps. -/

namespace Sys2Proof.Machine

open Sys2Proof.Spec

/-! ### The lanes' operations on futures (R277) -/

/-- Lanes whose futures pass their checks and whose operations meet no fault end as their results say. -/
theorem futLanes_ok {β : Type} {s : State} {x : View} {f : FmtT} {l : List (Nat × Run)} {d : Device} {bs : List (Nat × β)}
    {op : Device → Nat × W64 → Except LaneErr (Device × β)} {fin : Device → List (Nat × β) → Res}
    (hl : futChecks s.dev s x f = .ok l)
    (hd : eachLane op (futOrder s x f) (futTouched s.dev s x l) = .ok (d, bs, [])) :
    futLanes s.env s.cur s.dev x f (x.active f.ms) op fin = fin d bs := by
  unfold futChecks futReqs at hl
  unfold futOrder futReqs futTouched at hd
  have hd : eachLane op (anyOrder s.env.tick _) _ = _ := hd
  simp only [futLanes, hl, Checked.run, hd, worstTrap]

/-! ### What is written (R277, R284, R285) -/

/-- A lane's future is written as the list of its registers. -/
theorem futPut_eq (vb : Nat) (y : View) (p : Nat × W64 × Fut) :
    futPut vb y p = { y with g := (futWrites vb p).foldl (fun g q => g.setV q.1 q.2.1 q.2.2) y.g } := by
  by_cases h5 : 5 ≤ p.2.2.st <;> cases hu : p.2.2.unsettled <;> simp [futPut, futWrites, Fut.report, h5, hu, Group.setVpair]

theorem foldl_futPut (vb : Nat) (bs : List (Nat × W64 × Fut)) (y : View) :
    bs.foldl (futPut vb) y =
      { y with g := (bs.flatMap (futWrites vb)).foldl (fun g q => g.setV q.1 q.2.1 q.2.2) y.g } := by
  induction bs generalizing y with
  | nil => rfl
  | cons p bs ih => rw [List.foldl_cons, ih, futPut_eq, List.flatMap_cons, List.foldl_append]

/-- What FWAIT and FPOLL hold until the stamps of the futures that they read RESOLVED are performed. -/
def futWait (d : Device) (s : State) (x : View) (f : FmtT) (bs : List (Nat × W64 × Fut)) : DrainWait :=
  { stamps := d.lateStamps s.env s.cur.core x.g.ctx (bs.map Prod.snd), acquire := bs.any (fun p => p.2.2.st = 2), s := []
    v := bs.flatMap (futWrites f.vb.toNat) }

theorem futWait_written (d : Device) (s : State) (x : View) (f : FmtT) (bs : List (Nat × W64 × Fut)) :
    (futWait d s x f bs).written x =
      (bs.foldl (futPut f.vb.toNat) { x with sp := { x.sp with park := .running } }).next 8 := by
  rw [foldl_futPut]
  rfl

/-! ### Stamps not yet performed (R255, R272) -/

@[simp] theorem Device.unreached_unreached (d : Device) (l : List Stamp) : d.unreached (d.unreached l) = d.unreached l := by
  simp [Device.unreached]

theorem futWait_unreached (d : Device) (s : State) (x : View) (f : FmtT) (bs : List (Nat × W64 × Fut)) :
    d.unreached (futWait d s x f bs).stamps = (futWait d s x f bs).stamps := d.unreached_unreached _

/-- With every stamp performed an instruction ends at once. -/
theorem drainThen_nil {r : SplitRef} {d : Device} {x : View} {w : DrainWait} (h : d.unreached w.stamps = []) :
    drainThen r d x w = Res.view (if w.acquire then d.order r.core .acq .dev else d) r.key (w.written x) := by
  simp only [drainThen, h]

/-- Else it holds what it is to write. -/
theorem drainThen_ne_nil {r : SplitRef} {d : Device} {x : View} {w : DrainWait} (h : d.unreached w.stamps ≠ []) :
    drainThen r d x w = .done d { x.sp with park := .drain { w with stamps := d.unreached w.stamps } } := by
  unfold drainThen
  split
  next hnil => exact absurd hnil h
  next => rfl

/-- An instruction that waits for stamps ends once every one is performed, and stays as it is till then. -/
theorem Device.drainEnd_eq {d : Device} {key : Nat} {g : Group} {sp : Split} {w : DrainWait}
    (hg : d.groups.get key = some g) (hsp : g.splitAt sp.low = some sp) (hp : sp.park = .drain w) :
    d.drainEnd key sp.low = if d.unreached w.stamps = [] then
      (if w.acquire then d.order (key / 48) .acq .dev else d).putGroup key ((w.written { g, sp }).g.put sp.low
        [(w.written { g, sp }).sp.noteWrites false g (w.written { g, sp }).g []])
      else d := by
  simp only [Device.drainEnd, hg, hsp, hp, List.isEmpty_iff]

/-! ### FWAIT and FPOLL -/

section Reads

variable {f : FmtT} {s : State} {x : View} {l : List (Nat × Run)} {d : Device} {bs : List (Nat × W64 × Fut)}
  (hl : futChecks s.dev s x f = .ok l)
  (hd : eachLane (futReport s.env s.cur.core x) (futOrder s x f) (futTouched s.dev s x l) = .ok (d, bs, []))

include hl hd

/-- FPOLL, and an FWAIT whose futures have all settled, are one access: it waits for the stamps and writes. -/
theorem exec_futRead {i : Instr} (hopen : x.g.sealBuf = none)
    (hi : (i = .fwait f ∧ ∀ p ∈ bs, p.2.2.unsettled = false) ∨ i = .fpoll f) : ∃ F, exec i s = s.access i 8 f.ms F ∧
      F s.env s.cur s.dev x (x.active f.ms) = drainThen s.cur d x (futWait d s x f bs) := by
  rcases hi with ⟨rfl, hset⟩ | rfl
  · have hall : bs.all (fun p => !p.2.2.unsettled) = true := by simpa using hset
    dsimp only [exec, execFwait]
    refine ⟨_, rfl, ?_⟩
    simp only [hopen, Option.isSome_none, Bool.false_and, Bool.false_eq_true, if_false]
    exact (futLanes_ok hl hd).trans (if_pos hall)
  · dsimp only [exec, execFpoll]
    exact ⟨_, rfl, futLanes_ok hl hd⟩

/-- An FWAIT with a future that has not settled parks, lent through and with a wake reference on each of them (R284, R286). -/
theorem execFwait_parks {d1 d2 : Device} {ws : List (Nat × Bool)} {g : Group} (hx : s.issuer = some x)
    (hopen : x.g.sealBuf = none) (ha : x.active f.ms ≠ 0) (hr : x.g.inRange (Instr.fwait f).spans = true) (ho : f.opt ≠ 1)
    (hun : ∃ p ∈ bs, p.2.2.unsettled = true) {pend : List W64}
    (hpend : ((bs.filter (fun p => p.2.2.unsettled)).map (fun p => p.2.1)).dedup = pend)
    (hlend : lendAll s.env s.cur.key d x pend = .ok d1)
    (hwake : eachLane (fun d a => laneOf (d.wakeOn s.env s.cur x.g.ctx (s.tick % 65536) a))
      ((anyOrder s.tick pend).map (fun a => (((bs.find? (fun p => p.2.1 = a)).map Prod.fst).getD 0, a))) d1 = .ok (d2, ws, []))
    (hg : d2.groups.get s.cur.key = some g) : execFwait f s = .next (s.withDev (d2.putGroup s.cur.key
      (g.put x.sp.low [{ x.sp with park := .fwait f (ws.any (fun p => p.2)) false s.plat.cycles.toNat
                                   token := BitVec.ofNat 16 (s.tick % 65536) }]))) := by
  have hsome : ¬bs.all (fun p => !p.2.2.unsettled) = true := by simpa using hun
  unfold execFwait
  refine State.access_done hx hr ha ?_ hg
  simp only [hopen, Option.isSome_none, Bool.false_and, Bool.false_eq_true, if_false]
  refine (futLanes_ok hl hd).trans ((if_neg hsome).trans ((if_neg ho).trans ?_))
  simp only [fwaitPark, State.env] at hlend hwake ⊢
  simp only [hpend, hlend, hwake, worstTrap]

end Reads

/-- Settles O40: the reads come to one wait for stamps, which ends now or later; or to the park of an FWAIT. -/
theorem futureReadsComplete : Obligations.FutureReadsComplete := by
  unfold Obligations.FutureReadsComplete
  intro f s x l d bs hx hopen ha hl hd acq late
  refine ⟨fun i hr hi => ?_, fun d key g sp w hg hsp hp => ?_, fun d1 d2 ws g hr ho hun => ?_⟩
  · obtain ⟨F, hexec, hF⟩ := exec_futRead hl hd hopen hi
    have hunr := futWait_unreached d s x f bs
    intro y
    rw [hexec]
    refine ⟨fun hlate => ?_, fun g hlate hg => ⟨futWait d s x f bs, rfl, ?_, rfl, futWait_written d s x f bs⟩⟩
    · refine State.access_view hx hr ha (hF.trans ?_)
      rw [drainThen_nil (hunr.trans hlate), futWait_written]
      rfl
    · refine State.access_done hx hr ha (hF.trans ?_) hg
      rw [drainThen_ne_nil (hunr.trans_ne hlate), hunr]
  · intro y
    rw [Device.drainEnd_eq hg hsp hp]
    exact ⟨fun h => if_neg h, fun h => if_pos h⟩
  · intro pend hlend hwake hg
    exact execFwait_parks hl hd hx hopen ha hr ho hun rfl hlend hwake hg

end Sys2Proof.Machine

/-! SUPPORT and O18. Routing, lane by lane: the way that a lane takes, and the splits as the sets of lanes that go to each
target. -/

namespace Sys2Proof.Machine

open Sys2Proof.Spec

/-! ### Masks by their lanes -/

theorem ne_zero_iff_lane {m : Mask} : m ≠ 0 ↔ ∃ l, m.getLsbD l = true := by
  rw [← not_iff_not]
  push Not
  exact ⟨fun h => by simp [h], fun h => BitVec.eq_of_getLsbD_eq fun i _ => by simpa using h i⟩

theorem lane_andNot {m n : Mask} {l : Nat} : (m &&& ~~~n).getLsbD l = true ↔ m.getLsbD l = true ∧ n.getLsbD l = false := by
  simp only [BitVec.getLsbD_and, BitVec.getLsbD_not, Bool.and_eq_true, decide_eq_true_eq, Bool.not_eq_true']
  exact ⟨fun ⟨hm, _, hn⟩ => ⟨hm, hn⟩, fun ⟨hm, hn⟩ => ⟨hm, BitVec.lt_of_getLsbD hm, hn⟩⟩

/-- One mask lies within another when each of its lanes does. -/
theorem andNot_eq_zero {m n : Mask} : m &&& ~~~n = 0 ↔ ∀ l, m.getLsbD l = true → n.getLsbD l = true := by
  rw [← not_iff_not, ← ne_eq, ne_zero_iff_lane]
  simp [lane_andNot, -BitVec.getLsbD_and]

theorem and_eq_zero_of_lanes {m n : Mask} (h : ∀ l, m.getLsbD l = true → n.getLsbD l = true → False) : m &&& n = 0 := by
  by_contra hne
  obtain ⟨l, hl⟩ := ne_zero_iff_lane.mp hne
  rw [BitVec.getLsbD_and, Bool.and_eq_true] at hl
  exact h l hl.1 hl.2

theorem eq_of_lanes {m n : Mask} (h : ∀ l, m.getLsbD l = true ↔ n.getLsbD l = true) : m = n :=
  BitVec.eq_of_getLsbD_eq fun l _ => Bool.eq_iff_iff.mpr (h l)

/-- The lanes of an OR of masks. -/
theorem lane_foldl_or {α : Type} {f : α → Mask} {k : List α} {m : Mask} {l : Nat} :
    (k.foldl (fun m a => m ||| f a) m).getLsbD l = true ↔ m.getLsbD l = true ∨ ∃ a ∈ k, (f a).getLsbD l = true := by
  induction k generalizing m with
  | nil => simp
  | cons a k ih => rw [List.foldl_cons, ih, BitVec.getLsbD_or, Bool.or_eq_true, List.exists_mem_cons_iff, or_assoc]

/-! ### The way of a lane (R108, R111) -/

/-- Where a lane goes: to the first way whose triple holds it, else to the fall-through. -/
def View.laneTarget (x : View) (ways : List (W64 × Nat)) (ft : W64) (l : Nat) : W64 :=
  ((ways.find? (fun w => (x.triple w.2).getLsbD l)).map Prod.fst).getD ft

/-- The lane sets of the ways and of the fall-through. -/
def View.routeSets (x : View) (ways : List (W64 × Nat)) (ft : W64) (m : Mask) : List (W64 × Mask) :=
  (routeLanes x ways m).1 ++ [(ft, (routeLanes x ways m).2)]

theorem View.laneTarget_cons (x : View) (a : W64) (t : Nat) (ways : List (W64 × Nat)) (ft : W64) (l : Nat) :
    x.laneTarget ((a, t) :: ways) ft l = if (x.triple t).getLsbD l then a else x.laneTarget ways ft l := by
  cases h : (x.triple t).getLsbD l <;> simp [View.laneTarget, h]

theorem View.routeSets_cons (x : View) (a : W64) (t : Nat) (ways : List (W64 × Nat)) (ft : W64) (m : Mask) :
    x.routeSets ((a, t) :: ways) ft m =
      (a, m &&& x.triple t) :: x.routeSets ways ft (m &&& ~~~(m &&& x.triple t)) := rfl

/-- A lane is in a target's set when some way leads it there. -/
theorem View.lane_routeSets {x : View} {ways : List (W64 × Nat)} {ft a : W64} {m : Mask} {l : Nat} :
    (∃ p ∈ x.routeSets ways ft m, p.1 = a ∧ p.2.getLsbD l = true) ↔ m.getLsbD l = true ∧ x.laneTarget ways ft l = a := by
  induction ways generalizing m with
  | nil => simp [View.routeSets, routeLanes, View.laneTarget, and_comm]
  | cons w ways ih =>
    obtain ⟨b, t⟩ := w
    rw [View.routeSets_cons, List.exists_mem_cons_iff, ih, View.laneTarget_cons, lane_andNot, BitVec.getLsbD_and]
    cases (x.triple t).getLsbD l <;> cases m.getLsbD l <;> simp

theorem lane_lanesTo {k : List (W64 × Mask)} {a : W64} {l : Nat} :
    (lanesTo k a).getLsbD l = true ↔ ∃ p ∈ k, p.1 = a ∧ p.2.getLsbD l = true := by
  have hstep : (fun (m : Mask) (p : W64 × Mask) => if p.1 = a then m ||| p.2 else m) =
      fun m p => m ||| (if p.1 = a then p.2 else 0) := by
    funext m p
    split <;> simp
  have hif (p : W64 × Mask) : (if p.1 = a then p.2 else 0).getLsbD l = true ↔ p.1 = a ∧ p.2.getLsbD l = true := by
    split <;> simp [*]
  unfold lanesTo
  rw [hstep, lane_foldl_or]
  simp only [hif]
  simp

/-! ### The splits that routing leaves -/

section Route

variable (x : View) (ways : List (W64 × Nat)) (ft : W64)

/-- The active lanes whose way leads to a target. -/
def View.lanesFor (a : W64) : Mask := lanesTo (x.routeSets ways ft x.sp.e) a

/-- The targets to which some active lane goes. -/
def View.targets : List W64 := (((x.routeSets ways ft x.sp.e).filter (fun p => p.2 ≠ 0)).map Prod.fst).dedup

theorem View.lane_lanesFor {a : W64} {l : Nat} :
    (x.lanesFor ways ft a).getLsbD l = true ↔ x.sp.e.getLsbD l = true ∧ x.laneTarget ways ft l = a :=
  lane_lanesTo.trans View.lane_routeSets

theorem View.mem_targets {a : W64} : a ∈ x.targets ways ft ↔ ∃ l, (x.lanesFor ways ft a).getLsbD l = true := by
  simp only [View.targets, List.mem_dedup, List.mem_map, List.mem_filter, decide_eq_true_eq, ne_zero_iff_lane,
    View.lanesFor, lane_lanesTo]
  constructor
  · rintro ⟨p, ⟨hp, l, hl⟩, ha⟩
    exact ⟨l, p, hp, ha, hl⟩
  · rintro ⟨l, p, hp, ha, hl⟩
    exact ⟨p, ⟨hp, l, hl⟩, ha⟩

/-- The target that the idle lanes stay with: the fall-through where a lane goes there, else the lowest way with a lane. -/
def View.keeps : W64 :=
  if x.lanesFor ways ft ft ≠ 0 then ft else (((routeLanes x ways x.sp.e).1.find? (fun p => p.2 ≠ 0)).map Prod.fst).getD ft

/-- What a split of the routing has: its place, its active lanes, and its lanes. -/
structure Routed (targets : List W64) (keep : W64) (sps : List Split) : Prop where
  pcs : sps.map Split.pc = targets
  nodup : targets.Nodup
  active : ∀ sp ∈ sps, sp.e = x.lanesFor ways ft sp.pc
  lanes : ∀ sp ∈ sps, sp.l = sp.e ||| (if sp.pc = keep then x.sp.l &&& ~~~x.sp.e else 0)
  keep_mem : keep ∈ targets
  reached : ∀ l, x.sp.e.getLsbD l = true → x.laneTarget ways ft l ∈ targets

theorem View.keeps_mem (h : x.targets ways ft ≠ []) : x.keeps ways ft ∈ x.targets ways ft := by
  unfold View.keeps
  split
  next hft => exact (x.mem_targets ways ft).mpr (ne_zero_iff_lane.mp hft)
  next hft =>
    -- some way has a lane, since some target has and it is not the fall-through's
    obtain ⟨a, ha⟩ := List.exists_mem_of_ne_nil _ h
    obtain ⟨l, hl⟩ := (x.mem_targets ways ft).mp ha
    obtain ⟨p, hp, rfl, hpl⟩ := lane_lanesTo.mp hl
    have hway : p ∈ (routeLanes x ways x.sp.e).1 := by
      rcases List.mem_append.mp hp with hp | hp
      · exact hp
      · obtain rfl := List.mem_singleton.mp hp
        exact absurd (ne_zero_iff_lane.mpr ⟨l, hl⟩) hft
    obtain ⟨q, hq⟩ : ∃ q, (routeLanes x ways x.sp.e).1.find? (fun p => p.2 ≠ 0) = some q :=
      Option.isSome_iff_exists.mp (List.find?_isSome.mpr ⟨p, hway, decide_eq_true (ne_zero_iff_lane.mpr ⟨l, hpl⟩)⟩)
    have hqne : q.2 ≠ 0 := of_decide_eq_true (List.find?_some (p := fun (p : W64 × Mask) => decide (p.2 ≠ 0)) hq)
    obtain ⟨k, hk⟩ := ne_zero_iff_lane.mp hqne
    rw [hq]
    exact (x.mem_targets ways ft).mpr
      ⟨k, lane_lanesTo.mpr ⟨q, List.mem_append_left _ (List.mem_of_find?_eq_some hq), rfl, hk⟩⟩

theorem View.laneTarget_mem {l : Nat} (h : x.sp.e.getLsbD l = true) : x.laneTarget ways ft l ∈ x.targets ways ft :=
  (x.mem_targets ways ft).mpr ⟨l, (x.lane_lanesFor ways ft).mpr ⟨h, rfl⟩⟩

/-- The split that goes to a target, where there are several: the issuing one keeps the idle lanes. -/
def View.splitFor (a : W64) : Split :=
  if a = x.keeps ways ft then
    { x.sp with pc := a, e := x.lanesFor ways ft a, l := x.lanesFor ways ft a ||| (x.sp.l &&& ~~~x.sp.e) }
  else { Split.start a (x.lanesFor ways ft a) (x.lanesFor ways ft a) with
    clkHi := x.sp.clkHi, timHi := x.sp.timHi, spin := x.sp.spin }

theorem View.route_nil (h : x.targets ways ft = []) : x.route ways ft = [{ x.sp with pc := ft }] := by
  unfold View.targets View.routeSets at h
  simp only [View.route, h]

theorem View.route_one {a : W64} (h : x.targets ways ft = [a]) : x.route ways ft = [{ x.sp with pc := a }] := by
  unfold View.targets View.routeSets at h
  simp only [View.route, h]

theorem View.route_many {a b : W64} {k : List W64} (h : x.targets ways ft = a :: b :: k) :
    x.route ways ft = (a :: b :: k).map (x.splitFor ways ft) := by
  unfold View.targets View.routeSets at h
  simp only [View.route, h]
  rfl

variable {x ways ft}

/-- One split takes every active lane, and keeps the idle ones. -/
theorem Routed.single {a : W64} (he : x.sp.e &&& ~~~x.sp.l = 0)
    (ha : ∀ l, x.sp.e.getLsbD l = true → x.laneTarget ways ft l = a) : Routed x ways ft [a] a [{ x.sp with pc := a }] where
  pcs := rfl
  nodup := List.nodup_singleton a
  active sp hsp := by
    obtain rfl := List.mem_singleton.mp hsp
    exact eq_of_lanes fun l => (x.lane_lanesFor ways ft).trans (and_iff_left_of_imp (ha l)) |>.symm
  lanes sp hsp := by
    obtain rfl := List.mem_singleton.mp hsp
    refine eq_of_lanes fun l => ?_
    have hin := andNot_eq_zero.mp he l
    rw [if_pos rfl, BitVec.getLsbD_or, Bool.or_eq_true, lane_andNot]
    cases hl : x.sp.e.getLsbD l
    · simp
    · simp [hin hl]
  keep_mem := List.mem_singleton_self a
  reached l hl := by rw [ha l hl]; exact List.mem_singleton_self a

theorem Routed.several (h : x.targets ways ft ≠ []) :
    Routed x ways ft (x.targets ways ft) (x.keeps ways ft) ((x.targets ways ft).map (x.splitFor ways ft)) where
  pcs := by
    rw [List.map_map]
    refine (List.map_congr_left fun a _ => ?_).trans (List.map_id _)
    simp only [Function.comp_apply, View.splitFor]
    split <;> rfl
  nodup := List.nodup_dedup _
  active sp hsp := by
    obtain ⟨a, -, rfl⟩ := List.mem_map.mp hsp
    unfold View.splitFor
    split <;> rfl
  lanes sp hsp := by
    obtain ⟨a, -, rfl⟩ := List.mem_map.mp hsp
    unfold View.splitFor
    split
    next => rfl
    next hk => simp [Split.start, hk]
  keep_mem := x.keeps_mem ways ft h
  reached _ hl := x.laneTarget_mem ways ft hl

/-- What routing leaves, however many targets there are. -/
theorem View.route_routed (he : x.sp.e &&& ~~~x.sp.l = 0) :
    ∃ targets keep, Routed x ways ft targets keep (x.route ways ft) := by
  rcases h : x.targets ways ft with _ | ⟨a, _ | ⟨b, k⟩⟩
  · rw [x.route_nil ways ft h]
    refine ⟨[ft], ft, .single he fun l hl => ?_⟩
    have hmem := x.laneTarget_mem ways ft hl
    rw [h] at hmem
    cases hmem
  · rw [x.route_one ways ft h]
    exact ⟨[a], a, .single he fun l hl => List.mem_singleton.mp (h ▸ x.laneTarget_mem ways ft hl)⟩
  · rw [x.route_many ways ft h, ← h]
    exact ⟨_, _, .several (by simp [h])⟩

namespace Routed

variable {targets : List W64} {keep : W64} {sps : List Split} (hr : Routed x ways ft targets keep sps)

include hr

theorem lane_e {sp : Split} (hsp : sp ∈ sps) {l : Nat} :
    sp.e.getLsbD l = true ↔ x.sp.e.getLsbD l = true ∧ x.laneTarget ways ft l = sp.pc := by
  rw [hr.active sp hsp, x.lane_lanesFor]

theorem lane_l {sp : Split} (hsp : sp ∈ sps) {l : Nat} : sp.l.getLsbD l = true ↔
    sp.e.getLsbD l = true ∨ (sp.pc = keep ∧ x.sp.l.getLsbD l = true ∧ x.sp.e.getLsbD l = false) := by
  rw [hr.lanes sp hsp, BitVec.getLsbD_or, Bool.or_eq_true]
  by_cases hk : sp.pc = keep
  · rw [if_pos hk, lane_andNot, and_iff_right hk]
  · simp [hk]

theorem exists_split {a : W64} (ha : a ∈ targets) : ∃ sp ∈ sps, sp.pc = a := by
  rw [← hr.pcs] at ha
  exact List.mem_map.mp ha

/-- Every active lane is active in some split. -/
theorem exists_lane_e {l : Nat} : (∃ sp ∈ sps, sp.e.getLsbD l = true) ↔ x.sp.e.getLsbD l = true := by
  constructor
  · rintro ⟨sp, hsp, hl⟩
    exact ((hr.lane_e hsp).mp hl).1
  · intro hl
    obtain ⟨sp, hsp, hpc⟩ := hr.exists_split (hr.reached l hl)
    exact ⟨sp, hsp, (hr.lane_e hsp).mpr ⟨hl, hpc.symm⟩⟩

/-- No lane is lost, and none is added. -/
theorem exists_lane_l (he : x.sp.e &&& ~~~x.sp.l = 0) {l : Nat} :
    (∃ sp ∈ sps, sp.l.getLsbD l = true) ↔ x.sp.l.getLsbD l = true := by
  constructor
  · rintro ⟨sp, hsp, hl⟩
    rcases (hr.lane_l hsp).mp hl with hl | ⟨-, hl, -⟩
    · exact andNot_eq_zero.mp he l ((hr.lane_e hsp).mp hl).1
    · exact hl
  · intro hl
    cases hel : x.sp.e.getLsbD l
    · obtain ⟨sp, hsp, hpc⟩ := hr.exists_split hr.keep_mem
      exact ⟨sp, hsp, (hr.lane_l hsp).mpr (.inr ⟨hpc, hl, hel⟩)⟩
    · obtain ⟨sp, hsp, hsl⟩ := hr.exists_lane_e.mpr hel
      exact ⟨sp, hsp, (hr.lane_l hsp).mpr (.inl hsl)⟩

/-- Splits at two places share no lane. -/
theorem disjoint {a b : Split} (ha : a ∈ sps) (hb : b ∈ sps) (hpc : a.pc ≠ b.pc) : a.l &&& b.l = 0 := by
  refine and_eq_zero_of_lanes fun l hal hbl => ?_
  rcases (hr.lane_l ha).mp hal with hal | ⟨hak, -, hae⟩ <;> rcases (hr.lane_l hb).mp hbl with hbl | ⟨hbk, -, hbe⟩
  · exact hpc (((hr.lane_e ha).mp hal).2.symm.trans ((hr.lane_e hb).mp hbl).2)
  · simp [((hr.lane_e ha).mp hal).1] at hbe
  · simp [((hr.lane_e hb).mp hbl).1] at hae
  · exact hpc (hak.trans hbk.symm)

theorem pairwise : sps.Pairwise (fun a b => a.l &&& b.l = 0 ∧ a.pc ≠ b.pc) := by
  have hpcs : sps.Pairwise (fun a b => a.pc ≠ b.pc) := List.pairwise_map.mp (hr.pcs ▸ hr.nodup)
  exact hpcs.imp_of_mem fun ha hb hne => ⟨hr.disjoint ha hb hne, hne⟩

theorem ne_nil : sps ≠ [] := by
  obtain ⟨sp, hsp, -⟩ := hr.exists_split hr.keep_mem
  exact List.ne_nil_of_mem hsp

end Routed

end Route

/-- BRV and BWAY are one routing, told apart by their ways (R108). -/
theorem exec_of_waysOf (s : State) {x : View} {i : Instr} {ways : List (W64 × Nat)} {ft : W64}
    (h : waysOf x i = some (ways, ft)) : ∃ f, exec i s = s.onView [] f ∧ f x = .ok x.g (x.route ways ft) := by
  cases i <;> cases h
  case brv =>
    dsimp only [exec, execBrv]
    exact ⟨_, rfl, rfl⟩
  case bway =>
    dsimp only [exec, execBway]
    exact ⟨_, rfl, rfl⟩

/-- Settles O18: each lane goes to the target of its way, and the splits are told apart by their targets. -/
theorem routingCompletes : Obligations.RoutingCompletes := by
  unfold Obligations.RoutingCompletes
  intro s x i ways ft hx hw he
  obtain ⟨f, hexec, hf⟩ := exec_of_waysOf s hw
  obtain ⟨targets, keep, hr⟩ := View.route_routed (ways := ways) (ft := ft) he
  refine ⟨?_, eq_of_lanes fun l => ?_, eq_of_lanes fun l => ?_, hr.pairwise, fun sp hsp => ⟨?_, fun l hl => ?_⟩⟩
  · obtain ⟨a, k, hroute⟩ := List.exists_cons_of_ne_nil hr.ne_nil
    rw [hexec, hroute]
    exact State.onView_ok hx rfl (hf.trans (by rw [hroute]))
  · rw [lane_foldl_or, hr.exists_lane_l he]
    simp
  · rw [lane_foldl_or, hr.exists_lane_e]
    simp
  · exact andNot_eq_zero.mpr fun l hl => (hr.lane_l hsp).mpr (.inl hl)
  · exact ((hr.lane_e hsp).mp hl).2.symm

end Sys2Proof.Machine

/-! SUPPORT and O14. The table of two-operand scalar instructions: each operation in integers, the fields of a word of format
S, and what a row of the table needs for its words to run. -/

namespace Sys2Proof.Machine

open Sys2Proof.Spec

/-! ### The operations of R99 in integers -/

/-- The high word of a doubleword, in signed integers. -/
theorem toInt_high (p : W64) : (p.extractLsb' 32 32).toInt = p.toInt / 2 ^ 32 := by
  have hp := p.isLt
  rw [BitVec.toInt_eq_toNat_cond, BitVec.toInt_eq_toNat_cond, BitVec.extractLsb'_toNat, Nat.shiftRight_eq_div_pow]
  split <;> split <;> omega

/-- A product of two signed words lies within 63 bits. -/
theorem abs_toInt_mul_le (a b : W32) : |a.toInt * b.toInt| ≤ 2 ^ 62 := by
  have hword (c : W32) : |c.toInt| ≤ 2 ^ 31 := abs_le.mpr ⟨BitVec.le_toInt c, (BitVec.toInt_lt (x := c)).le⟩
  calc |a.toInt * b.toInt| = |a.toInt| * |b.toInt| := abs_mul _ _
    _ ≤ 2 ^ 31 * 2 ^ 31 := mul_le_mul (hword a) (hword b) (abs_nonneg _) (by norm_num)
    _ = 2 ^ 62 := by norm_num

theorem toInt_mulHS (a b : W32) : (mulHS a b).toInt = a.toInt * b.toInt / 2 ^ 32 := by
  obtain ⟨hlo, hhi⟩ := abs_le.mp (abs_toInt_mul_le a b)
  have hprod : ((a.signExtend 64) * (b.signExtend 64)).toInt = a.toInt * b.toInt := by
    rw [BitVec.toInt_mul, BitVec.toInt_signExtend_of_le (by omega), BitVec.toInt_signExtend_of_le (by omega)]
    exact Int.bmod_eq_of_le_mul_two (by omega) (by omega)
  rw [mulHS, toInt_high, hprod]

theorem toNat_mulHN (a b : W32) : (mulHN a b).toNat = a.toNat * b.toNat / 2 ^ 32 := by
  have hprod : a.toNat * b.toNat < 2 ^ 32 * 2 ^ 32 := Nat.mul_lt_mul'' a.isLt b.isLt
  have ha := a.isLt
  have hb := b.isLt
  rw [mulHN, BitVec.extractLsb'_toNat, BitVec.toNat_mul, BitVec.toNat_setWidth, BitVec.toNat_setWidth,
    Nat.shiftRight_eq_div_pow, Nat.mod_eq_of_lt (show a.toNat < 2 ^ 64 by omega),
    Nat.mod_eq_of_lt (show b.toNat < 2 ^ 64 by omega)]
  omega

theorem toNat_shl32 (a b : W32) : (shl32 a b).toNat = if 32 ≤ b.toNat then 0 else a.toNat * 2 ^ b.toNat % 2 ^ 32 := by
  unfold shl32
  split
  · rfl
  · rw [BitVec.toNat_shiftLeft, Nat.shiftLeft_eq]

theorem toNat_shr32 (a b : W32) : (shr32 a b).toNat = if 32 ≤ b.toNat then 0 else a.toNat / 2 ^ b.toNat := by
  unfold shr32
  split
  · rfl
  · rw [BitVec.toNat_ushiftRight, Nat.shiftRight_eq_div_pow]

theorem toInt_sar32 (a b : W32) :
    (sar32 a b).toInt = if 32 ≤ b.toNat then (if a.toInt < 0 then -1 else 0) else a.toInt / 2 ^ b.toNat := by
  unfold sar32
  split
  · rw [BitVec.msb_eq_toInt]
    by_cases h : a.toInt < 0 <;> simp [h]
  · rw [BitVec.toInt_sshiftRight, Int.shiftRight_eq_div_pow]
    norm_cast

theorem toInt_minS (a b : W32) : (minS a b).toInt = min a.toInt b.toInt := by
  unfold minS
  split
  next h => exact (min_eq_right (BitVec.slt_iff_toInt_lt.mp h).le).symm
  next h => exact (min_eq_left (not_lt.mp (mt BitVec.slt_iff_toInt_lt.mpr h))).symm

theorem toInt_maxS (a b : W32) : (maxS a b).toInt = max a.toInt b.toInt := by
  unfold maxS
  split
  next h => exact (max_eq_right (BitVec.slt_iff_toInt_lt.mp h).le).symm
  next h => exact (max_eq_left (not_lt.mp (mt BitVec.slt_iff_toInt_lt.mpr h))).symm

theorem toNat_minN (a b : W32) : (minN a b).toNat = min a.toNat b.toNat := by
  unfold minN
  split
  next h => exact (min_eq_right (BitVec.ult_iff_toNat_lt.mp h).le).symm
  next h => exact (min_eq_left (not_lt.mp (mt BitVec.ult_iff_toNat_lt.mpr h))).symm

theorem toNat_maxN (a b : W32) : (maxN a b).toNat = max a.toNat b.toNat := by
  unfold maxN
  split
  next h => exact (max_eq_right (BitVec.ult_iff_toNat_lt.mp h).le).symm
  next h => exact (max_eq_left (not_lt.mp (mt BitVec.ult_iff_toNat_lt.mpr h))).symm

theorem toNat_divN (a b : W32) : (divN a b).toNat = if b.toNat = 0 then 0xFFFFFFFF else a.toNat / b.toNat := by
  unfold divN
  by_cases h : b = 0
  · simp [h]
  · have h0 : b.toNat ≠ 0 := fun h0 => h (BitVec.eq_of_toNat_eq h0)
    rw [if_neg h, if_neg h0, BitVec.toNat_udiv]

theorem toNat_remN (a b : W32) : (remN a b).toNat = if b.toNat = 0 then a.toNat else a.toNat % b.toNat := by
  unfold remN
  by_cases h : b = 0
  · simp [h]
  · have h0 : b.toNat ≠ 0 := fun h0 => h (BitVec.eq_of_toNat_eq h0)
    rw [if_neg h, if_neg h0, BitVec.toNat_umod]

theorem toNat_sub_int (a b : W32) : ((a - b).toNat : Int) = ((a.toNat : Int) - b.toNat) % 2 ^ 32 := by
  have hb := b.isLt
  rw [BitVec.toNat_sub]
  omega

/-! ### Words of format S (R61, R65) -/

section Words

variable {opc : Nat} {w : W32} {i : Instr}

/-- The low ten bits of a word of format S: its opcode and LEN 0. -/
def HasOpcode (w : W32) (opc : Nat) : Prop := (w.extractLsb' 2 8).toNat = opc ∧ (w.extractLsb' 0 2).toNat = 0

theorem hasOpcode_of_low (hi : BitVec 22) (ho : opc < 256) : HasOpcode (hi ++ BitVec.ofNat 10 (4 * opc)) opc := by
  constructor
  · rw [BitVec.extractLsb'_append_eq_of_add_le (by decide), BitVec.extractLsb'_toNat, BitVec.toNat_ofNat,
      Nat.shiftRight_eq_div_pow]
    omega
  · rw [BitVec.extractLsb'_append_eq_of_add_le (by decide), BitVec.extractLsb'_toNat, BitVec.toNat_ofNat,
      Nat.shiftRight_eq_div_pow]
    omega

variable (hw : HasOpcode w opc) (hf : opFormat opc = some .S)

include hw hf

/-- A word of format S decodes to what its fields name. -/
theorem decode_of_rawS (hr : rawS opc w = some i) (hwf : i.wf = true) (rest : List W32) : decode (w :: rest) = .ok i := by
  simp only [decode, hw.1, hw.2, hf, Fmt.len, rawDecode, hr, hwf]
  rfl

/-- A word of format S whose fields name nothing, or what its operands do not fit, is no instruction. -/
theorem isIllop_of_rawS (hr : ∀ i, rawS opc w = some i → i.wf = false) : IsIllop w := by
  intro rest i h
  obtain ⟨fmt, hfmt, -, -, hraw, hwf⟩ := decode_eq_ok h
  rw [hw.1] at hfmt hraw
  obtain rfl : Fmt.S = fmt := Option.some.inj (hf.symm.trans hfmt)
  rw [hr i hraw] at hwf
  cases hwf

/-- A word of format S that decodes to a scalar instruction of one word runs as its change of the view. -/
theorem runs_of_rawS {f : View → View} (hr : rawS opc w = some i) (hwf : i.wf = true) (hv : scalarView i = some (4, f))
    {P : View → View → Prop} (hP : ∀ x, P x (f x)) : Runs w P :=
  fun rest => ⟨i, decode_of_rawS hw hf hr hwf rest, fun _ x hx => ⟨f x, hP x, exec_scalar_next hv hx⟩⟩

end Words

section Fields

variable (opc : Nat) (fn : BitVec 3) (imm : BitVec 9) (sb sa sd : SReg)

theorem wordR_hasOpcode (ho : opc < 256) : HasOpcode (wordR opc fn sb sa sd) opc := hasOpcode_of_low _ ho

theorem wordI_hasOpcode (ho : opc < 256) : HasOpcode (wordI opc imm sa sd) opc := hasOpcode_of_low _ ho

theorem getLsbD_last (w : W32) : w.getLsbD 31 = (w.extractLsb' 31 1).getLsbD 0 := by
  rw [BitVec.getLsbD_extractLsb', Nat.add_zero]
  rfl

/-- The fields of a word with I = 0. -/
theorem wordR_fields : (wordR opc fn sb sa sd).getLsbD 31 = false ∧ (wordR opc fn sb sa sd).extractLsb' 28 3 = fn ∧
    (wordR opc fn sb sa sd).extractLsb' 22 6 = sb ∧ (wordR opc fn sb sa sd).extractLsb' 16 6 = sa ∧
    (wordR opc fn sb sa sd).extractLsb' 10 6 = sd := by
  rw [getLsbD_last]
  unfold wordR
  refine ⟨?_, ?_, ?_, ?_, ?_⟩
  all_goals repeat rw [BitVec.extractLsb'_append_eq_of_le (by decide)]
  · rfl
  all_goals exact BitVec.extractLsb'_append_eq_right

/-- The fields of a word with I = 1. -/
theorem wordI_fields : (wordI opc imm sa sd).getLsbD 31 = true ∧ (wordI opc imm sa sd).extractLsb' 22 9 = imm ∧
    (wordI opc imm sa sd).extractLsb' 16 6 = sa ∧ (wordI opc imm sa sd).extractLsb' 10 6 = sd := by
  rw [getLsbD_last]
  unfold wordI
  refine ⟨?_, ?_, ?_, ?_⟩
  all_goals repeat rw [BitVec.extractLsb'_append_eq_of_le (by decide)]
  · rfl
  all_goals exact BitVec.extractLsb'_append_eq_right

end Fields

/-! ### The rows of the table (R98, R99) -/

/-- What a row of the table needs: the instructions that its words name, with a register and with an immediate operand B, both
of which do the operation `op`, and `op` has the row's result. -/
structure TwoOperandRow (opc : Nat) (kind : ImmKind) (result : W32 → W32 → W32 → Prop) (reg : SReg → SReg → SReg → Instr)
    (imm : SReg → SReg → BitVec 9 → Instr) (op : W32 → W32 → W32) : Prop where
  opcode : opc < 256 ∧ opFormat opc = some .S
  raw_reg : ∀ w : W32, w.getLsbD 31 = false → rawS opc w = if (w.extractLsb' 28 3).toNat = 0 then
    some (reg (w.extractLsb' 10 6) (w.extractLsb' 16 6) (w.extractLsb' 22 6)) else none
  raw_imm : ∀ w : W32, w.getLsbD 31 = true → rawS opc w = (kind.value (w.extractLsb' 22 9)).map
    (fun _ => imm (w.extractLsb' 10 6) (w.extractLsb' 16 6) (w.extractLsb' 22 9))
  wf : ∀ d a b i, (reg d a b).wf = true ∧ (imm d a i).wf = true
  view_reg : ∀ d a b, scalarView (reg d a b) = bin op d a b
  view_imm : ∀ d a i v, kind.value i = some v → scalarView (imm d a i) = Spec.imm op d a v
  op_result : ∀ a b, result a b (op a b)

namespace TwoOperandRow

variable {opc : Nat} {kind : ImmKind} {result : W32 → W32 → W32 → Prop} {reg : SReg → SReg → SReg → Instr} {op : W32 → W32 → W32}

/-- A row whose immediate is an operand whatever it is. -/
theorem of_two {imm : SReg → SReg → BitVec 9 → Instr} (value : BitVec 9 → W32) (op_result : ∀ a b, result a b (op a b))
    (opcode : opc < 256 ∧ opFormat opc = some .S := by decide)
    (hvalue : ∀ i, kind.value i = some (value i) := by exact fun _ => rfl)
    (raw : ∀ w, rawS opc w = if w.getLsbD 31 then some (imm (w.extractLsb' 10 6) (w.extractLsb' 16 6) (w.extractLsb' 22 9))
      else if (w.extractLsb' 28 3).toNat = 0 then some (reg (w.extractLsb' 10 6) (w.extractLsb' 16 6) (w.extractLsb' 22 6))
      else none := by exact fun _ => rfl)
    (wf : ∀ d a b i, (reg d a b).wf = true ∧ (imm d a i).wf = true := by exact fun _ _ _ _ => ⟨rfl, rfl⟩)
    (view_reg : ∀ d a b, scalarView (reg d a b) = bin op d a b := by exact fun _ _ _ => rfl)
    (view_imm : ∀ d a i, scalarView (imm d a i) = Spec.imm op d a (value i) := by exact fun _ _ _ => rfl) :
    TwoOperandRow opc kind result reg imm op where
  opcode := opcode
  raw_reg w hi := by rw [raw, hi]; rfl
  raw_imm w hi := by rw [raw, hi, hvalue]; rfl
  wf := wf
  view_reg := view_reg
  view_imm d a i v hv := by
    obtain rfl : value i = v := Option.some.inj ((hvalue i).symm.trans hv)
    exact view_imm d a i
  op_result := op_result

/-- A row of a shift, whose immediate is a count below 32. -/
theorem of_shift {imm : SReg → SReg → BitVec 5 → Instr} (op_result : ∀ a b, result a b (op a b))
    (opcode : opc < 256 ∧ opFormat opc = some .S := by decide)
    (raw : ∀ w, rawS opc w = if w.getLsbD 31 then if (w.extractLsb' 22 9).toNat < 32 then
        some (imm (w.extractLsb' 10 6) (w.extractLsb' 16 6) (w.extractLsb' 22 5)) else none
      else if (w.extractLsb' 28 3).toNat = 0 then some (reg (w.extractLsb' 10 6) (w.extractLsb' 16 6) (w.extractLsb' 22 6))
      else none := by exact fun _ => rfl)
    (wf : ∀ d a b i, (reg d a b).wf = true ∧ (imm d a i).wf = true := by exact fun _ _ _ _ => ⟨rfl, rfl⟩)
    (view_reg : ∀ d a b, scalarView (reg d a b) = bin op d a b := by exact fun _ _ _ => rfl)
    (view_imm : ∀ d a i, scalarView (imm d a i) = Spec.imm op d a (i.setWidth 32) := by exact fun _ _ _ => rfl) :
    TwoOperandRow opc .count result reg (fun d a i => imm d a (i.setWidth 5)) op where
  opcode := opcode
  raw_reg w hi := by rw [raw, hi]; rfl
  raw_imm w hi := by
    rw [raw, hi, if_pos rfl, BitVec.setWidth_extractLsb'_of_le (by decide)]
    simp only [ImmKind.value]
    split <;> rfl
  wf d a b i := wf d a b _
  view_reg := view_reg
  view_imm d a i v hv := by
    by_cases hlt : i.toNat < 32
    · have hcount : (i.setWidth 5).setWidth 32 = i.setWidth 32 := BitVec.eq_of_toNat_eq (by
        simp only [BitVec.toNat_setWidth]
        omega)
      obtain rfl : i.setWidth 32 = v := by simpa [ImmKind.value, hlt] using hv
      rw [view_imm, hcount]
    · simp [ImmKind.value, hlt] at hv
  op_result := op_result

variable {imm : SReg → SReg → BitVec 9 → Instr} (row : TwoOperandRow opc kind result reg imm op)

include row

/-- With FN = 0 a word with I = 0 takes B from SB. -/
theorem runs_reg (sd sa sb : SReg) : Runs (wordR opc 0 sb sa sd)
    (fun x y => ∃ r, result (x.s sa.toNat) (x.s sb.toNat) r ∧ y = x.setS sd.toNat r) := by
  obtain ⟨hi, hfn, hb, ha, hd⟩ := wordR_fields opc 0 sb sa sd
  refine runs_of_rawS (wordR_hasOpcode opc 0 sb sa sd row.opcode.1) row.opcode.2 (i := reg sd sa sb) ?_ (row.wf sd sa sb 0).1
    (row.view_reg sd sa sb) (fun x => ⟨_, row.op_result _ _, rfl⟩)
  rw [row.raw_reg _ hi, hfn, hb, ha, hd]
  rfl

theorem isIllop_reg {fn : BitVec 3} (hne : fn ≠ 0) (sd sa sb : SReg) : IsIllop (wordR opc fn sb sa sd) := by
  obtain ⟨hi, hfn, -, -, -⟩ := wordR_fields opc fn sb sa sd
  refine isIllop_of_rawS (wordR_hasOpcode opc fn sb sa sd row.opcode.1) row.opcode.2 fun i hraw => ?_
  have hne : fn.toNat ≠ 0 := fun h => hne (BitVec.eq_of_toNat_eq h)
  rw [row.raw_reg _ hi, hfn, if_neg hne] at hraw
  cases hraw

/-- A word with I = 1 takes B from imm9. -/
theorem runs_imm {i : BitVec 9} {b : W32} (hv : kind.value i = some b) (sd sa : SReg) : Runs (wordI opc i sa sd)
    (fun x y => ∃ r, result (x.s sa.toNat) b r ∧ y = x.setS sd.toNat r) := by
  obtain ⟨hi, himm, ha, hd⟩ := wordI_fields opc i sa sd
  refine runs_of_rawS (wordI_hasOpcode opc i sa sd row.opcode.1) row.opcode.2 (i := imm sd sa i) ?_ (row.wf sd sa 0 i).2
    (row.view_imm sd sa i b hv) (fun x => ⟨_, row.op_result _ _, rfl⟩)
  rw [row.raw_imm _ hi, himm, ha, hd, hv]
  rfl

theorem isIllop_imm {i : BitVec 9} (hv : kind.value i = none) (sd sa : SReg) : IsIllop (wordI opc i sa sd) := by
  obtain ⟨hi, himm, -, -⟩ := wordI_fields opc i sa sd
  refine isIllop_of_rawS (wordI_hasOpcode opc i sa sd row.opcode.1) row.opcode.2 fun i hraw => ?_
  rw [row.raw_imm _ hi, himm, hv] at hraw
  cases hraw

end TwoOperandRow

/-- Every row of the table has its instructions. The cases are the rows in their order. -/
theorem twoOperand_row {p : Nat × ImmKind × (W32 → W32 → W32 → Prop)} (hp : p ∈ twoOperand) :
    ∃ reg imm op, TwoOperandRow p.1 p.2.1 p.2.2 reg imm op := by
  simp only [twoOperand, List.mem_cons, List.not_mem_nil, or_false] at hp
  rcases hp with rfl | rfl | rfl | rfl | rfl | rfl | rfl | rfl | rfl | rfl | rfl | rfl | rfl | rfl | rfl | rfl | rfl | rfl
  · exact ⟨.sadd, .saddImm, _, .of_two sext9 BitVec.toNat_add⟩
  · exact ⟨.ssub, .ssubImm, _, .of_two sext9 toNat_sub_int⟩
  · exact ⟨.smul, .smulImm, _, .of_two sext9 BitVec.toNat_mul⟩
  · exact ⟨.smulhs, .smulhsImm, _, .of_two sext9 toInt_mulHS⟩
  · exact ⟨.smulhn, .smulhnImm, _, .of_two zext9 toNat_mulHN⟩
  · exact ⟨.sand, .sandImm, _, .of_two sext9 fun a b k _ => BitVec.getLsbD_and⟩
  · exact ⟨.sor, .sorImm, _, .of_two sext9 fun a b k _ => BitVec.getLsbD_or⟩
  · exact ⟨.sxor, .sxorImm, (· ^^^ ·), .of_two sext9 fun a b k _ => BitVec.getLsbD_xor⟩
  · exact ⟨.sandn, .sandnImm, fun p q => p &&& ~~~q, .of_two sext9 fun a b k hk => by simp [hk]⟩
  · exact ⟨.sshl, _, _, .of_shift (imm := .sshlImm) toNat_shl32⟩
  · exact ⟨.sshr, _, _, .of_shift (imm := .sshrImm) toNat_shr32⟩
  · exact ⟨.ssar, _, _, .of_shift (imm := .ssarImm) toInt_sar32⟩
  · exact ⟨.smin, .sminImm, _, .of_two sext9 toInt_minS⟩
  · exact ⟨.smax, .smaxImm, _, .of_two sext9 toInt_maxS⟩
  · exact ⟨.sminn, .sminnImm, _, .of_two zext9 toNat_minN⟩
  · exact ⟨.smaxn, .smaxnImm, _, .of_two zext9 toNat_maxN⟩
  · exact ⟨.sdivn, .sdivnImm, _, .of_two zext9 toNat_divN⟩
  · exact ⟨.sremn, .sremnImm, _, .of_two zext9 toNat_remN⟩

/-! ### SMOV (R100) -/

section Smov

variable (fn : BitVec 3) (imm : BitVec 9) (sb sa sd : SReg)

theorem rawS_smov_wordR : rawS 0x01 (wordR 0x01 fn sb sa sd) = if sb ≠ 0 then none
    else if fn.toNat = 0 then some (.smov sd sa) else if fn.toNat = 1 then some (.smovPair sd sa) else none := by
  obtain ⟨hi, hfn, hb, ha, hd⟩ := wordR_fields 0x01 fn sb sa sd
  simp only [rawS, hi, hfn, hb, ha, hd, Bool.false_eq_true, if_false, Bool.false_or, decide_eq_true_eq]

theorem rawS_smov_wordI : rawS 0x01 (wordI 0x01 imm sa sd) = if sa = 0 then some (.smovImm sd imm) else none := by
  obtain ⟨hi, himm, ha, hd⟩ := wordI_fields 0x01 imm sa sd
  simp only [rawS, hi, himm, ha, hd, if_true]

/-- A pair is moved between even registers. -/
theorem smovPair_wf : (Instr.smovPair sd sa).wf = true ↔ sd.toNat % 2 = 0 ∧ sa.toNat % 2 = 0 := by
  change (SUse.pair.ok sd && (SUse.pair.ok sa && true)) = true ↔ _
  simp [SUse.ok]

/-- Both words of a pair are read before either is written. -/
theorem View.setPair_pair (x : View) (d a : Nat) : x.setPair d (x.pair a) = (x.setS d (x.s a)).setS (d + 1) (x.s (a + 1)) := by
  rw [View.setPair, View.pair, BitVec.extractLsb'_append_eq_right, BitVec.extractLsb'_append_eq_left]

variable {fn sb sa sd}

/-- A word of SMOV with I = 0 that names nothing, or a pair on an odd register. -/
theorem isIllop_smov_wordR (h : sb ≠ 0 ∨ 2 ≤ fn.toNat ∨ (fn.toNat = 1 ∧ (sd.toNat % 2 = 1 ∨ sa.toNat % 2 = 1))) :
    IsIllop (wordR 0x01 fn sb sa sd) := by
  refine isIllop_of_rawS (wordR_hasOpcode 0x01 fn sb sa sd (by decide)) rfl fun i hraw => ?_
  rw [rawS_smov_wordR] at hraw
  split at hraw
  next => cases hraw
  split at hraw
  next hb hfn =>
    rcases h with h | h | ⟨h, -⟩
    · exact absurd h hb
    all_goals omega
  next hb _ =>
    split at hraw <;> cases hraw
    next hfn =>
    rw [Bool.eq_false_iff, ne_eq, smovPair_wf]
    rcases h with h | h | ⟨-, h⟩
    · exact absurd h hb
    all_goals omega

end Smov

/-- Settles O14: the rows of the table, and the three forms of SMOV. -/
theorem scalarOperations : Obligations.ScalarOperations := by
  unfold Obligations.ScalarOperations
  refine ⟨fun p hp sd sa sb => ?_, fun sd sa sb fn imm => ⟨?_, ?_, ?_, ?_, ?_, ?_, ?_⟩⟩
  · obtain ⟨reg, imm, op, row⟩ := twoOperand_row hp
    exact ⟨row.runs_reg sd sa sb, fun _ hne => row.isIllop_reg hne sd sa sb, fun _ _ hv => row.runs_imm hv sd sa,
      fun _ hv => row.isIllop_imm hv sd sa⟩
  · exact runs_of_rawS (wordR_hasOpcode 0x01 0 0 sa sd (by decide)) rfl (rawS_smov_wordR 0 0 sa sd) rfl rfl fun _ => rfl
  · intro hd ha
    exact runs_of_rawS (wordR_hasOpcode 0x01 1 0 sa sd (by decide)) rfl (rawS_smov_wordR 1 0 sa sd)
      ((smovPair_wf sa sd).mpr ⟨hd, ha⟩) rfl fun x => x.setPair_pair _ _
  · exact runs_of_rawS (wordI_hasOpcode 0x01 imm 0 sd (by decide)) rfl (rawS_smov_wordI imm 0 sd) rfl rfl fun _ => rfl
  · rintro (h | h | h)
    · exact isIllop_smov_wordR (.inr (.inr ⟨rfl, .inl h⟩))
    · exact isIllop_smov_wordR (.inr (.inr ⟨rfl, .inr h⟩))
    · exact isIllop_smov_wordR (.inl h)
  · exact fun h => isIllop_smov_wordR (.inl h)
  · exact fun h => isIllop_smov_wordR (.inr (.inl h))
  · intro h
    refine isIllop_of_rawS (wordI_hasOpcode 0x01 imm sa sd (by decide)) rfl fun i hraw => ?_
    rw [rawS_smov_wordI, if_neg h] at hraw
    cases hraw

end Sys2Proof.Machine

/-! SUPPORT and O25. Triples written in some lanes, and the compares, which write one of the lanes that are active. -/

namespace Sys2Proof.Machine

open Sys2Proof.Spec Sys2Proof.Safety

/-! ### Vector instructions (R128) -/

/-- A vector instruction goes on; with no lane active it changes nothing before it does. -/
theorem State.vector_goes_on {s : State} {x : View} {i : Instr} {n : Nat} {ms : Pred} {f : View → Mask → View}
    (hx : s.issuer = some x) (hr : x.g.inRange i.spans = true) :
    s.vector i n ms f = .next (s.after x ((if x.active ms = 0 then x else f x (x.active ms)).next n)) :=
  State.onView_view hx hr rfl

/-! ### Lanes of a triple (R20, R130) -/

theorem getLsbD_oneLane {a l : Nat} (hl : l < 96) : (1#96 <<< a).getLsbD l = decide (a = l) := by
  rw [BitVec.getLsbD_shiftLeft, BitVec.getLsbD_one, Bool.eq_iff_iff]
  simp
  omega

theorem getLsbD_pickLanes (act : Mask) (p : Nat → Bool) {l : Nat} (hl : l < 96) :
    (pickLanes act p).getLsbD l = (act.getLsbD l && p l) := by
  have hor : pickLanes act p = (lanesOf act).foldl (fun m k => m ||| if p k then 1#96 <<< k else 0) 0 := by
    unfold pickLanes
    congr 1
    funext m k
    split <;> simp
  rw [hor, Bool.eq_iff_iff, lane_foldl_or, Bool.and_eq_true]
  simp only [mem_lanesOf]
  constructor
  · rintro (h | ⟨k, hk, h⟩)
    · simp at h
    · split at h
      next hp =>
        rw [getLsbD_oneLane hl, decide_eq_true_eq] at h
        exact h ▸ ⟨hk, hp⟩
      next => simp at h
  · rintro ⟨ha, hp⟩
    exact .inr ⟨l, ha, by simp [hp, getLsbD_oneLane hl]⟩

namespace View

variable (x : View)

/-- A stored triple reads back what was written, less the lanes outside the group. -/
theorem triple_setTriple (m : Mask) {k : Nat} (hk : k < 20) : (x.setTriple k m).triple k = m &&& laneMask x.g.width := by
  simp [View.triple, View.setTriple, show k ≠ 20 by omega, setS_stored _ (show 3 * k < 60 by omega),
    setS_stored _ (show 3 * k + 1 < 60 by omega), setS_stored _ (show 3 * k + 2 < 60 by omega),
    s_stored _ (show 3 * k < 60 by omega), s_stored _ (show 3 * k + 1 < 60 by omega),
    s_stored _ (show 3 * k + 2 < 60 by omega), SMap.get_set, -maskWord_and, maskOf_maskWord]

@[simp] theorem triple_raiseFlags (f : Flags) (k : Nat) : (x.raiseFlags f).triple k = x.triple k := by
  rw [View.raiseFlags_eq]
  rfl

end View

/-! ### The compares (R136, R154, R167) -/

section Compared

variable (x : View) (f : FmtV) (r : Nat → Bool × Flags)

/-- What a compare leaves of the view: the triple VD written in the active lanes, each with its bit, and their flags raised. -/
def View.compared : View :=
  if x.active f.ms = 0 then x
  else (x.writeT (x.active f.ms) f.vd.toNat (pickLanes (x.active f.ms) (fun l => (r l).1))).raiseFlags
    (orFlags ((lanesOf (x.active f.ms)).map (fun l => (r l).2)))

/-- The lanes that a compare gives its triple, before the triple is cut to the group's lanes. -/
theorem getLsbD_writtenLanes (old act : Mask) {l : Nat} (hl : l < 96) :
    ((old &&& ~~~act) ||| (pickLanes act (fun l => (r l).1) &&& act)).getLsbD l =
      if act.getLsbD l then (r l).1 else old.getLsbD l := by
  simp only [BitVec.getLsbD_or, BitVec.getLsbD_and, BitVec.getLsbD_not, getLsbD_pickLanes _ _ hl, hl, decide_true]
  cases act.getLsbD l <;> simp

/-- A triple below t20 is stored. -/
theorem View.triple_compared (ha : x.active f.ms ≠ 0) (hd : f.vd.toNat < 20) {l : Nat} (hl : l < 96) :
    ((x.compared f r).triple f.vd.toNat).getLsbD l = ((laneMask x.g.width).getLsbD l &&
      (if (x.active f.ms).getLsbD l then (r l).1 else (x.triple f.vd.toNat).getLsbD l)) := by
  rw [View.compared, if_neg ha, View.triple_raiseFlags, View.writeT, x.triple_setTriple _ hd, BitVec.getLsbD_and,
    getLsbD_writtenLanes r _ _ hl, Bool.and_comm]

/-- t20 is E, which keeps within the split's lanes. -/
theorem View.e_compared (ha : x.active f.ms ≠ 0) (hd : f.vd.toNat = 20) {l : Nat} (hl : l < 96) :
    (x.compared f r).sp.e.getLsbD l = (x.sp.l.getLsbD l && (laneMask x.g.width).getLsbD l &&
      (if (x.active f.ms).getLsbD l then (r l).1 else x.sp.e.getLsbD l)) := by
  have he : (x.compared f r).sp.e = ((x.sp.e &&& ~~~x.active f.ms) |||
      (pickLanes (x.active f.ms) (fun l => (r l).1) &&& x.active f.ms)) &&& laneMask x.g.width &&& x.sp.l := by
    rw [View.compared, if_neg ha, View.raiseFlags_eq, View.writeT, hd]
    rfl
  rw [he, BitVec.getLsbD_and, BitVec.getLsbD_and, getLsbD_writtenLanes r _ _ hl]
  ac_rfl

/-- Beside its flags a compare changes its triple alone. -/
theorem View.compared_eq : ∃ y, View.SameBut (3 * f.vd.toNat) 3 x y ∧
    x.compared f r = y.raiseFlags (orFlags ((lanesOf (x.active f.ms)).map (fun l => (r l).2))) := by
  unfold View.compared
  split
  next h => exact ⟨x, .refl, by rw [h, lanesOf_zero]; rfl⟩
  next => exact ⟨_, x.sameBut_setTriple _ _, rfl⟩

end Compared

theorem State.vecT_next {s : State} {x : View} {i : Instr} {f : FmtV} {r : View → Nat → Bool × Flags} (hx : s.issuer = some x)
    (hr : x.g.inRange i.spans = true) : s.vecT i f r = .next (s.after x ((x.compared f (r x)).next 8)) :=
  State.vector_goes_on hx hr

/-- VCMP, VFCMP and VISABS leave the view compared by each lane's bit and flags. -/
theorem exec_of_laneBit {i : Instr} {f : FmtV} {r : View → Nat → Bool × Flags} {s : State} {x : View}
    (h : laneBit i = some (f, r)) (hx : s.issuer = some x) (hr : x.g.inRange i.spans = true) :
    exec i s = .next (s.after x ((x.compared f (r x)).next 8)) := by
  cases i with
  | vcmp => cases h; exact (State.vecT_next hx hr : execVcmp f s = _)
  | vfcmp => cases h; exact (State.vecT_next hx hr : execVfcmp f s = _)
  | visabs => cases h; exact (State.vecT_next hx hr : execVisabs f s = _)
  | _ => cases h

/-- A compare that is well formed names a triple. -/
theorem vd_le_of_laneBit {i : Instr} {f : FmtV} {r : View → Nat → Bool × Flags} (h : laneBit i = some (f, r))
    (hwf : i.wf = true) : f.vd.toNat ≤ 20 := by
  have htri {a b c : VUse} {sOk : Bool} {rm : RmUse} {tys : List Ty} {mods : Nat}
      (hok : (f.shape .tri a b c sOk rm tys mods).ok = true) : f.vd.toNat ≤ 20 := by
    simp only [Shape.ok, FmtV.shape, List.all_cons, VUse.ok, Bool.and_eq_true, decide_eq_true_eq] at hok
    obtain ⟨⟨-, hd, -⟩, -⟩ := hok
    exact hd
  cases i with
  | vcmp | vfcmp | visabs => cases h; exact htri hwf
  | _ => cases h

/-- Settles O25: a compare writes its triple lane by lane, in the registers or, for t20, in E. -/
theorem compareCompletes : Obligations.CompareCompletes := by
  unfold Obligations.CompareCompletes
  intro i f r s x h hwf hx hr
  have hd := vd_le_of_laneBit h hwf
  obtain ⟨y, hy, hcmp⟩ := x.compared_eq f (r x)
  obtain ⟨m, hg⟩ := hy.group
  rw [View.raiseFlags_eq] at hcmp
  refine ⟨x.compared f (r x), exec_of_laneBit h hx hr, ?_, ?_, fun h0 => if_pos h0, fun hne => ?_,
    fun l hl ha hne => x.triple_compared f (r x) ha (by omega) hl, fun l hl ha h20 => x.e_compared f (r x) ha h20 hl, ?_, ?_⟩
  · rw [hcmp, hg]
  · rw [hcmp, hg]; rfl
  · rw [hcmp]; exact hy.split_eq (by omega)
  · rw [hcmp]; exact hy.scalars
  · rw [hcmp, hg]; exact ⟨rfl, rfl⟩

end Sys2Proof.Machine

/-! SUPPORT and O27. Vector registers written in some lanes with no flag raised, RNG states set, and the row map. -/

namespace Sys2Proof.Machine

open Sys2Proof.Spec Sys2Proof.Safety

/-! ### Words written in the lanes of a mask (R127) -/

/-- The view `y` is `x` with the words `w` in the lanes `m` of vector register `d`. -/
structure View.WordsIn (m : Mask) (d : Nat) (w : Nat → W32) (x y : View) : Prop where
  split : y.sp = x.sp
  group : y.g = { x.g with v := y.g.v }
  lanes : ∀ l, l < 96 → m.getLsbD l = true → y.v d l = w l
  others : SameVectors (fun q l => q = d ∧ m.getLsbD l = true) x.g y.g

theorem orFlags_zeros (l : List Nat) : orFlags (l.map (fun _ => 0)) = 0 := by
  induction l with
  | nil => rfl
  | cons k l ih => rw [List.map_cons, orFlags, ih]; rfl

section Words

variable (x : View) (m : Mask) (d : Nat) (w : Nat → W32)

/-- Without flags, the results of lanes are words alone. -/
theorem View.writeV_words_eq : x.writeV m d (fun l => (w l, 0)) =
    { x with g := x.g.setVs d ((lanesOf m).map (fun l => (l, w l))) } := by
  simp only [View.writeV, List.map_map, Function.comp_def, orFlags_zeros]
  rfl

theorem View.wordsIn_writeV : View.WordsIn m d w x (x.writeV m d (fun l => (w l, 0))) := by
  have hv {q l : Nat} (hl : l < 96) := x.g.vreg_setVs d w (fun _ => lt_of_mem_lanesOf (m := m)) (q := q) hl
  rw [View.writeV_words_eq]
  refine ⟨rfl, Group.setVs_eq _ _ _, fun l hl hm => (hv hl).trans (if_pos ⟨rfl, mem_lanesOf.mpr hm⟩), fun q l hl hn => ?_⟩
  exact (hv hl).trans (if_neg (by simpa using hn))

theorem View.writeV_words_zero : x.writeV 0 d (fun l => (w l, 0)) = x := by
  rw [View.writeV_words_eq, lanesOf_zero]
  rfl

end Words

/-! ### RNG states (R164) -/

theorem nonzeroState_ne_zero (st : W64) : nonzeroState st ≠ 0 := by
  unfold nonzeroState
  split
  · decide
  · assumption

/-- The state that VSEED gives a lane. -/
def View.seedState (x : View) (f : FmtV) (l : Nat) : W64 :=
  nonzeroState (if f.md = 0 then x.v f.vb.toNat l ++ x.v f.va.toNat l
    else seedMix (x.pair f.vb.toNat) (x.g.gid * x.g.width + l))

/-- What VSEED leaves of the group: a state in each of the lanes. -/
def View.seeded (x : View) (f : FmtV) (m : Mask) : Group := x.g.setRngs ((lanesOf m).map (fun l => (l, x.seedState f l)))

theorem View.rngOf_seeded (x : View) (f : FmtV) (m : Mask) (l : Nat) :
    (x.seeded f m).rngOf l = if m.getLsbD l = true then x.seedState f l else x.g.rngOf l := by
  rw [View.seeded, Group.rngOf_setRngs]
  simp only [mem_lanesOf]

theorem execVseed_next {f : FmtV} {s : State} {x : View} (hx : s.issuer = some x)
    (hr : x.g.inRange (Instr.vseed f).spans = true) :
    execVseed f s = .next (s.after x (({ x with g := x.seeded f (x.active f.ms) } : View).next 8)) := by
  unfold execVseed
  exact State.vector_next hx hr (by rw [lanesOf_zero]; rfl)

/-! ### The row map (R147) -/

section RowMap

variable (x : View) (f : FmtV)

/-- A row pointer of VROWMAP. -/
def View.rowPointer (r : Nat) : Nat := (x.v f.va.toNat r).toNat

/-- The rows that VROWMAP takes from the count it is given. -/
def View.rowCount : Nat := min (x.s f.vc.toNat).toNat (x.g.width - 1)

/-- A row pointer falls, or there are more rows than the group's lanes hold pointers for. -/
def View.rowsBad : Bool := decide (x.g.width - 1 < (x.s f.vc.toNat).toNat) ||
  (List.range (x.rowCount f)).any (fun r => decide (x.rowPointer f (r + 1) < x.rowPointer f r))

theorem View.rowsBad_iff : x.rowsBad f = true ↔ x.g.width - 1 < (x.s f.vc.toNat).toNat ∨
    ∃ r, r < x.rowCount f ∧ x.rowPointer f (r + 1) < x.rowPointer f r := by
  simp [View.rowsBad]

/-- The word that VROWMAP gives a lane. -/
def View.rowWord (l : Nat) : W32 :=
  match rowOf (x.rowPointer f) (x.rowCount f) (x.s f.vb.toNat + BitVec.ofNat 32 l).toNat with
  | some r => BitVec.ofNat 32 (if f.md = 0 then r else (x.s f.vb.toNat + BitVec.ofNat 32 l).toNat - x.rowPointer f r)
  | none => 0xFFFFFFFF

/-- What VROWMAP leaves of the view with lanes `m` active. -/
def View.rowMapped (m : Mask) : View :=
  (x.writeV m f.vd.toNat (fun l => (x.rowWord f l, 0))).raiseFlags (if x.rowsBad f then fRP else 0)

end RowMap

/-- VROWMAP raises its flag only where a lane is active. -/
theorem execVrowmap_next {f : FmtV} {s : State} {x : View} (hx : s.issuer = some x)
    (hr : x.g.inRange (Instr.vrowmap f).spans = true) :
    execVrowmap f s = .next (s.after x (((x.writeV (x.active f.ms) f.vd.toNat (fun l => (x.rowWord f l, 0))).raiseFlags
      (if x.active f.ms ≠ 0 ∧ x.rowsBad f = true then fRP else 0)).next 8)) := by
  have hmodel : execVrowmap f s = s.vector (.vrowmap f) 8 f.ms (fun x m => x.rowMapped f m) := rfl
  rw [hmodel, State.vector_goes_on hx hr]
  by_cases ha : x.active f.ms = 0
  · rw [if_pos ha, if_neg (fun h => h.1 ha), ha, View.writeV_words_zero]
    rfl
  · simp only [ha, ne_eq, not_false_eq_true, true_and, if_false]
    rfl

/-! ### Moves of literals (R138, R145) -/

theorem execVli_next {f : FmtVI} {s : State} {x : View} (hx : s.issuer = some x) (hr : x.g.inRange (Instr.vli f).spans = true) :
    execVli f s = .next (s.after x ((x.writeV (x.active f.v.ms) f.v.vd.toNat (fun _ => (f.lit, 0))).next 12)) := by
  unfold execVli
  exact State.vector_next hx hr (x.writeV_words_zero _ _)

theorem execVbfx_next {f : FmtVI} {s : State} {x : View} (hx : s.issuer = some x)
    (hr : x.g.inRange (Instr.vbfx f).spans = true) : execVbfx f s = .next (s.after x
      ((x.writeV (x.active f.v.ms) f.v.vd.toNat (fun l => (bitField (x.v f.v.va.toNat l) (f.lit.extractLsb' 0 5).toNat
        ((f.lit.extractLsb' 8 5).toNat + 1) (f.lit.getLsbD 16), 0))).next 12)) := by
  unfold execVbfx
  exact State.vector_next hx hr (x.writeV_words_zero _ _)

/-- Settles O27: VLI and VBFX write words, VSEED states, VV2S a scalar, and VROWMAP words with its flag. -/
theorem laneMovesComplete : Obligations.LaneMovesComplete := by
  unfold Obligations.LaneMovesComplete
  refine ⟨fun i f r s x hi hx hr => ?_, fun f s x hx hr => ?_, fun f s x hx => ⟨fun hr => ?_, fun hr => ?_⟩⟩
  · obtain ⟨hsp, hg, hlanes, hothers⟩ := x.wordsIn_writeV (x.active f.v.ms) f.v.vd.toNat (r x)
    refine ⟨_, ?_, hsp, hg, hlanes, hothers⟩
    rcases hi with ⟨rfl, rfl⟩ | ⟨rfl, rfl⟩
    · exact execVli_next hx hr
    · exact execVbfx_next hx hr
  · have hrng := x.rngOf_seeded f (x.active f.ms)
    refine ⟨_, execVseed_next hx hr, rfl, Group.setRngs_eq _ _, fun l _ ha => ?_, fun l ha => ?_⟩
    · have hl := (hrng l).trans (if_pos ha)
      exact ⟨hl, hl.trans_ne (nonzeroState_ne_zero _)⟩
    · exact (hrng l).trans (if_neg (by simp [ha]))
  · exact (State.vector_goes_on hx hr : execVv2s f s = _)
  · obtain ⟨hsp, hg, hlanes, hothers⟩ := x.wordsIn_writeV (x.active f.ms) f.vd.toNat (x.rowWord f)
    refine ⟨_, execVrowmap_next hx hr, ?_, ?_, ?_, ?_, ?_, ?_⟩
    · rw [View.raiseFlags_eq]; exact hsp
    · rw [View.raiseFlags_eq, hg]
    · rw [View.raiseFlags_eq, hg]; rfl
    · rw [View.raiseFlags_eq]; exact hlanes
    · rw [View.raiseFlags_eq]; exact hothers
    · rw [View.raiseFlags_eq, hg, if_congr (and_congr_right' (x.rowsBad_iff f)) rfl rfl]
      exact ⟨rfl, rfl⟩

end Sys2Proof.Machine

/-! SUPPORT and O30. The checks of an address: a walker that holds nothing reads the tables in memory, and the leaf it comes to
decides what the access meets (R168, R385, R387). -/

namespace Sys2Proof.Machine

/-! ### Walks of tables that nothing holds (R385, R389 to R391) -/

/-- A leaf that the walker comes to, as the walk in memory judges it. -/
theorem map_leafFound (cap : Nat) (l : Leaf) : (leafFound cap l).map Found.leaf =
    (if leafBad cap l then Except.error 2 else Except.ok l).mapError WalkStop.fault := by
  unfold leafFound
  split <;> rfl

/-- With no entry of the page in the TLBs asked, the walk gives the leaf (R391). -/
theorem Device.leafAt_unheld {d : Device} {tick ctx va : Nat} {walk : Except WalkStop Found} {l : List Nat}
    (h : ∀ u ∈ l, d.tlbFind u ctx va = none) : d.leafAt tick ctx va walk l = walk := by
  induction l with
  | nil => rfl
  | cons u l ih =>
    obtain ⟨hu, hl⟩ := List.forall_mem_cons.mp h
    simp only [Device.leafAt, hu, ih hl]

section Walk

variable {d : Device} {ready : W64} {ctx : Nat} (hready : ready.extractLsb' 0 32 = 0xFFFFFFFF#32) (hp : d.poison = [])

include hready hp

/-- With every channel ready and no poison the walker reads the entry in memory (R389, R415). -/
theorem Device.pteRead_clean (t i : Nat) :
    d.pteRead ready (t + 8 * i) = .ok (pteAt d.mem t i) := by
  simp [Device.pteRead, channelReady, hready, Device.poisonAt, hp, pteAt]

/-- Where its cluster holds no entry of the context, the walker reads every table in memory (R390). -/
theorem Device.tableRead_unheld (ht : ∀ y ∈ d.tables, y.ctx ≠ ctx) (tick unit va lvl t : Nat) :
    d.tableRead ready tick unit ctx va lvl t = .ok (pteAt d.mem t (vaIndex va lvl)) := by
  have hfind : d.tables.find? (fun y => y.unit = unit && y.ctx = ctx && y.lvl = lvl && y.vpn = tableVpn va lvl) = none := by
    simp only [List.find?_eq_none]
    intro y hy
    simp [ht y hy]
  simp only [Device.tableRead, hfind]
  exact Device.pteRead_clean hready hp _ _

/-- A walker whose cluster holds no entry of the context finds what the tables in memory give (R385). -/
theorem Device.walk_unheld (ht : ∀ y ∈ d.tables, y.ctx ≠ ctx) (tick cap unit va lvl t : Nat) :
    (d.walk ready tick cap unit ctx va lvl t).map Found.leaf = (walkFrom d.mem cap va lvl t).mapError WalkStop.fault := by
  induction lvl generalizing t with
  | zero =>
    simp only [Device.walk, walkFrom, Device.pteRead_clean hready hp]
    by_cases hbig : ((pteAt d.mem t (vaIndex va 0 / 16 * 16)).getLsbD 0 && (pteAt d.mem t (vaIndex va 0 / 16 * 16)).getLsbD 9) = true
    · rw [if_pos hbig, if_pos hbig]
      exact map_leafFound cap _
    · rw [if_neg hbig, if_neg hbig]
      by_cases hpresent : (pteAt d.mem t (vaIndex va 0)).getLsbD 0 = true
      · rw [if_pos hpresent, if_pos hpresent]
        exact map_leafFound cap _
      · rw [if_neg hpresent, if_neg hpresent]
        rfl
  | succ lvl ih =>
    simp only [Device.walk, walkFrom, Device.tableRead_unheld hready hp ht]
    split
    · rfl
    · split
      · split
        · rfl
        · exact map_leafFound cap _
      · split
        · rfl
        · rw [← ih]
          cases d.walk ready tick cap unit ctx va lvl _ <;> rfl

/-- An access whose page no TLB asked holds translates as the tables in memory give (R385, R391). -/
theorem Device.leafFor_unheld {va : Nat} {ag : Agent} (ht : ∀ y ∈ d.tables, y.ctx ≠ ctx)
    (htlb : ∀ u ∈ ag.tlbs, d.tlbFind u ctx va = none) (tick cap root : Nat) :
    (∀ det, walkFrom d.mem cap va 4 root = .error det → d.leafFor ready tick cap ag ctx root va = .error (.fault det)) ∧
      ∀ l, walkFrom d.mem cap va 4 root = .ok l → ∃ r, d.leafFor ready tick cap ag ctx root va = .ok r ∧ r.leaf = l := by
  have hwalk := Device.walk_unheld hready hp ht tick cap ag.tlb va 4 root
  rw [Device.leafFor, Device.leafAt_unheld htlb]
  cases hfound : d.walk ready tick cap ag.tlb ctx va 4 root with
  | error w =>
    rw [hfound] at hwalk
    refine ⟨fun det h => ?_, fun l h => ?_⟩ <;> rw [h] at hwalk <;> cases hwalk
    rfl
  | ok r =>
    rw [hfound] at hwalk
    refine ⟨fun det h => ?_, fun l h => ?_⟩ <;> rw [h] at hwalk <;> cases hwalk
    exact ⟨r, rfl, rfl⟩

end Walk

/-! ### What an access meets at its leaf (R168, R387) -/

/-- The permissions of an entry let an access through (R387). -/
def Access.allowed (k : Access) (e : W64) : Bool :=
  match k with
  | .load => e.getLsbD 2
  | .store => e.getLsbD 3
  | .atomic => e.getLsbD 2 && e.getLsbD 3
  | .fetch => e.getLsbD 4

section Probe

variable {d : Device} {p : Platform} {tick ctx : Nat} {ag : Agent} {linkOk : Bool} {va : W64} {c : Ctx} {r : Found}

theorem Device.probe_fault {det : Nat} (hva : va.extractLsb' 57 7 = 0) (hc : d.ctxs.get ctx = some c)
    (hl : d.leafFor p.ready tick p.part.capacity ag ctx c.ptroot.toNat va.toNat = .error (.fault det)) (k : Access) :
    d.probe p tick ctx ag k linkOk va = .fault 0x04 det := by
  simp [Device.probe, hva, hc, hl]

variable (hva : va.extractLsb' 57 7 = 0) (hc : d.ctxs.get ctx = some c)
  (hl : d.leafFor p.ready tick p.part.capacity ag ctx c.ptroot.toNat va.toNat = .ok r)

include hva hc hl

theorem Device.probe_denied (k : Access) (h : k.allowed r.leaf.entry = false) :
    d.probe p tick ctx ag k linkOk va = .fault 0x05 0 := by
  cases k <;> simp only [Access.allowed] at h <;> simp [Device.probe, hva, hc, hl, h, -BitVec.getLsbD_eq_getElem]

variable (hperm : r.leaf.entry.getLsbD 2 = true) (hdev : pteTgt r.leaf.entry = 0)

include hperm hdev

theorem Device.probe_load_hostOwn (hown : pteOwn r.leaf.entry = true) :
    d.probe p tick ctx ag .load linkOk va = .fault 0x12 0 := by
  simp [Device.probe, hva, hc, hl, hperm, hdev, hown, -BitVec.getLsbD_eq_getElem]

variable (hown : pteOwn r.leaf.entry = false)

include hown

theorem Device.probe_load_privMiss (hpriv : pteCls r.leaf.entry = 2) (hcore : ag.own ≠ some (pteCore r.leaf.entry)) :
    d.probe p tick ctx ag .load linkOk va = .fault 0x0F 0 := by
  simp [Device.probe, hva, hc, hl, hperm, hdev, hown, hpriv, hcore, -BitVec.getLsbD_eq_getElem]

theorem Device.probe_load_page (hcls : pteCls r.leaf.entry ≠ 2) (hres : r.leaf.entry.getLsbD 1 = false) :
    d.probe p tick ctx ag .load linkOk va = .page := by
  simp [Device.probe, hva, hc, hl, hperm, hdev, hown, hcls, hres, -BitVec.getLsbD_eq_getElem]

theorem Device.probe_load_ok (hcls : pteCls r.leaf.entry ≠ 2) (hres : r.leaf.entry.getLsbD 1 = true)
    (hready : p.ready.extractLsb' 0 32 = 0xFFFFFFFF#32) :
    ∃ x, d.probe p tick ctx ag .load linkOk va = .ok x ∧ x.space = .dev ∧
      x.pa = pteAddr r.leaf.entry + va.toNat % r.leaf.size := by
  simp [Device.probe, hva, hc, hl, hperm, hdev, hown, hcls, hres, channelReady, hready, spaceOf, -BitVec.getLsbD_eq_getElem]

end Probe

/-- Settles O30: the checks of a lane in their order, and the walk of the tables in memory, whose leaf decides the rest. -/
theorem addressChecks : Obligations.AddressChecks := by
  unfold Obligations.AddressChecks
  refine ⟨fun d e ctx ag k linkOk align n a => ⟨fun h => if_pos h, fun h hout => ?_, fun h hlo hhi => ?_⟩,
    fun d p tick ctx ag linkOk va c hva hc htlb ht hp hready => ?_⟩
  · exact (if_neg (not_not_intro h)).trans (if_pos (by simpa using hout))
  · exact (if_neg (not_not_intro h)).trans (if_neg (by simp; omega))
  · obtain ⟨hfault, hfound⟩ := Device.leafFor_unheld hready hp ht htlb tick p.part.capacity c.ptroot.toNat
    refine ⟨fun det hdet k => Device.probe_fault hva hc (hfault det hdet) k, fun l hleaf => ?_⟩
    obtain ⟨r, hl, rfl⟩ := hfound l hleaf
    exact ⟨Device.probe_denied hva hc hl .load, Device.probe_denied hva hc hl .store, Device.probe_denied hva hc hl .fetch,
      fun hperm hdev => ⟨Device.probe_load_hostOwn hva hc hl hperm hdev, Device.probe_load_privMiss hva hc hl hperm hdev,
        Device.probe_load_page hva hc hl hperm hdev,
        fun hown hcls hres => Device.probe_load_ok hva hc hl hperm hdev hown hcls hres hready⟩⟩

end Sys2Proof.Machine

/-! SUPPORT. What memory instructions share: folds over lanes, and checks that every lane passes (R169, R255). -/

namespace Sys2Proof.Machine

/-- What every operation of a fold leaves alone, the fold leaves alone. -/
theorem foldl_leaves {α β γ : Type} (get : β → γ) {f : β → α → β} {l : List α} (d : β)
    (h : ∀ c, ∀ a ∈ l, get (f c a) = get c) : get (l.foldl f d) = get d :=
  List.foldlRecOn l f (motive := fun c => get c = get d) rfl (fun c hc a ha => (h c a ha).trans hc)

@[simp] theorem Checked.run_ok {α : Type} (l : List (Nat × α)) (d : Device) (x : View) (f : List (Nat × α) → Res) :
    (Checked.ok l).run d x f = f l := rfl

@[simp] theorem Checked.run_trap {α : Type} (t : TrapReq) (d : Device) (x : View) (f : List (Nat × α) → Res) :
    (Checked.trap t).run d x f = .trap d x.sp t := rfl

/-- A group with room for a write goes on (R255). -/
theorem Device.writeGate_room {d : Device} {x : View} (h : d.writeFull x.g = false) (f : Unit → Res) : d.writeGate x f = f () := by
  simp [Device.writeGate, h]

@[simp] theorem State.env_tick (s : State) : s.env.tick = s.tick := rfl

/-- Lanes of which none meets poison. -/
theorem filter_poisonRun_eq_nil {d : Device} {ag : Agent} {l : List (Nat × Run)} (h : ∀ p ∈ l, d.poisonRun ag p.2 = false) :
    l.filter (fun p => d.poisonRun ag p.2) = [] := by
  rw [List.filter_eq_nil_iff]
  exact fun p hp => by simp [h p hp]

/-- Watchers told hold no scratchpad. -/
@[simp] theorem Device.spad_tell (d : Device) (line : Nat) : (d.tell line).spad = d.spad := by
  unfold Device.tell
  split <;> rfl

end Sys2Proof.Machine

/-! SUPPORT and O32. Scratchpad stores change the scratchpad at their lanes' places and no memory. -/

namespace Sys2Proof.Machine

/-! ### Scratchpad stores (R173, R226) -/

/-- A scratchpad write changes no memory. -/
@[simp] theorem Device.space_spadWrite (d : Device) (ctx at_ : Nat) (l : List Byte) (t : Space) :
    (d.spadWrite ctx at_ l).space t = d.space t :=
  (foldl_leaves (fun c : Device => c.space t) _ (fun c line _ => c.space_tell line t)).trans (by cases t <;> rfl)

theorem Device.spad_spadWrite (d : Device) (ctx at_ : Nat) (l : List Byte) :
    (d.spadWrite ctx at_ l).spad = writeBytes d.spad at_ l :=
  foldl_leaves Device.spad _ (fun c line _ => c.spad_tell line)

@[simp] theorem View.length_regBytes (x : View) (r lane n : Nat) : (x.regBytes r lane n).length = n := by
  simp [View.regBytes, List.length_flatMap]
  omega

/-- Lanes' scratchpad stores change no memory. -/
theorem space_storeSpad (r : SplitRef) (d : Device) (x : View) (f : FmtM) (n : Nat) (l : List (Nat × Nat)) (t : Space) :
    (storeSpad r d x f n l).space t = d.space t :=
  foldl_leaves (fun c => c.space t) d (fun c _ _ => c.space_spadWrite _ _ _ t)

/-- Lanes' scratchpad stores change no byte of a scratchpad outside their places. -/
theorem spad_storeSpad_outside (r : SplitRef) (d : Device) (x : View) (f : FmtM) (n a : Nat) (l : List (Nat × Nat))
    (h : ∀ p ∈ l, a < (d.teamOf x.g).spadAt r.core p.2 ∨ (d.teamOf x.g).spadAt r.core p.2 + n ≤ a) :
    (storeSpad r d x f n l).spad.get a = d.spad.get a := by
  refine foldl_leaves (fun c => c.spad.get a) d (fun c p hp => ?_)
  rw [Device.spad_spadWrite, get_writeBytes_outside _ (by rw [View.length_regBytes]; exact h p hp)]

/-- An access through a valid modulo descriptor whose lanes all pass goes on (R25, R172). -/
theorem State.modulo_view {s : State} {x y : View} {i : Instr} {f : FmtM} {d : Device} {l : List (Nat × Nat)}
    {go : SplitRef → Device → View → Nat → List (Nat × Nat) → (View → View) → Res} {base size : Nat}
    (hx : s.issuer = some x) (hr : x.g.inRange i.spans = true) (ha : x.active f.ms ≠ 0)
    (hbase : (x.g.wBase.get (f.md.extractLsb' 0 3).toNat).toNat = base)
    (hsize : (x.g.wSize.get (f.md.extractLsb' 0 3).toNat).toNat = size)
    (hw : wValid (s.dev.teamOf x.g) base size = true)
    (hl : s.dev.spadChecks x (widthBytes f.w) (x.moduloReqs f base size (widthBytes f.w) (x.active f.ms)) = .ok l)
    (hgo : go s.cur s.dev x (widthBytes f.w) l (fun y => (y.moduloStep f size (widthBytes f.w)).next 8) =
      Res.view d s.cur.key y) : s.modulo i f go = .next (s.afterOn d x y) := by
  subst hbase hsize
  refine State.access_view hx hr ha ?_
  simp only [hw, hl, Checked.run_ok, Bool.not_true, Bool.false_eq_true, if_false, hgo]

/-- Settles O32: each load leaves a view, each store a view and its bytes in the scratchpad. -/
theorem scratchCompletes : Obligations.ScratchCompletes := by
  unfold Obligations.ScratchCompletes
  refine ⟨fun f s x l hx ha => ⟨fun hr hl => ?_, fun hr hw hl => ?_, fun hr hspad hl => ?_⟩,
    fun f s x l hx ha hroom => ⟨fun hr hl => ?_, fun hr hw hl => ?_, space_storeSpad _ _ _ _ _ _,
      fun a => spad_storeSpad_outside _ _ _ _ _ a _⟩⟩
  · dsimp only [exec, execLds]
    refine State.access_view hx hr ha ?_
    simp only [hl, Checked.run_ok]
  · dsimp only [exec, execLdsm]
    exact State.modulo_view hx hr ha rfl rfl hw hl rfl
  · dsimp only [exec, execLdfrag]
    refine State.access_view hx hr ha ?_
    simp only [hspad, if_true, List.map_map]
    exact congrArg (Checked.run · s.dev x _) hl
  · dsimp only [exec, execSts]
    refine State.access_view hx hr ha ?_
    simp only [hl, Checked.run_ok, Device.writeGate_room hroom]
  · dsimp only [exec, execStsm]
    exact State.modulo_view hx hr ha rfl rfl hw hl (Device.writeGate_room hroom _)

end Sys2Proof.Machine

/-! SUPPORT, O35 and O37. Memory instructions whose checks all pass, case by case of their meaning. -/

namespace Sys2Proof.Machine

section Atomics

variable {s : State} {x : View}

/-- Atomics on global memory whose lanes pass and meet no poison go on with each one performed (R173, R177, R178). -/
theorem atomicGlobal_ok {f : FmtMI} {l : List (Nat × Run)} {act : Mask} {fin : Device → View → List (Nat × List Byte) → Res}
    (hroom : s.dev.writeFull x.g = false)
    (hl : sumChecks ((x.globalReqs f.m (widthBytes f.m.w) act).map (fun p =>
      (p.1, s.dev.laneRun s.env x.g.ctx (Agent.core s.cur.core) .atomic (linkAtomic f.m.md.toNat) (widthBytes f.m.w)
        (widthBytes f.m.w) p.2))) = .ok l)
    (hp : ∀ p ∈ l, (s.dev.leaveL1 (Agent.core s.cur.core) x.g.ctx l).poisonRun (Agent.core s.cur.core) p.2 = false) :
    atomicGlobal s.env s.cur.core s.dev x f act fin =
      let r := ((s.dev.leaveL1 (Agent.core s.cur.core) x.g.ctx l).order s.cur.core f.m.ord f.m.scope).atomicLanes
        (Agent.core s.cur.core) x.g.ctx f.m.md.toNat (widthBytes f.m.w)
        ((laneOrder s.tick (fun p : Nat × Run => runKey p.2) l).map (fun p =>
          (p.1, p.2, (x.atomicArgs f (widthBytes f.m.w) p.1).1, (x.atomicArgs f (widthBytes f.m.w) p.1).2)))
      fin r.1 (x.counted.notePriv (l.any (fun p => runPriv p.2))) r.2 := by
  simp only [atomicGlobal, hl, Checked.run_ok, Device.writeGate_room hroom, filter_poisonRun_eq_nil hp, ne_eq, not_true_eq_false,
    if_false, List.map_map]
  rfl

end Atomics

/-- Settles O35: the lanes pass their checks and meet no poison, so each operation is performed in its turn. -/
theorem atomicsComplete : Obligations.AtomicsComplete := by
  unfold Obligations.AtomicsComplete
  refine ⟨fun f s x l hx ha hopen hroom hl hp => ⟨fun hr => ?_, fun hr => ?_⟩, fun s x hx hroom =>
    ⟨fun f l ha hr hl => ?_, fun f l ha hr hopen hl hp => ?_⟩⟩ <;> dsimp only [exec]
  · refine State.access_view hx hr ha ?_
    simp only [hopen, Option.isSome_none, Bool.false_eq_true, if_false]
    exact atomicGlobal_ok hroom hl hp
  · refine State.access_view hx hr ha ?_
    simp only [hopen]
    exact atomicGlobal_ok hroom hl hp
  · refine State.access_view hx hr ha ?_
    simp only [hl, Checked.run_ok, Device.writeGate_room hroom]
    rfl
  · refine State.access_view hx hr ha ?_
    simp only [hl, Checked.run_ok, Device.writeGate_room hroom, hopen, filter_poisonRun_eq_nil hp, ne_eq, not_true_eq_false, if_false]
    rfl

/-- Settles O37: the handle names a comb region, whose answers no lane traps on. -/
theorem combCompletes : Obligations.CombCompletes := by
  unfold Obligations.CombCompletes
  refine fun s x g hx => ⟨fun f d1 vs ha hr ht hv => ?_, fun f d1 us ha hr hopen hroom ht hu => ?_,
    fun f d1 vs ha hr hg hv => ?_, fun f ha hr hg => ?_⟩ <;> dsimp only [exec]
  · refine State.access_view hx hr ha ?_
    simp only [ht, hv, worstTrap]
  · refine State.access_view hx hr ha ?_
    simp only [hopen, Option.isSome_none, Bool.false_and, Bool.false_eq_true, if_false, ht, Device.writeGate_room hroom,
      State.env_tick]
    simp only [hu, worstTrap]
  · refine State.access_view hx hr ha ?_
    simp only [hg]
    simp only [hv, worstTrap]
  · refine State.access_view hx hr ha ?_
    simp only [hg]

end Sys2Proof.Machine

/-! SUPPORT. Every global load and every global store is one access: its checks, and what it makes of lanes that pass them (R169,
R171, R175, R181). -/

namespace Sys2Proof.Machine

/-! ### Elements of a dense tensor (R24, R181) -/

/-- The coordinates' address through a dense handle, where no index is odd at 4 bits (R181). -/
theorem Dense.at_ok {t : Dense} {c : List Nat} (h : t.fmt.bits = 4 → t.linear c % 2 = 0) :
    t.at_ c = .ok (t.base + (t.linear c * t.fmt.bits) / 8) := by
  unfold Dense.at_
  by_cases hb : t.fmt.bits = 4
  · simp [hb, h hb]
  · simp [hb]

/-- The lanes' coordinates name elements of a dense tensor: its handle, extents and width fit, and no index is odd at 4 bits. -/
structure View.NamesDense (x : View) (f : FmtM) (t : Dense) : Prop where
  notComb : (x.g.h.get f.md.toNat).getLsbD 57 = false
  target (d : Device) : d.target x f.md.toNat f.w ((lanesOf (x.active f.ms)).map (x.coord f)) = .dense t
  lookup {α : Type} (check : Int → Except Miss α) :
    (lanesOf (x.active f.ms)).map (fun l => (l, (t.at_ (x.coord f l)).bind check)) =
      (lanesOf (x.active f.ms)).map (fun l => (l, check (t.base + (t.linear (x.coord f l) * t.fmt.bits) / 8)))

/-- What the statements ask of a handle that TLD and TST use as dense. -/
theorem View.namesDense {x : View} {f : FmtM} {t : Dense} (ht : denseOf (x.g.h.get f.md.toNat) = some t)
    (h : ¬ ((x.g.h.get f.md.toNat).getLsbD 57 || widthBits f.w ≠ max 8 t.fmt.bits
      || !((lanesOf (x.active f.ms)).map (x.coord f)).all t.inside
      || (t.fmt.bits = 4 && (lanesOf (x.active f.ms)).any (fun l => t.linear (x.coord f l) % 2 ≠ 0))) = true) :
    x.NamesDense f t := by
  simp only [Bool.or_eq_true, Bool.and_eq_true, not_or, Bool.not_eq_true, decide_eq_true_eq, not_and, ne_eq, not_not,
    Bool.not_eq_eq_eq_not, Bool.not_true] at h
  obtain ⟨⟨⟨hdense, hwidth⟩, hinside⟩, heven⟩ := h
  refine ⟨hdense, fun d => ?_, fun check => List.map_congr_left fun l hl => ?_⟩
  · simp only [Device.target, hdense, Bool.false_eq_true, if_false, ht, hwidth, decide_true, Bool.true_and]
    exact if_pos (by simpa using hinside)
  · rw [Dense.at_ok (fun hb => by simpa using List.any_eq_false.mp (heven hb) l hl)]
    rfl

/-- A TLD that is a load reads a dense tensor. -/
theorem loadOf_tld {x : View} {f : FmtM} {L : Spec.Load} (h : Spec.loadOf x (.tld f) = some L) :
    ∃ t, x.NamesDense f t ∧ L = { ord := f.ord, scope := f.scope, align := widthBytes f.w, n := widthBytes f.w
                                  reqs := (lanesOf (x.active f.ms)).map (fun l =>
                                    (l, t.base + (t.linear (x.coord f l) * t.fmt.bits) / 8))
                                  put := fun y l => y.putLanes f.vd.toNat false l } := by
  dsimp only [Spec.loadOf] at h
  split at h
  next => cases h
  next t ht =>
    split at h
    next => cases h
    next hok => exact ⟨t, View.namesDense ht hok, (Option.some.inj h).symm⟩

/-- A TST that is a store writes a dense tensor. -/
theorem storeOf_tst {x : View} {f : FmtM} {S : Spec.Store} (h : Spec.storeOf x (.tst f) = some S) :
    ∃ t, x.NamesDense f t ∧ S = { ord := f.ord, scope := f.scope, n := widthBytes f.w
                                  reqs := (lanesOf (x.active f.ms)).map (fun l =>
                                    (l, t.base + (t.linear (x.coord f l) * t.fmt.bits) / 8,
                                      x.regBytes f.vd.toNat l (widthBytes f.w))) } := by
  dsimp only [Spec.storeOf] at h
  split at h
  next => cases h
  next t ht =>
    split at h
    next => cases h
    next hok => exact ⟨t, View.namesDense ht hok, (Option.some.inj h).symm⟩

/-! ### The checks of a store's lanes (R169) -/

/-- What a check gives where it passes is no part of its faults. -/
theorem faultsOf_map {α β γ : Type} (l : List γ) (lane : γ → Nat) (c : γ → Except Miss α) (g : γ → α → β) :
    faultsOf (l.map (fun p => (lane p, (c p).map (g p)))) = faultsOf (l.map (fun p => (lane p, c p))) := by
  simp only [faultsOf, List.filterMap_map]
  congr 1
  funext p
  simp only [Function.comp]
  obtain m | a := c p
  · cases m <;> rfl
  · rfl

/-- The trap that the checks of some lanes come to, if to one. -/
def Checked.trap? {α : Type} : Checked α → Option TrapReq
  | .trap t => some t
  | _ => none

/-- Checks come to the trap of their lanes' faults, if they have any (R169). -/
theorem trap?_sumChecks {α : Type} (l : List (Nat × Except Miss α)) : (sumChecks l).trap? = worstTrap (faultsOf l) := by
  unfold sumChecks
  split
  next t h => exact h.symm
  next h =>
    rw [h]
    dsimp only
    split
    · rfl
    · split <;> rfl

/-- The checks of a store come to the trap of its lanes' addresses. -/
theorem trap?_checks (S : Spec.Store) (s : State) (x : View) : (S.checks s x).trap? =
    worstTrap (faultsOf (S.reqs.map (fun p =>
      (p.1, s.dev.laneRun s.env x.g.ctx (Agent.core s.cur.core) .store true S.n S.n p.2.1)))) :=
  (trap?_sumChecks _).trans (congrArg worstTrap (faultsOf_map S.reqs Prod.fst _ (fun p r => (r, p.2.1, p.2.2))))


/-! ### Traps of a memory instruction (R121, R169, R398) -/

/-- A trap of the view would wait for a handler, and its core holds as many as it can (R398). While a handler runs the handling
split alone is eligible, so that no step issues such a view (R217). -/
def View.crowded (x : View) : Bool := x.g.inHandler && !x.sp.handling && x.g.trapsFull

/-- A memory instruction that traps raises its trap, but for one with no room for it, which changes nothing (R398). -/
theorem State.access_trap {s : State} {x : View} {i : Instr} {n : Nat} {ms : Pred}
    {f : Env → SplitRef → Device → View → Mask → Res} {t : TrapReq} (hx : s.issuer = some x)
    (hr : x.g.inRange i.spans = true) (ha : x.active ms ≠ 0) (hf : f s.env s.cur s.dev x (x.active ms) = .trap s.dev x.sp t) :
    s.access i n ms f =
      if x.crowded then .next s else s.close x (s.dev.raise s.env s.cur.key x.g x.sp t) := by
  simp only [State.access, State.onDevice, hx, hr, ha, hf, if_true, if_false, Device.apply, State.issuer_group hx]
  exact apply_ite (s.close x) (x.crowded = true) (.ok s.dev) _

/-- A memory instruction acts on the issuing view alone. -/
theorem State.access_congr {s : State} {x : View} {i : Instr} {n : Nat} {ms : Pred}
    {f g : Env → SplitRef → Device → View → Mask → Res} (hx : s.issuer = some x)
    (h : f s.env s.cur s.dev x (x.active ms) = g s.env s.cur s.dev x (x.active ms)) : s.access i n ms f = s.access i n ms g := by
  simp only [State.access, State.onDevice, hx, h]

/-- How an instruction reports its trap: one that acts once for its split names every lane of E (R122, R175). -/
def reported : Instr → Res → Res
  | .ldu _ | .hld _ | .qld _ | .stsc _ => Res.uniform
  | _ => id

theorem reported_view (i : Instr) (d : Device) (key : Nat) (y : View) : reported i (Res.view d key y) = Res.view d key y := by
  unfold reported
  split <;> rfl

/-! ### Loads (R169, R174 to R176, R180, R181) -/

/-- The view once a load of some lanes has passed: its lines noted, and whether it touched a PRIV page. -/
def View.loaded (x : View) (l : List (Nat × Run)) : View :=
  (x.noteLoad (l.flatMap (fun p => runLines p.2))).notePriv (l.any (fun p => runPriv p.2))

theorem View.loaded_eq (x : View) (l : List (Nat × Run)) : ∃ p spin, x.loaded l =
    { g := { x.g with touchedPriv := p }, sp := { x.sp with spin } } := by
  unfold View.loaded View.notePriv
  split
  · exact ⟨true, _, rfl⟩
  · exact ⟨x.g.touchedPriv, _, rfl⟩

/-- What a load makes of its checks: a trap, a wait, or the view with its lanes' bytes. -/
def loadResult (L : Spec.Load) (s : State) (x : View) : Res :=
  (L.checks s x).run s.dev x (fun l =>
    (s.dev.order s.cur.core (if isAcq L.ord then .acq else .plain) L.scope).loadLanes s.cur.core x l
      (fun d y vals => Res.view d s.cur.key ((L.put y vals).next 8)))

/-- What follows a load sees the loaded view alone. -/
theorem Device.loadLanes_congr {d : Device} {core : Nat} {x : View} {l : List (Nat × Run)}
    {f g : Device → View → List (Nat × List Byte) → Res} (h : ∀ c vals, f c (x.loaded l) vals = g c (x.loaded l) vals) :
    d.loadLanes core x l f = d.loadLanes core x l g := by
  unfold Device.loadLanes
  dsimp only
  split
  · rfl
  · exact h _ _

/-- QLD of an open group reads as any load. -/
theorem qld_result {f : FmtM} {s : State} {x : View} (hopen : x.g.sealBuf = none) {L : Spec.Load}
    (hL : Spec.loadOf x (.qld f) = some L) :
    loadGlobal s.env s.cur.core s.dev { x with g := { x.g with sealBuf := none } } f.ord f.scope 32 32
      [(lowLane (x.active f.ms), x.descAddr f)] (fun d y l => Res.view d s.cur.key ({ y with g := { y.g with
        sealBuf := x.g.sealBuf
        q := x.g.q.set f.md.toNat (BitVec.ofNat 256 (bytesToNat ((l.map Prod.snd).headD []))) } }.next 8)) =
      loadResult L s x := by
  have hview : ({ x with g := { x.g with sealBuf := none } } : View) = x := by
    rw [← hopen]
  simp only [Spec.loadOf, hopen, Option.isSome_none, Bool.false_eq_true, if_false] at hL
  cases hL
  rw [hview]
  unfold loadGlobal loadResult
  congr 1
  funext l
  refine Device.loadLanes_congr (fun c vals => ?_)
  obtain ⟨p, spin, hy⟩ := x.loaded_eq l
  rw [hy]

/-- Every global load is its checks and what they make of its lanes. -/
theorem exec_of_loadOf {i : Instr} {s : State} {x : View} {L : Spec.Load} (hx : s.issuer = some x)
    (hL : Spec.loadOf x i = some L) :
    exec i s = s.access i 8 (Spec.predOf i).1 (fun _ _ _ _ _ => reported i (loadResult L s x)) := by
  have hL' := hL
  unfold Spec.loadOf at hL
  split at hL <;> dsimp only [exec, execLdg, execLdu, execLdfrag, execHld, execQld, execTld]
  next f => cases hL; exact State.access_congr hx rfl
  next f => cases hL; exact State.access_congr hx rfl
  next f =>
    split at hL
    next => cases hL
    next hglobal => cases hL; exact State.access_congr hx (if_neg hglobal)
  next f => cases hL; exact State.access_congr hx rfl
  next f =>
    split at hL
    next => cases hL
    next hopen => exact State.access_congr hx (congrArg Res.uniform (qld_result (by simpa using hopen) hL'))
  next f =>
    obtain ⟨t, hd, rfl⟩ := loadOf_tld hL'
    refine State.access_congr hx ?_
    simp only [hd.target, hd.lookup]
    unfold loadResult Spec.Load.checks
    simp only [List.map_map]
    rfl
  next => cases hL

/-! ### Stores (R171, R173, R175, R181) -/

/-- What a store makes of its lanes: a trap, a wait, or the view once their bytes are in memory or in the seal buffer. -/
def storeResult (S : Spec.Store) (s : State) (x : View) : Res :=
  storeGlobal s.env s.cur.core s.dev x S.ord S.scope S.n S.n S.reqs (fun d y => Res.view d s.cur.key (y.next 8))

/-- A store whose lanes' faults come to a trap is that trap. -/
theorem storeResult_trap {S : Spec.Store} {s : State} {x : View} {t : TrapReq} (ht : S.checks s x = .trap t) :
    storeResult S s x = .trap s.dev x.sp t := by
  unfold Spec.Store.checks at ht
  unfold storeResult storeGlobal
  rw [ht, Checked.run_trap]

/-- Every global store is its checks and what they make of its lanes. -/
theorem exec_of_storeOf {i : Instr} {s : State} {x : View} {S : Spec.Store} (hx : s.issuer = some x)
    (hS : Spec.storeOf x i = some S) :
    exec i s = s.access i 8 (Spec.predOf i).1 (fun _ _ _ _ _ => reported i (storeResult S s x)) := by
  have hS' := hS
  unfold Spec.storeOf at hS
  split at hS <;> dsimp only [exec, execStg, execStsc, execTst]
  next f => cases hS; exact State.access_congr hx rfl
  next f => cases hS; exact State.access_congr hx rfl
  next f =>
    obtain ⟨t, hd, hS⟩ := storeOf_tst hS'
    refine State.access_congr hx ?_
    simp only [hd.notComb, Bool.and_false, Bool.false_eq_true, if_false, hd.target, hd.lookup]
    have hfaults := trap?_checks S s x
    subst hS
    simp only [List.map_map, Function.comp_def] at hfaults
    rw [← hfaults]
    cases hc : Spec.Store.checks _ s x with
    | trap t => exact (storeResult_trap hc).symm
    | ok l => rfl
    | stall why => rfl
  next => cases hS

/-! ### What an instruction's access comes to -/

/-- The trap that an instruction reports for one that its access comes to. -/
def reportedTrap (i : Instr) (sp : Split) (t : TrapReq) : TrapReq :=
  match i with
  | .ldu _ | .hld _ | .qld _ | .stsc _ => { t with lanes := sp.e }
  | _ => t

theorem reported_trap (i : Instr) (d : Device) (sp : Split) (t : TrapReq) :
    reported i (.trap d sp t) = .trap d sp (reportedTrap i sp t) := by
  unfold reported reportedTrap
  split <;> rfl

section Result

variable {i : Instr} {s : State} {x : View} {r : Res} (hx : s.issuer = some x) (hr : x.g.inRange i.spans = true)
  (ha : x.active (Spec.predOf i).1 ≠ 0)
  (hexec : exec i s = s.access i 8 (Spec.predOf i).1 (fun _ _ _ _ _ => reported i r))

include hx hr ha hexec

/-- An access that leaves a view goes on with it. -/
theorem exec_of_view {d : Device} {y : View} (h : r = Res.view d s.cur.key y) : exec i s = .next (s.afterOn d x y) :=
  hexec.trans (State.access_view hx hr ha (h ▸ reported_view i d s.cur.key y))

/-- An access that traps raises its trap, where that has room to wait. -/
theorem exec_of_trap {t : TrapReq} (h : r = .trap s.dev x.sp t) :
    exec i s = if x.crowded then .next s else s.close x (s.dev.raise s.env s.cur.key x.g x.sp (reportedTrap i x.sp t)) :=
  hexec.trans (State.access_trap hx hr ha (h ▸ reported_trap i s.dev x.sp t))

end Result

end Sys2Proof.Machine

/-! SUPPORT and O34. A store of a sealed group goes into its buffer and touches its pages; memory keeps every other byte. -/

namespace Sys2Proof.Machine

/-! ### Pages touched (R386) -/

/-- Either way. -/
theorem Device.space_ite {p : Prop} [Decidable p] {a b : Device} {t : Space} {m : SMap 8} (ha : a.space t = m) (hb : b.space t = m) :
    (if p then a else b).space t = m := by
  split
  · exact ha
  · exact hb

/-- A page touched changes no byte outside the entry of its leaf (R386). -/
theorem Device.get_touch_outside (d : Device) (ag : Agent) (ctx : Nat) (va : W64) (k : Access) (x : Xlate) {t : Space} {a : Nat}
    (h : t = .dev → ¬ (x.leaf.at_ ≤ a ∧ a < x.leaf.at_ + 8)) :
    SMap.get ((d.touch ag ctx va k x).space t) a = SMap.get (d.space t) a := by
  unfold Device.touch
  have htlbs := fun (c : Device) (l : List Nat) (e : Nat → TlbEntry) => foldl_leaves (fun c : Device => c.space t) (l := l)
    (f := fun c u => if c.tlbFind u ctx va.toNat = some (e u) then c else c.tlbPut (e u)) c
    (fun c u _ => Device.space_ite rfl (c.space_tlbPut (e u) t))
  refine (congrArg (SMap.get · a) (htlbs _ _ _)).trans ?_
  refine (congrArg (SMap.get · a) (Device.space_ite (Device.space_tablesPut _ _ _ _ _ t) rfl)).trans ?_
  split
  next =>
    rw [Device.space_store]
    split
    next ht =>
      subst ht
      exact get_writeBytes_outside _ (by rw [length_natToBytes]; have := h rfl; omega)
    next => cases t <;> rfl
  next => cases t <;> rfl

/-- The pages of a checked access touched change no byte outside the entries of their leaves. -/
theorem Device.get_touchAll_outside (d : Device) (ag : Agent) (ctx : Nat) (k : Access) (l : Run) {t : Space} {a : Nat}
    (h : t = .dev → ∀ p ∈ l, ¬ (p.1.leaf.at_ ≤ a ∧ a < p.1.leaf.at_ + 8)) :
    SMap.get ((d.touchAll ag ctx k l).space t) a = SMap.get (d.space t) a :=
  foldl_leaves (fun c : Device => SMap.get (c.space t) a) d (fun c p hp => c.get_touch_outside _ _ _ _ _ (fun ht => h ht p hp))

/-! ### Stores of a sealed group (R174, R233) -/

/-- The view of a sealed group whose write has gone into its buffer. -/
def View.buffered (x : View) (priv : Bool) (b : SealBuf) : View :=
  let y := x.counted.notePriv priv
  { y with g := { y.g with sealBuf := some b } }

theorem View.buffered_eq (x : View) (priv : Bool) (b : SealBuf) : ∃ p, x.buffered priv b =
    { x with g := { x.g with writes := x.g.writes + 1, touchedPriv := p, sealBuf := some b } } := by
  unfold View.buffered View.notePriv
  split
  · exact ⟨true, rfl⟩
  · exact ⟨x.g.touchedPriv, rfl⟩

/-- A store of a sealed group whose lanes pass and whose buffer has room goes on with its bytes buffered. -/
theorem storeGlobal_sealed {s : State} {x : View} {o : MemOrd} {sc : Scope} {n : Nat} {reqs : List (Nat × Int × List Byte)}
    {l q : List (Nat × Run × Int × List Byte)} {b b' : SealBuf} {d : Device} {f : Device → View → Res}
    (hl : Spec.Store.checks { ord := o, scope := sc, n, reqs } s x = .ok l) (hroom : s.dev.writeFull x.g = false)
    (hseal : x.g.sealBuf = some b) (hq : laneOrder s.tick (fun p : Nat × Run × Int × List Byte => runKey p.2.1) l = q)
    (hb : (bufferStores b (q.map (fun p => (p.2.1, p.2.2.2)))).notePages (Agent.core s.cur.core) x.g.ctx o sc
      (q.map (fun p => p.2.1)) = b')
    (hd : q.foldl (fun d p => d.touchAll (Agent.core s.cur.core) x.g.ctx .load p.2.1) s.dev = d)
    (hlimit : b'.units ≤ sealLimit) (hunits : d.sealUsed s.cur.core + (b'.units - b.units) ≤ sealUnits) :
    storeGlobal s.env s.cur.core s.dev x o sc n n reqs f = f d (x.buffered (q.any (fun p => runPriv p.2.1)) b') := by
  unfold Spec.Store.checks at hl
  simp only at hl
  simp only [storeGlobal, hl, Checked.run_ok, Device.writeGate_room hroom, hseal, State.env_tick, hq, hb, hd, Device.sealTake,
    Nat.not_lt.mpr hlimit, Nat.not_lt.mpr hunits, if_false]
  rfl

/-- Lanes' pages touched change no byte outside the entries of their leaves. -/
theorem Device.get_foldl_touchAll_outside {α : Type} (run : α → Nat × Run) (l : List α) (d : Device) (ag : Agent) (ctx : Nat)
    (k : Access) {t : Space} {a : Nat} (h : t = .dev → ¬ Spec.InLeaf (l.map run) a) :
    SMap.get ((l.foldl (fun d p => d.touchAll ag ctx k (run p).2) d).space t) a = SMap.get (d.space t) a :=
  foldl_leaves (fun c : Device => SMap.get (c.space t) a) d (fun c p hp => c.get_touchAll_outside ag ctx k _
    (fun ht u hu hin => h ht ⟨run p, List.mem_map_of_mem hp, u, hu, hin⟩))

/-- Settles O34: the checked store goes into the buffer, and the touched pages change their entries alone. -/
theorem sealedStoreBuffers : Obligations.SealedStoreBuffers := by
  unfold Obligations.SealedStoreBuffers
  intro i s x S l b hx hr ha hS hl hroom hseal q b' d hlimit hunits
  refine ⟨?_, fun sp a h => Device.get_foldl_touchAll_outside (fun p => (p.1, p.2.1)) q s.dev _ _ _ h⟩
  obtain ⟨p, hp⟩ := x.buffered_eq (q.any (fun p => runPriv p.2.1)) b'
  refine ⟨_, exec_of_view hx hr ha (exec_of_storeOf hx hS) (storeGlobal_sealed hl hroom hseal rfl rfl rfl hlimit hunits), ?_⟩
  rw [hp]
  exact ⟨rfl, rfl, rfl, rfl, rfl⟩

end Sys2Proof.Machine

/-! SUPPORT. What loads and stores leave of memory and of the scratchpads (R226, R229, R386). -/

namespace Sys2Proof.Machine

/-! ### The scratchpads beside memory (R226) -/

@[simp] theorem Device.spad_land (d : Device) (t : Space) (pa : Nat) (l : List Byte) : (d.land t pa l).spad = d.spad := by
  cases t <;> rfl

@[simp] theorem Device.spad_store (d : Device) (t : Space) (pa : Nat) (l : List Byte) : (d.store t pa l).spad = d.spad := by
  simp [Device.store]

@[simp] theorem Device.spad_storeSector (d : Device) (t : Space) (base : Nat) (mask : BitVec 16) (byte : Nat → Byte) (new : Bool) :
    (d.storeSector t base mask byte new).spad = d.spad := by
  unfold Device.storeSector
  cases new <;> (dsimp only; split <;> simp)

@[simp] theorem Device.spad_l1WriteBack (d : Device) (x : L1Sector) : (d.l1WriteBack x).spad = d.spad := by
  unfold Device.l1WriteBack
  dsimp only
  split
  · rfl
  · split <;> simp

@[simp] theorem Device.spad_order (d : Device) (core : Nat) (o : MemOrd) (sc : Scope) : (d.order core o sc).spad = d.spad := by
  unfold Device.order Device.l1Clean
  split
  · split
    · rfl
    · exact foldl_leaves Device.spad d (fun c y _ => by dsimp only; split <;> simp)
  · rfl

@[simp] theorem Device.spad_tablesPut (d : Device) (unit ctx : Nat) (va : W64) (p : List (Nat × W64)) :
    (d.tablesPut unit ctx va p).spad = d.spad := by
  unfold Device.tablesPut
  split <;> rfl

@[simp] theorem Device.spad_touch (d : Device) (ag : Agent) (ctx : Nat) (va : W64) (k : Access) (x : Xlate) :
    (d.touch ag ctx va k x).spad = d.spad := by
  unfold Device.touch
  refine (foldl_leaves Device.spad _ (fun c u _ => by dsimp only; split <;> rfl)).trans ?_
  split <;> split <;> simp

/-! ### Fills of an L1 (R229) -/

@[simp] theorem Device.space_l1Fill (d : Device) (core pa : Nat) (priv : Bool) (t : Space) : (d.l1Fill core pa priv).space t = d.space t := by
  unfold Device.l1Fill
  split
  · split <;> simp
  · simp

@[simp] theorem Device.spad_l1Fill (d : Device) (core pa : Nat) (priv : Bool) : (d.l1Fill core pa priv).spad = d.spad := by
  unfold Device.l1Fill
  split
  · split <;> rfl
  · rfl

/-- What the fills of sectors and the touches of lines leave alone, a load's fills leave alone. -/
theorem Device.fillAt_leaves {γ : Type} (get : Device → γ) (hfill : ∀ d c pa priv, get (d.l1Fill c pa priv) = get d)
    (htouch : ∀ d c k, get (d.l1Touch c k) = get d) (d : Device) (ag : Agent) (x : Xlate) (n : Nat) :
    get (d.fillAt ag x n) = get d := by
  unfold Device.fillAt
  split
  · split
    · rfl
    · refine (foldl_leaves get _ (fun c k _ => htouch c _ k)).trans ?_
      split
      · exact foldl_leaves get _ (fun c k _ => hfill c _ _ _)
      · rfl
  · rfl

/-! ### Writes at translated addresses (R229, R251) -/

/-- Bytes that a core writes into its L1 are in no memory yet. -/
theorem Device.space_writeBehind (d : Device) (core : Nat) (x : Xlate) (l : List Byte) (t : Space) :
    (d.writeBehind core x l).space t = d.space t := by
  have hput (c : Device) (pa : Nat) (b : Byte) (priv : Bool) : (c.l1Put core pa b priv).space t = c.space t := by
    simp [Device.l1Put]
  have hputs := foldl_leaves (fun c : Device => c.space t) (l := l.zip (List.range l.length))
    (f := fun c p => c.l1Put core (x.pa + p.2) p.1 (x.cls = 2)) d (fun c p _ => hput c _ _ _)
  exact Device.space_ite ((Device.space_keepOld _ _ _ _ _ _).trans hputs) hputs

/-- Bytes outside those of a store that spans lines are as before. -/
theorem Device.get_storeLong_outside (d : Device) {t u : Space} {pa a : Nat} {l : List Byte}
    (h : u = t → a < pa ∨ pa + l.length ≤ a) :
    SMap.get ((d.storeLong t pa l (l.length / 128 + 2)).space u) a = SMap.get (d.space u) a := by
  rw [d.space_storeLong t u pa l _ (storeLong_fuel pa l)]
  split
  next hu => rw [hu, get_writeBytes_outside _ (h hu)]
  next => rfl

/-- Bytes outside those written through an L1 are as before. -/
theorem Device.get_writeThrough_outside (d : Device) {core : Nat} {t u : Space} {pa a : Nat} {l : List Byte}
    (h : u = t → a < pa ∨ pa + l.length ≤ a) :
    SMap.get ((d.writeThrough core t pa l).space u) a = SMap.get (d.space u) a := by
  refine Eq.trans (congrArg (SMap.get · a) ?_) (d.get_storeLong_outside h)
  unfold Device.writeThrough
  exact Device.space_ite (by simp) rfl

/-- Bytes outside those written at a translated address are as before. -/
theorem Device.get_writeAt_outside (d : Device) {ag : Agent} {x : Xlate} {l : List Byte} {u : Space} {a : Nat}
    (h : u = x.space → a < x.pa ∨ x.pa + l.length ≤ a) :
    SMap.get ((d.writeAt ag x l).space u) a = SMap.get (d.space u) a := by
  have hhome := d.get_storeLong_outside h
  have hthrough (c : Nat) (hx : x.space = .dev) : SMap.get ((d.writeThrough c .dev x.pa l).space u) a = SMap.get (d.space u) a :=
    d.get_writeThrough_outside (fun hu => h (hu.trans hx.symm))
  unfold Device.writeAt
  dsimp only
  split
  next c _ =>
    split
    next => exact hhome
    next hcached =>
      rw [foldl_leaves (fun d : Device => d.space u) _ (fun d k _ => d.space_l1Touch c k u)]
      split
      next => rw [d.space_writeBehind]
      next =>
        simp only [Xlate.uncached, Bool.or_eq_true, decide_eq_true_eq, not_or, ne_eq, not_not] at hcached
        exact hthrough c hcached.1
  next =>
    split
    next c _ =>
      split
      next hheld =>
        simp only [Xlate.held, Bool.and_eq_true, decide_eq_true_eq] at hheld
        exact hthrough c hheld.1
      next => exact hhome
    next => exact hhome

/-- Bytes outside a checked access are as before it is written. -/
theorem Device.get_writeRun_outside (d : Device) {ag : Agent} {r : Run} {l : List Byte} {u : Space} {a : Nat}
    (h : ∀ t ∈ r, ¬ (t.1.space = u ∧ t.1.pa ≤ a ∧ a < t.1.pa + t.2.1)) :
    SMap.get ((d.writeRun ag r l).space u) a = SMap.get (d.space u) a := by
  induction r generalizing d l with
  | nil => rfl
  | cons t r ih =>
    obtain ⟨ht, hr⟩ := List.forall_mem_cons.mp h
    rw [Device.writeRun, ih _ hr]
    refine d.get_writeAt_outside (fun hu => ?_)
    have hlen := List.length_take_le t.2.1 l
    by_contra hin
    exact ht ⟨hu.symm, by omega, by omega⟩

end Sys2Proof.Machine

/-! SUPPORT, and the refutation of O31 and O33. Loads and stores go on as the statements say, and one that fails a check raises its
trap where there is room for it. While a handler of the group runs and its core holds sixteen of its waiting traps there is none:
the access then changes nothing and is tried again once the handler has ended (R121, R398). The statements ask for no such room;
they range over every state, those that no step issues from included. -/

namespace Sys2Proof.Machine

/-! ### Loads, as O31 says of them where a trap has room -/

/-- The device once a load's pages are touched and its sectors filled. -/
def loadFilled (L : Spec.Load) (s : State) (x : View) (l : List (Nat × Run)) : Device :=
  l.foldl (fun d p => p.2.foldl (fun d t => d.fillAt (Agent.core s.cur.core) t.1 t.2.1) d) (L.touched s x l)

/-- What fills leave alone is as the touched pages have it. -/
theorem loadFilled_leaves {γ : Type} (get : Device → γ) (hfill : ∀ d c pa priv, get (d.l1Fill c pa priv) = get d)
    (htouch : ∀ d c k, get (d.l1Touch c k) = get d) (L : Spec.Load) (s : State) (x : View) (l : List (Nat × Run)) :
    get (loadFilled L s x l) = get (L.touched s x l) :=
  foldl_leaves get _ (fun c _ _ => foldl_leaves get c (fun c _ _ => c.fillAt_leaves get hfill htouch _ _ _))

theorem spad_touched (L : Spec.Load) (s : State) (x : View) (l : List (Nat × Run)) : (L.touched s x l).spad = s.dev.spad :=
  (foldl_leaves Device.spad _ (fun c _ _ => foldl_leaves Device.spad c (fun c _ _ => c.spad_touch _ _ _ _ _))).trans
    (s.dev.spad_order _ _ _)

/-- A load that does not acquire changes no byte outside the entries of its pages. -/
theorem get_touched_outside {L : Spec.Load} (hacq : isAcq L.ord = false) (s : State) (x : View) {l : List (Nat × Run)} {sp : Space}
    {a : Nat} (h : sp = .dev → ¬ Spec.InLeaf l a) :
    SMap.get ((L.touched s x l).space sp) a = SMap.get (s.dev.space sp) a := by
  unfold Spec.Load.touched
  refine (Device.get_foldl_touchAll_outside id l _ _ _ _ (by simpa using h)).trans ?_
  simp [hacq, Device.order]

/-- A load of lanes that pass and meet no poison leaves their bytes in its registers. -/
theorem loadResult_ok {L : Spec.Load} {s : State} {x : View} {l : List (Nat × Run)} (hl : L.checks s x = .ok l)
    (hp : ∀ p ∈ l, (L.touched s x l).poisonRun (Agent.core s.cur.core) p.2 = false) :
    loadResult L s x = Res.view (loadFilled L s x l) s.cur.key ((L.put (x.loaded l) (l.map (fun p =>
      (p.1, (L.touched s x l).groupRead (Agent.core s.cur.core) x.g p.2)))).next 8) := by
  unfold Spec.Load.touched at hp
  simp only [loadResult, hl, Checked.run_ok, Device.loadLanes, filter_poisonRun_eq_nil hp, ne_eq, not_true_eq_false, if_false]
  rfl

section Loads

variable {i : Instr} {s : State} {x : View} {L : Spec.Load} (hx : s.issuer = some x) (hr : x.g.inRange i.spans = true)
  (ha : x.active (Spec.predOf i).1 ≠ 0) (hL : Spec.loadOf x i = some L)

include hx hr ha hL

/-- A load of lanes that pass and meet no poison goes on with their bytes, and keeps memory but for its order and its pages. -/
theorem exec_load_ok {l : List (Nat × Run)} (hl : L.checks s x = .ok l)
    (hp : ∀ p ∈ l, (L.touched s x l).poisonRun (Agent.core s.cur.core) p.2 = false) :
    ∃ (d : Device) (y : View),
      exec i s = .next (s.afterOn d x ((L.put y (l.map (fun p =>
        (p.1, (L.touched s x l).groupRead (Agent.core s.cur.core) x.g p.2)))).next 8)) ∧
      y.g = { x.g with touchedPriv := y.g.touchedPriv } ∧ y.sp = { x.sp with spin := y.sp.spin } ∧
      (∀ sp a, SMap.get (d.space sp) a = SMap.get ((L.touched s x l).space sp) a) ∧ d.spad = s.dev.spad ∧
      (isAcq L.ord = false → ∀ sp a, (sp = .dev → ¬ Spec.InLeaf l a) →
        SMap.get (d.space sp) a = SMap.get (s.dev.space sp) a) := by
  have hmem (sp : Space) : (loadFilled L s x l).space sp = (L.touched s x l).space sp :=
    loadFilled_leaves (fun d => d.space sp) (fun d c pa priv => d.space_l1Fill c pa priv sp) (fun d c k => d.space_l1Touch c k sp)
      L s x l
  have hspad : (loadFilled L s x l).spad = s.dev.spad :=
    (loadFilled_leaves Device.spad Device.spad_l1Fill (fun _ _ _ => rfl) L s x l).trans (spad_touched L s x l)
  obtain ⟨p, spin, hy⟩ := x.loaded_eq l
  refine ⟨loadFilled L s x l, x.loaded l, exec_of_view hx hr ha (exec_of_loadOf hx hL) (loadResult_ok hl hp), by rw [hy], by rw [hy],
    fun sp a => by rw [hmem], hspad, fun hacq sp a h => ?_⟩
  rw [hmem, get_touched_outside hacq s x h]

/-- A load one of whose lanes fails its checks raises the trap they come to, where that has room to wait (R169, R398). -/
theorem exec_load_trap {t : TrapReq} (ht : L.checks s x = .trap t) :
    exec i s = if x.crowded then .next s else s.close x (s.dev.raise s.env s.cur.key x.g x.sp (reportedTrap i x.sp t)) :=
  exec_of_trap hx hr ha (exec_of_loadOf hx hL) (by rw [loadResult, ht, Checked.run_trap])

end Loads

/-! ### Stores, as O33 says of them where a trap has room -/

/-- The device once an open group's lanes have stored, under their order. -/
def storeLanded (S : Spec.Store) (s : State) (x : View) (q : List (Nat × Run × Int × List Byte)) : Device :=
  let ro : MemOrd := if isRel S.ord then .rel else .plain
  (q.foldl (fun d p => d.storeLane (Agent.core s.cur.core) x.g.ctx p.2.1 p.2.2.2)
    (s.dev.order s.cur.core ro S.scope)).order s.cur.core ro S.scope

/-- Stores that release nothing change no byte but those of their lanes and of the entries of their pages. -/
theorem get_storeLanded_outside {S : Spec.Store} (hrel : isRel S.ord = false) (s : State) (x : View)
    {q : List (Nat × Run × Int × List Byte)} {sp : Space} {a : Nat}
    (hrun : ¬ Spec.InRun (q.map (fun p => (p.1, p.2.1))) sp a)
    (hleaf : sp = .dev → ¬ Spec.InLeaf (q.map (fun p => (p.1, p.2.1))) a) :
    SMap.get ((storeLanded S s x q).space sp) a = SMap.get (s.dev.space sp) a := by
  simp only [storeLanded, hrel, Bool.false_eq_true, if_false, Device.order, ne_eq, not_true_eq_false, decide_false, Bool.and_false]
  refine foldl_leaves (fun d : Device => SMap.get (d.space sp) a) s.dev (fun d p hp => ?_)
  have hp' := List.mem_map_of_mem (f := fun p : Nat × Run × Int × List Byte => (p.1, p.2.1)) hp
  rw [Device.storeLane, Device.get_writeRun_outside _ (fun t ht hin => hrun ⟨_, hp', t, ht, hin⟩)]
  exact d.get_touchAll_outside _ _ _ _ (fun hsp t ht hin => hleaf hsp ⟨_, hp', t, ht, hin⟩)

/-- A store of an open group whose lanes pass leaves their bytes in memory. -/
theorem storeResult_open {S : Spec.Store} {s : State} {x : View} {l : List (Nat × Run × Int × List Byte)}
    (hl : S.checks s x = .ok l) (hroom : s.dev.writeFull x.g = false) (hopen : x.g.sealBuf = none) :
    storeResult S s x = Res.view
      (storeLanded S s x (laneOrder s.tick (fun p : Nat × Run × Int × List Byte => runKey p.2.1) l)) s.cur.key
      ((x.counted.notePriv ((laneOrder s.tick (fun p : Nat × Run × Int × List Byte => runKey p.2.1) l).any
        (fun p => runPriv p.2.1))).next 8) := by
  unfold Spec.Store.checks at hl
  simp only [storeResult, storeGlobal, hl, Checked.run_ok, Device.writeGate_room hroom, hopen, State.env_tick]
  rfl

section Stores

variable {i : Instr} {s : State} {x : View} {S : Spec.Store} (hx : s.issuer = some x) (hr : x.g.inRange i.spans = true)
  (ha : x.active (Spec.predOf i).1 ≠ 0) (hS : Spec.storeOf x i = some S)

include hx hr ha hS

/-- A store of an open group whose lanes pass goes on with their bytes written, and keeps the rest of memory where it releases
nothing. -/
theorem exec_store_ok {l : List (Nat × Run × Int × List Byte)} (hl : S.checks s x = .ok l) (hroom : s.dev.writeFull x.g = false)
    (hopen : x.g.sealBuf = none) :
    let q := laneOrder s.tick (fun p : Nat × Run × Int × List Byte => runKey p.2.1) l
    let d := storeLanded S s x q
    exec i s = .next (s.afterOn d x ((x.counted.notePriv (q.any (fun p => runPriv p.2.1))).next 8)) ∧
    (isRel S.ord = false → ∀ sp a, ¬ Spec.InRun (q.map (fun p => (p.1, p.2.1))) sp a →
      (sp = .dev → ¬ Spec.InLeaf (q.map (fun p => (p.1, p.2.1))) a) →
      SMap.get (d.space sp) a = SMap.get (s.dev.space sp) a) :=
  ⟨exec_of_view hx hr ha (exec_of_storeOf hx hS) (storeResult_open hl hroom hopen),
    fun hrel _ _ hrun hleaf => get_storeLanded_outside hrel s x hrun hleaf⟩

/-- A store one of whose lanes fails its checks raises the trap they come to, where that has room to wait (R169, R398). -/
theorem exec_store_trap {t : TrapReq} (ht : S.checks s x = .trap t) :
    exec i s = if x.crowded then .next s else s.close x (s.dev.raise s.env s.cur.key x.g x.sp (reportedTrap i x.sp t)) :=
  exec_of_trap hx hr ha (exec_of_storeOf hx hS) (storeResult_trap ht)

end Stores

/-! ### Traps with no room to wait (R398) -/

/-- A trap that is raised while another split handles one is one more that waits. -/
theorem State.close_raise_ne_self {s : State} {x : View} {t : TrapReq} (hx : s.issuer = some x) (hh : x.g.inHandler = true)
    (hsp : x.sp.handling = false) (hs : x.g.sealBuf = none) (hc : t.code ≠ 0x0D) :
    s.close x (s.dev.raise s.env s.cur.key x.g x.sp t) ≠ .next s := by
  rw [Device.raise_waits hc hs hh hsp]
  intro h
  have hgroup := State.issuer_group hx
  rw [← Host.Outcome.next.inj h, State.withDev_dev, State.withDev_cur, Device.putGroup_get] at hgroup
  have hwaiting := congrArg Group.waiting (Option.some.inj hgroup)
  simp at hwaiting

/-! ### A machine with no room -/

/-- The trap of a misaligned access at address 1 by one split. -/
def strayTrap (sp : Split) : TrapReq := { code := 0x03, addr := 1, lanes := sp.e }

/-- Lanes 1 to 16, each a split of its own whose trap waits. -/
def heldSplits : List Split :=
  (List.range 16).map (fun k => { Split.start 0x10000 (2#96 <<< k) (2#96 <<< k) with trapped := true })

/-- Lanes 17 to 31, a split about to issue. -/
def straySplit : Split := Split.start 0x10000 0xFFFE0000 0xFFFE0000

/-- A group whose lane 0 handles a trap while those of 16 others wait; s0 holds the address 1. -/
def crowdedGroup : Group :=
  { Group.fresh 0 0 0 0 32 320 0x10000 32 [1] 0 0x20000 0 with
    inHandler := true
    splits := { Split.start 0x20000 1 1 with handling := true } :: heldSplits ++ [straySplit]
    waiting := heldSplits.map (fun sp => (strayTrap sp).waiting sp) }

/-- The split that issues, and its group. -/
def strayView : View := { g := crowdedGroup, sp := straySplit }

/-- The machine whose split of lanes 17 to 31 issues. -/
def crowdedState : State :=
  let s := State.reset.fetchReady 0
  { s with cur := { core := 0, slot := 0, lane := 17 }, dev := { s.dev with groups := [(0, crowdedGroup)] } }

theorem issuer_crowdedState : crowdedState.issuer = some strayView := by decide +kernel

/-- Words at s0:1, in every lane at the address 1, through v0. -/
def strayAccess : FmtM :=
  { off := 0, ms := .none, scope := .grp, ord := .plain, xi := false, sc := 0, w := .w32, sa := 0, md := 0, vx := 0, vd := 0 }

theorem active_strayView : strayView.active .none ≠ 0 := by decide

theorem crowded_strayView : strayView.crowded = true := by decide

theorem Checked.exists_trap {α : Type} {c : Checked α} {k : Nat} (h : c.trap?.map TrapReq.code = some k) :
    ∃ t, c = .trap t ∧ t.code = k := by
  cases c with
  | trap t => exact ⟨t, rfl, Option.some.inj h⟩
  | ok _ => cases h
  | stall _ => cases h

/-- A trap of a misaligned access that is raised leaves a machine other than this one. -/
theorem raise_crowdedState_ne {t : TrapReq} (hcode : t.code = 3) :
    crowdedState.close strayView (crowdedState.dev.raise crowdedState.env crowdedState.cur.key strayView.g strayView.sp t) ≠
      .next crowdedState :=
  State.close_raise_ne_self issuer_crowdedState rfl rfl rfl (by rw [hcode]; decide)

/-- Refutes O31: a misaligned LDG of a group with sixteen waiting traps raises none, but is tried again later. -/
theorem not_loadCompletes : ¬ Obligations.LoadCompletes := by
  unfold Obligations.LoadCompletes
  intro h
  have hr : strayView.g.inRange (Instr.ldg strayAccess).spans = true := by decide
  obtain ⟨L, hL⟩ : ∃ L, Spec.loadOf strayView (.ldg strayAccess) = some L := ⟨_, rfl⟩
  obtain ⟨t, ht, hcode⟩ : ∃ t, L.checks crowdedState strayView = .trap t ∧ t.code = 3 :=
    Checked.exists_trap (by cases hL; decide +kernel)
  have hraise := (h _ _ _ L issuer_crowdedState hr active_strayView hL).2 t ht
  have hstays := exec_load_trap issuer_crowdedState hr active_strayView hL ht
  rw [if_pos crowded_strayView] at hstays
  exact raise_crowdedState_ne hcode (hraise.symm.trans hstays)

/-- Refutes O33: a misaligned STG of a group with sixteen waiting traps raises none, but is tried again later. -/
theorem not_storeCompletes : ¬ Obligations.StoreCompletes := by
  unfold Obligations.StoreCompletes
  intro h
  have hr : strayView.g.inRange (Instr.stg strayAccess).spans = true := by decide
  obtain ⟨S, hS⟩ : ∃ S, Spec.storeOf strayView (.stg strayAccess) = some S := ⟨_, rfl⟩
  obtain ⟨t, ht, hcode⟩ : ∃ t, S.checks crowdedState strayView = .trap t ∧ t.code = 3 :=
    Checked.exists_trap (by cases hS; decide +kernel)
  have hraise := (h.2 _ _ t issuer_crowdedState).1 (.stg strayAccess) S hr active_strayView hS ht
  have hstays := exec_store_trap issuer_crowdedState hr active_strayView hS ht
  rw [if_pos crowded_strayView] at hstays
  exact raise_crowdedState_ne hcode (hraise.symm.trans hstays)

end Sys2Proof.Machine

/-! SUPPORT and O28. The effect of every instruction of class 5, and the mask rule of the fragment instructions. -/

namespace Sys2Proof.Machine

open Sys2Proof.Spec

/-! ### The mask rule of MMA, MMAS and MTRANS (R191) -/

section FragRule

variable {x : View} (y : View)

theorem fragRule_none (h : x.sp.e = 0) : fragRule x y = Out.view (x.next 8) := if_pos h

theorem fragRule_all (h : x.sp.e = laneMask x.g.width) (h0 : x.sp.e ≠ 0) : fragRule x y = Out.view (y.next 8) :=
  (if_neg h0).trans (if_pos h)

theorem fragRule_partMask (h0 : x.sp.e ≠ 0) (h : x.sp.e ≠ laneMask x.g.width) :
    fragRule x y = .trap { code := 0x06, lanes := x.sp.e } := (if_neg h0).trans (if_neg h)

end FragRule

/-- MMA, MMAS and MTRANS act on the issuing view as the mask rule lets their effect. -/
theorem exec_of_fragment {i : Instr} {f : View → View} (h : matrixView i = some (true, f)) (s : State) :
    exec i s = s.onView i.spans (fun x => fragRule x (f x)) := by
  cases i with
  | mma | mmas | mtrans => cases h; rfl
  | _ => cases h

/-! ### Accumulators, block dot products and reductions (R195 to R197, R199, R200) -/

/-- A vector instruction that writes one row of the counted pair in each active lane goes on with those rows; with no lane active
there are none (R128). -/
theorem State.vector_rows {s : State} {x : View} {i : Instr} {ms : Pred} {d : Nat} (hx : s.issuer = some x)
    (hr : x.g.inRange i.spans = true) (row : View → Mask → Nat → RowUpdate) :
    s.vector i 8 ms (fun x m => x.writeRows d 2 ((lanesOf m).map (row x m))) =
      .next (s.after x ((x.writeRows d 2 ((lanesOf (x.active ms)).map (row x (x.active ms)))).next 8)) :=
  State.vector_next hx hr (by rw [lanesOf_zero]; rfl)

/-- One lane of VRED over the lanes of a mask (R200). -/
def View.redLane (x : View) (f : FmtV) (m : Mask) (l : Nat) : RowUpdate :=
  let r := if f.md.getLsbD 0 then 1 else 0
  let p := (x.redTerms f m).filter (fun t => t.1.present)
  let u := accumulate (x.mode f.rm) (x.g.rowValue f.vd.toNat r l) (x.g.rowCount f.vd.toNat 2 r l) (p.map (fun t => (t.1, 0)))
    ((p.map Prod.snd).foldl (· + ·) 0)
  { row := r, lane := l, value := u.1, count := u.2.1, flags := u.2.2 }

/-- ADRAIN works out every lane before it writes one, and goes on with the drained codes, RNG states and flags. -/
theorem execAdrain_eq (f : FmtX) (s : State) : execAdrain f s = s.onView (Instr.adrain f).spans (fun x => Out.view
    ((View.raiseFlags { x with g := (lanesOf x.sp.e).foldl (fun g l =>
        (g.writeRun f.ta f.xa.toNat l (x.drainLane f l).1).setRng l (x.drainLane f l).2.2) x.g }
      (orFlags ((lanesOf x.sp.e).map (fun l => (x.drainLane f l).2.1)))).next 8)) := by
  simp only [execAdrain, List.foldl_map, List.map_map, Function.comp_def]

/-- The instructions of class 5 with no mask rule go on with their effect; one that reads a predicate has none on no lane
(R128). -/
theorem exec_of_unmasked {i : Instr} {f : View → View} {s : State} {x : View} (h : matrixView i = some (false, f))
    (hx : s.issuer = some x) (hr : x.g.inRange i.spans = true) : exec i s = .next (s.after x ((f x).next 8)) := by
  cases i with
  | aclr | amerge => cases h; exact State.onView_view hx hr rfl
  | adrain g =>
    cases h
    change execAdrain g s = _
    rw [execAdrain_eq]
    exact State.onView_view hx hr rfl
  | vdot8 g => cases h; exact (State.vector_rows hx hr (fun x _ => x.dotLane g) : execVdot8 g s = _)
  | vdot4 g => cases h; exact (State.vector_rows hx hr (fun x _ => x.dotLane g) : execVdot4 g s = _)
  | vred g => cases h; exact (State.vector_rows hx hr (fun x => x.redLane g) : execVred g s = _)
  | _ => cases h

/-- Settles O28: the mask rule decides among the effect, none and PARTMASK; without it the effect stands for any E. -/
theorem matrixCompletes : Obligations.MatrixCompletes := by
  unfold Obligations.MatrixCompletes
  intro i full f s x h hx hr
  cases full with
  | false => exact ⟨fun _ => exec_of_unmasked h hx hr, nofun, nofun⟩
  | true =>
    rw [exec_of_fragment h]
    refine ⟨fun hall => ?_, fun _ h0 => State.onView_view hx hr (fragRule_none _ h0),
      fun _ h0 hpart => State.onView_trap hx hr (fragRule_partMask _ h0 hpart)⟩
    obtain hmask | ⟨hmask, h0⟩ := hall
    · cases hmask
    · exact State.onView_view hx hr (fragRule_all _ hmask h0)

end Sys2Proof.Machine

/-! SUPPORT and O51. The events of records, swarms and commits, each with what it leaves when it is due. -/

namespace Sys2Proof.Machine

/-! ### Records (R264, R267, R272, R292) -/

section Records

variable {s : State} {d : Device} {idx : Nat}

/-- A decrement whose stamp, where it has one, is performed is done. -/
theorem execJoinDecrement_due {j : Join} (hj : s.dev.joins[idx]? = some j)
    (hstamp : ∀ t, j.stamp = some t → s.dev.reached t = true)
    (hd : Device.joinStep { s.dev with joins := s.dev.joins.eraseIdx idx } s.env j = .ok d) :
    execJoinDecrement idx s = .next (s.withDev d) := by
  simp only [execJoinDecrement, hj]
  cases ht : j.stamp with
  | none => exact State.onDev_ok (by simp [hd])
  | some t => exact State.onDev_ok (by simp [hstamp t ht, hd])

/-- A context's backing queue takes a record while it has room and the slot can be written. -/
theorem Device.toBacking_of_room {e : Env} {q : QRec} (hroom : d.backingRoom q.ctx = true)
    (hready : d.ringReady e q.ctx = true) : d.toBacking e q = .ok (some (d.pushBacking q)) := by
  simp [Device.toBacking, hroom, hready]

/-- A held record that is in no cell enters the queue that takes it. -/
theorem execDevicePushRetry_due {h : HeldPush} (hh : s.dev.heldPush[idx]? = some h) (hcell : h.cell = none)
    (hd : Device.pushOwn { s.dev with heldPush := s.dev.heldPush.eraseIdx idx } s.env h.core h.q = .ok (some d)) :
    execDevicePushRetry idx s = .next (s.withDev d) := by
  simp only [execDevicePushRetry, hh]
  exact State.onDev_ok (by simp [hd, hcell])

/-- The record of a sealed task, its page there and its swarm open, goes back to its core. -/
theorem execSealedRequeue_due {h : HeldSealed} (hh : s.dev.heldSealed[idx]? = some h) (hfreed : h.freed = true)
    (hopen : Device.swarmOpen { s.dev with heldSealed := s.dev.heldSealed.eraseIdx idx } h.q.ctx h.q.r.swarm.toNat = true) :
    execSealedRequeue idx s = .next (s.withDev
      (Device.pushDevice { s.dev with heldSealed := s.dev.heldSealed.eraseIdx idx } s.env (some h.core) h.q)) := by
  simp only [execSealedRequeue, hh]
  exact State.onDev_ok (by simp [hfreed, hopen])

end Records

/-! ### Swarms (R289, R290) -/

section Swarms

variable {s : State} {d : Device} {ctx k : Nat} {w : Swarm} (hw : s.dev.swarm ctx k = some w)

include hw

theorem execDeadlineExpiry_due (hlive : w.st = .live) (hset : s.dev.deadlineOf ctx 4097 k ≠ 0)
    (hpast : s.dev.deadlineOf ctx 4097 k ≤ s.plat.dtime.toNat) (hd : s.dev.cancelSwarm s.env ctx k 1 = .ok d) :
    execDeadlineExpiry ctx k s = .next (s.withDev d) := by
  unfold execDeadlineExpiry
  have hnow : s.dev.deadlineOf ctx 4097 k ≤ s.env.now.toNat := hpast
  exact State.onDev_ok (by simp [hw, hlive, hset, hnow, hd])

theorem execSwarmCancelComplete_due (hst : w.st = .cancelling) (hroot : w.root = k)
    (hquiet : s.dev.quiet ctx (s.dev.treeOf ctx k) = true)
    (hd : s.dev.endCancel s.env ctx k w (s.dev.treeOf ctx k) = .ok d) :
    execSwarmCancelComplete ctx k s = .next (s.withDev d) := by
  unfold execSwarmCancelComplete
  exact State.onDev_ok (by simp [hw, hst, hroot, hquiet, hd])

omit hw in
/-- An empty chain gives no cell back. -/
theorem Device.freeChain_zero (d : Device) (e : Env) (ctx fuel : Nat) : d.freeChain e ctx fuel 0 = .ok d := by
  cases fuel <;> rfl

/-- A CLOSED or CANCELLED swarm with no member, no child and no watch cell leaves its context's swarms. -/
theorem execSwarmFree_due (hst : w.st = .closed ∨ w.st = .cancelled) (hmembers : s.dev.members ctx k = 0)
    (hchild : s.dev.hasChild ctx k = false) (hwatch : w.watch = 0) : execSwarmFree ctx k s =
      .next (s.withDev (s.dev.updCtx ctx (fun c => { c with swarms := c.swarms.erase k }))) := by
  unfold execSwarmFree
  exact State.onDev_ok (by simp [hw, hst, hmembers, hchild, hwatch, Device.freeChain_zero])

end Swarms

/-! ### Commits (R222, R258) -/

theorem execSealCommitDone_due {s : State} {d : Device} {core slot : Nat} {g : Group} {b : SealBuf}
    (hg : s.dev.groups.get (slotKey core slot) = some g) (hphase : g.phase = .committing) (hb : g.sealBuf = some b)
    (hd : s.dev.commitGroup s.env (slotKey core slot) g b = .ok d) :
    execSealCommitDone core slot s = .next (s.withDev d) := by
  unfold execSealCommitDone
  exact State.onDev_ok (by simp [hg, hphase, hb, hd])

/-- Settles O51: each event, when due, leaves what its definition gives. -/
theorem swarmEventsComplete : Obligations.SwarmEventsComplete := by
  unfold Obligations.SwarmEventsComplete
  intro s d
  refine ⟨?_, ?_, ?_, ?_, ?_, ?_, ?_⟩
  · exact fun _ _ hj hstamp hd => execJoinDecrement_due hj hstamp hd
  · intro idx h hh hcell d0
    refine ⟨fun c hc hd => ?_, fun hc hroom hready => ?_⟩
    · exact execDevicePushRetry_due hh hcell (by rw [hc]; exact hd)
    · exact execDevicePushRetry_due hh hcell (by rw [hc]; exact Device.toBacking_of_room hroom hready)
  · exact fun _ _ _ hw hlive hset hpast hd => execDeadlineExpiry_due hw hlive hset hpast hd
  · exact fun _ _ _ hw hst hroot hquiet hd => execSwarmCancelComplete_due hw hst hroot hquiet hd
  · exact fun _ _ _ hw hst hmembers hchild hwatch => execSwarmFree_due hw hst hmembers hchild hwatch
  · exact fun _ _ hh hfreed hopen => execSealedRequeue_due hh hfreed hopen
  · exact fun _ _ _ _ hg hphase hb hd => execSealCommitDone_due hg hphase hb hd

end Sys2Proof.Machine

/-! SUPPORT and O55. Admission, pre-emption and resumption: what each event leaves where the candidate it serves comes first. -/

namespace Sys2Proof.Machine

@[simp] theorem State.env_plat (s : State) : s.env.plat = s.plat := rfl

/-! ### Admission (R205, R209) -/

/-- A place is a core and a slot of it. -/
theorem coreOf_place {core : Nat} (slot : Nat) (h : core < 64) : coreOf (core + 64 * slot) = (core, slot) := by
  ext <;> simp only [coreOf] <;> omega

section Admit

variable {s : State} {d : Device} {core slot : Nat} (hcore : core < 64) (hready : clusterReady s.plat core = true)

include hcore hready

section Team

variable {id idx : Nat} {l : Launch} {again : Nat} (hoff : s.dev.offered s.plat core = some (id, l, idx, again))
  (hfirst : s.dev.savedFirst s.env core l.prio = false)

include hoff hfirst

/-- The team that is offered is placed when no record comes before it: none is found, its priority is lower, or it stays in its
queue for a cause that is no news. -/
theorem execTeamAdmit_team (hrecord : ∀ at_ r, s.dev.recordFor s.plat core = some (at_, r) → r.r.prio.toNat < l.prio ∨
      (s.dev.popTask s.env slot core at_ r = none ∧ s.dev.balk s.env core at_ r = none)) :
    execTeamAdmit (core + 64 * slot) s = .next (s.withDev (s.dev.placeTeam s.env slot core id l idx again)) := by
  unfold execTeamAdmit
  rw [coreOf_place slot hcore]
  refine State.onDev_ok ?_
  cases hr : s.dev.recordFor s.plat core with
  | none => simp [hready, hoff, hfirst, hr]
  | some p =>
    rcases hrecord p.1 p.2 hr with hlt | ⟨hpop, hbalk⟩
    · simp [hready, hoff, hfirst, hr, hlt]
    · simp [hready, hoff, hfirst, hr, hpop, hbalk]

/-- The team that is offered is placed when the record before it is found not to fit, which the core keeps in mind. -/
theorem execTeamAdmit_balked {at_ : RecordAt} {r : QRec} (hr : s.dev.recordFor s.plat core = some (at_, r))
    (hle : l.prio ≤ r.r.prio.toNat) (hpop : s.dev.popTask s.env slot core at_ r = none)
    (hbalk : s.dev.balk s.env core at_ r = some d) :
    execTeamAdmit (core + 64 * slot) s = .next (s.withDev (d.placeTeam s.env slot core id l idx again)) := by
  unfold execTeamAdmit
  rw [coreOf_place slot hcore]
  refine State.onDev_ok ?_
  simp [hready, hoff, hfirst, hr, hle.not_gt, hpop, hbalk]

end Team

/-- The record is popped when no team of a higher priority is offered. -/
theorem execTeamAdmit_record {at_ : RecordAt} {r : QRec} (hr : s.dev.recordFor s.plat core = some (at_, r))
    (hle : ∀ p, s.dev.offered s.plat core = some p → s.dev.savedFirst s.env core p.2.1.prio = false →
      p.2.1.prio ≤ r.r.prio.toNat)
    (hpop : s.dev.popTask s.env slot core at_ r = some (.ok d)) :
    execTeamAdmit (core + 64 * slot) s = .next (s.withDev d) := by
  have hteam : ((s.dev.offered s.plat core).bind (fun p =>
      if s.dev.savedFirst s.env core p.2.1.prio then none else some p)).any (fun p => decide (r.r.prio.toNat < p.2.1.prio)) =
        false := by
    cases hoff : s.dev.offered s.plat core with
    | none => rfl
    | some p =>
      cases hfirst : s.dev.savedFirst s.env core p.2.1.prio with
      | true => simp [hfirst]
      | false => simpa [hfirst] using hle p hoff hfirst
  unfold execTeamAdmit
  rw [coreOf_place slot hcore]
  refine State.onDev_ok ?_
  simp [hready, hr, hteam, hpop]

end Admit

/-- A team with no group and no copy in its scratchpad gives back its place. -/
theorem execTeamFree_due {s : State} {team : Nat} {t : Team} (ht : s.dev.teams.get team = some t)
    (hdone : s.dev.teamDone team = true) :
    execTeamFree team s = .next (s.withDev { s.dev with teams := s.dev.teams.erase team }) := by
  simp [execTeamFree, State.whenDue, ht, hdone]

/-! ### Pre-emption (R401, R402, R405) -/

/-- A team is the victim, for a candidate whose priority is far enough above its own (R401), and may be saved: no commit of it is
under way, no instruction of it has acted in part, and its context has a free image and room for its groups (R402, R405). -/
structure Victim (s : State) (team m : Nat) (t : Team) (c : Ctx) (cand : Cand) (prio : Nat) : Prop where
  there : s.dev.teams.get team = some t
  waits : topCand (s.dev.waiting s.env) = some (cand, prio)
  least : s.dev.victim s.dev.liveTeams = some team
  noneServed : s.dev.roomFor = none
  above : s.dev.teamPrio team + 8 ≤ prio
  atBoundary : ∀ g ∈ s.dev.teamGroups team, g.2.phase ≠ .committing ∧ ∀ sp ∈ g.2.splits, sp.inside = false
  owned : s.dev.ctxs.get t.ctx = some c
  free : c.freeImage = some m
  room : c.savedGroups + (s.dev.teamGroups team).length ≤ 1024

/-- What pre-empting a victim leaves: a sealed one aborts, where the save area could be written, and an open one is saved. -/
def Device.vacate (d : Device) (e : Env) (team m : Nat) (t : Team) (c : Ctx) : Option (Except Miss Device) :=
  match (d.teamGroups team).find? (fun p => p.2.sealBuf.isSome) with
  | some p => if (d.saveTeam e team m t c).isNone then none else some (d.saveSealed e team p.1 p.2)
  | none => (d.saveTeam e team m t c).map .ok

theorem Device.vacate_open {d d1 : Device} {e : Env} {team m : Nat} {t : Team} {c : Ctx}
    (hopen : ∀ g ∈ d.teamGroups team, g.2.sealBuf = none) (hsave : d.saveTeam e team m t c = some d1) :
    d.vacate e team m t c = some (.ok d1) := by
  have hfind : (d.teamGroups team).find? (fun p => p.2.sealBuf.isSome) = none :=
    List.find?_eq_none.mpr fun g hg => by simp [hopen g hg]
  simp [Device.vacate, hfind, hsave]

theorem Device.vacate_sealed {d d1 : Device} {e : Env} {team m key : Nat} {t : Team} {c : Ctx} {g : Group}
    {gs : List (Nat × Group)} (hgroups : d.teamGroups team = (key, g) :: gs) (hsealed : g.sealBuf.isSome = true)
    (hsave : (d.saveTeam e team m t c).isSome = true) (habort : d.saveSealed e team key g = .ok d1) :
    d.vacate e team m t c = some (.ok d1) := by
  have hnone : (d.saveTeam e team m t c).isNone = false := by simpa using hsave
  simp only [Device.vacate, hgroups, List.find?_cons, hsealed, hnone, habort, if_false, Bool.false_eq_true]

/-- PREEMPT makes room for the candidate: its victim leaves. -/
theorem execPreempt_due {s : State} {d : Device} {team m : Nat} {t : Team} {c : Ctx} {cand : Cand} {prio : Nat}
    (hv : Victim s team m t c cand prio) (hd : s.dev.vacate s.env team m t c = some (.ok d)) :
    execPreempt team s = .next (s.withDev { d with roomFor := some cand }) := by
  obtain ⟨ht, hcand, hleast, hnone, habove, hbound, hc, hm, hroom⟩ := hv
  have hmoves : (s.dev.teamGroups team).any (fun p => p.2.phase = .committing || p.2.splits.any Split.inside) = false := by
    simpa [not_or] using hbound
  unfold execPreempt
  refine State.onDev_ok ?_
  cases hfind : (s.dev.teamGroups team).find? (fun p => p.2.sealBuf.isSome) with
  | none =>
    have hsave : s.dev.saveTeam s.env team m t c = some d := by simpa [Device.vacate, hfind] using hd
    simp [ht, hcand, hleast, hnone, habove, hmoves, hc, hm, hroom, hfind, hsave]
  | some p =>
    obtain ⟨hsave, habort⟩ : ¬ s.dev.saveTeam s.env team m t c = none ∧ s.dev.saveSealed s.env team p.1 p.2 = .ok d := by
      simpa [Device.vacate, hfind] using hd
    simp [ht, hcand, hleast, hnone, habove, hmoves, hc, hm, hroom, hfind, hsave, habort, Except.map]

/-! ### Resumption (R403) -/

/-- A saved team comes back on the core where R403 puts it, no team or record of a higher priority coming first there. -/
theorem execTeamResume_due {s : State} {d : Device} {ctx m core slot : Nat} {c : Ctx} {saved i : Image}
    {places : List Nat × Nat × Nat} (hm : m < 256) (hcore : core < 64) (hc : s.dev.ctxs.get ctx = some c)
    (hsaved : c.images.get m = some saved) (hi : s.dev.imageNow s.env ctx m c saved = i)
    (hhere : s.dev.resumeCore s.plat ctx i = some core) (hprio : s.dev.savedPrio s.env core = some i.prio)
    (hteam : ∀ p, s.dev.offered s.plat core = some p → p.2.1.prio ≤ i.prio)
    (hrecord : ∀ at_ r, s.dev.recordFor s.plat core = some (at_, r) →
      r.r.prio.toNat ≤ i.prio ∨ s.dev.popTask s.env slot core at_ r = none)
    (hfit : s.dev.fit slot core i.demand = some places) (hd : s.dev.resumeTeam s.env ctx m core c i places = .ok d) :
    execTeamResume (256 * ctx + m) (core + 64 * slot) s = .next (s.withDev d) := by
  have hctx : (256 * ctx + m) / 256 = ctx := by omega
  have himage : (256 * ctx + m) % 256 = m := by omega
  unfold execTeamResume
  rw [coreOf_place slot hcore, hctx, himage]
  refine State.onDev_ok ?_
  simp only [hc, hsaved, hi, hhere, hprio, hfit, hd, State.env_plat, Option.bind_some, Option.map_some, Option.getD_some, ne_eq,
    not_true_eq_false, decide_false, Bool.false_or, Bool.or_false, Bool.or_eq_true, ite_eq_right_iff, reduceCtorEq, imp_false,
    not_or, Bool.not_eq_true]
  refine ⟨?_, ?_⟩
  · split
    next p hoff => exact decide_eq_false (hteam p hoff).not_gt
    next => rfl
  · split
    next at_ r hr =>
      rcases hrecord at_ r hr with hle | hpop
      · simp [hle]
      · simp [hpop]
    next => rfl

/-- Settles O55: the candidate that each event serves comes first, and the event leaves what its definition gives. -/
theorem placementCompletes : Obligations.PlacementCompletes := by
  unfold Obligations.PlacementCompletes
  intro s d
  refine ⟨fun core slot id l idx again hcore hready hoff hfirst => ⟨?_, ?_⟩, ?_, ?_, ?_, ?_, ?_⟩
  · exact execTeamAdmit_team hcore hready hoff hfirst
  · exact fun _ _ hr hle hpop hbalk => execTeamAdmit_balked hcore hready hoff hfirst hr hle hpop hbalk
  · exact fun _ _ _ _ hcore hready hr hle hpop => execTeamAdmit_record hcore hready hr hle hpop
  · exact fun _ _ ht hdone => execTeamFree_due ht hdone
  · intro team t cand prio c m ht hcand hleast hnone habove hgroups hc hm hroom hsave
    exact execPreempt_due ⟨ht, hcand, hleast, hnone, habove, fun g hg => ⟨(hgroups g hg).1, (hgroups g hg).2.2⟩, hc, hm, hroom⟩
      (Device.vacate_open (fun g hg => (hgroups g hg).2.1) hsave)
  · intro team t cand prio c m key g gs ht hcand hleast hnone habove hgs hsealed hgroups hc hm hroom hsave habort
    exact execPreempt_due ⟨ht, hcand, hleast, hnone, habove, hgroups, hc, hm, hroom⟩
      (Device.vacate_sealed hgs hsealed hsave habort)
  · exact fun _ _ _ _ _ _ _ _ hm hcore hc hsaved hi hhere hprio hteam hrecord hfit hd =>
      execTeamResume_due hm hcore hc hsaved hi hhere hprio hteam hrecord hfit hd

end Sys2Proof.Machine

/-! SUPPORT and O5. With nothing due, a step moves time and only then chooses: what the device does of itself with the step may
end a wait, so that the choice is another than the one of the state before the step, of which O5 speaks. -/

namespace Sys2Proof.Machine

/-- With nothing due, the step issues the split that is chosen once time has moved. -/
theorem step_of_choice {s : State} {r : SplitRef} (ha : s.agenda = []) (hc : (s.begin []).choose = some r) :
    step s = (s.begin []).issueAt r := by
  simp only [step, State.turn, ha, hc]

/-- A split of 32 lanes whose instruction of two words, at 0x10000, waits for drain stamps that are all performed (R255). -/
def drainedSplit : Split :=
  { Split.start 0x10000 (laneMask 32) (laneMask 32) with park := .drain { stamps := [], acquire := false, s := [], v := [] } }

/-- The machine with that split alone, NOP behind its instruction, and nothing due. -/
def drainedState : State :=
  let s := State.reset.fetchReady (0x0FFFFC00 <<< 64)
  { s with
    agenda := []
    dev := { s.dev with groups := s.dev.groups.upd 0 (fun g => { g with splits := [drainedSplit] }) } }

/-- A state goes on in which some group has issued: a group that has not names no lane. -/
def leavesIssued (o : Host.Outcome State Fault Refusal) : Bool :=
  match o with
  | .next t => t.dev.groups.any (fun p => decide (p.2.lastIssued < 96))
  | _ => false

/-- Before the step the split still waits. -/
theorem choose_drainedState : drainedState.choose = none := by decide +kernel

/-- The device ends the wait as the step begins (R272), and the split may issue. -/
theorem choose_begin_drainedState : (drainedState.begin []).choose = some { core := 0, slot := 0, lane := 0 } := by
  decide +kernel

theorem leavesIssued_issueAt : leavesIssued ((drainedState.begin []).issueAt { core := 0, slot := 0, lane := 0 }) = true := by
  decide +kernel

theorem leavesIssued_begin : leavesIssued (.next (drainedState.begin [])) = false := by decide +kernel

/-- Refutes O5: no split can be chosen in a state whose one split waits for stamps that are performed, but its step ends that
wait and issues the split, where O5 has it move time alone. -/
theorem not_stepFollowsAgenda : ¬ Obligations.StepFollowsAgenda := by
  unfold Obligations.StepFollowsAgenda
  rintro ⟨-, hidle⟩
  have htime : step drainedState = .next (drainedState.begin []) := (hidle drainedState rfl).2 choose_drainedState
  have hissue : step drainedState = (drainedState.begin []).issueAt { core := 0, slot := 0, lane := 0 } :=
    step_of_choice rfl choose_begin_drainedState
  have hsame : (drainedState.begin []).issueAt { core := 0, slot := 0, lane := 0 } = .next (drainedState.begin []) :=
    hissue.symm.trans htime
  have hboth := leavesIssued_issueAt
  rw [hsame, leavesIssued_begin] at hboth
  exact Bool.false_ne_true hboth

end Sys2Proof.Machine

/-! SUPPORT and O39. The instructions that write futures: one access each, whose lanes' operations come to one triple. -/

namespace Sys2Proof.Machine

open Sys2Proof.Spec

/-- Checks that every lane passes name no fault. -/
theorem worstTrap_faultsOf_of_ok {α : Type} {l : List (Nat × Except Miss α)} {r : List (Nat × α)} (h : sumChecks l = .ok r) :
    worstTrap (faultsOf l) = none := by
  rw [← trap?_sumChecks, h]
  rfl

section FutureWrites

variable {f : FmtT} {s : State} {x : View} {l : List (Nat × Run)} {d : Device} (hx : s.issuer = some x)
  (hopen : x.g.sealBuf = none) (ha : x.active f.ms ≠ 0)

include hx hopen ha

theorem execFnew_next {bs : List (Nat × Bool)} (hl : futChecks s.dev s x f = .ok l)
    (hr : x.g.inRange (Instr.fnew f).spans = true)
    (hd : eachLane (fun d p => laneOf (d.futNew s.env s.cur x.g f p.2)) (futOrder s x f) (futTouched s.dev s x l)
      = .ok (d, bs, [])) :
    execFnew f s = .next (s.afterOn d x ((x.status f (x.active f.ms) (trueLanes bs)).next 8)) := by
  unfold execFnew
  refine State.access_view hx hr ha ?_
  simp only [hopen, Option.isSome_none, Bool.false_eq_true, if_false]
  exact futLanes_ok hl hd

/-- FRES releases first, and so checks its futures on the device that the release leaves (R251, R281). -/
theorem execFres_next {bs : List (Nat × Nat × Nat)} (hl : futChecks (s.dev.order s.cur.core .rel .dev) s x f = .ok l)
    (hr : x.g.inRange (Instr.fres f).spans = true)
    (hd : eachLane (fun d p => laneOf (d.resolve s.env (Agent.core s.cur.core) x.g p.2 (x.g.vpair f.vb.toNat p.1)))
      (futOrder s x f) (futTouched (s.dev.order s.cur.core .rel .dev) s x l) = .ok (d, bs, []))
    (hdup : ∀ p ∈ bs, p.2.1 ≠ 1) : execFres f s = .next (s.afterOn d x
      ((x.status f (x.active f.ms) (trueLanes (bs.map (fun p => (p.1, p.2.1 = 0))))).next 8)) := by
  have hnone : bs.filter (fun p => p.2.1 = 1) = [] := by simpa [List.filter_eq_nil_iff] using hdup
  unfold execFres
  refine State.access_view hx hr ha ?_
  simp only [hopen]
  refine (futLanes_ok (s := s.withDev (s.dev.order s.cur.core .rel .dev)) hl hd).trans ?_
  simp only [hnone, List.map_nil, worstTrap]

theorem execFcan_next {bs : List (Nat × Bool)} (hl : futChecks s.dev s x f = .ok l)
    (hr : x.g.inRange (Instr.fcan f).spans = true)
    (hd : eachLane (fun d p => laneOf (d.futCancel s.env (Agent.core s.cur.core) x.g.ctx p.2)) (futOrder s x f)
      (futTouched s.dev s x l) = .ok (d, bs, [])) :
    execFcan f s = .next (s.afterOn d x ((x.status f (x.active f.ms) (trueLanes bs)).next 8)) := by
  unfold execFcan
  refine State.access_view hx hr ha ?_
  simp only [hopen, Option.isSome_none, Bool.false_eq_true, if_false]
  exact futLanes_ok hl hd

/-- FREG's lanes name cells of pool 0, so that they meet no check but those of their futures (R283). -/
theorem execFreg_next {bs : List (Nat × Bool)} (hl : futChecks s.dev s x f = .ok l)
    (hr : x.g.inRange (Instr.freg f).spans = true) (hpool : (s.dev.pool x.g.ctx 0).defd = true)
    (hidx : ∀ k ∈ lanesOf (x.active f.ms), 1 ≤ (x.v f.vb.toNat k).toNat ∧
      (x.v f.vb.toNat k).toNat < (s.dev.pool x.g.ctx 0).count)
    (hd : eachLane (fun d p => laneOf (d.register s.env x.g.ctx (Agent.core s.cur.core) p.2 (x.v f.vb.toNat p.1).toNat))
      (futOrder s x f) (futTouched s.dev s x l) = .ok (d, bs, [])) :
    execFreg f s = .next (s.afterOn d x ((x.writeT (x.active f.ms) f.sd.toNat (trueLanes bs)).next 8)) := by
  have hnone := worstTrap_faultsOf_of_ok hl
  rw [futReqs, List.map_map] at hnone
  unfold execFreg
  refine State.access_view hx hr ha ?_
  simp only [hopen, Option.isSome_none, Bool.false_eq_true, if_false]
  split
  next t ht =>
    rw [List.map_congr_left (fun k hk => ?_), hnone] at ht
    · cases ht
    · obtain ⟨hlow, hhigh⟩ := hidx k hk
      simp only [hpool, hlow, hhigh, decide_true, Bool.and_self, if_true, Function.comp_apply]
      cases s.dev.futRun s.env s.cur.core x.g.ctx (x.g.vpair f.va.toNat k) <;> rfl
  next => exact futLanes_ok hl hd

end FutureWrites

/-- Settles O39: each instruction's lanes pass their checks, so that it ends with its lanes' answers. -/
theorem futureWritesComplete : Obligations.FutureWritesComplete := by
  unfold Obligations.FutureWritesComplete
  intro f s x l d hx hopen ha
  refine ⟨?_, ?_, ?_, ?_⟩
  · exact fun bs hl hr hd => execFnew_next hx hopen ha hl hr hd
  · exact fun bs hl hr hd hdup => execFres_next hx hopen ha hl hr hd hdup
  · exact fun bs hl hr hd => execFcan_next hx hopen ha hl hr hd
  · exact fun bs hl hr hpool hidx hd => execFreg_next hx hopen ha hl hr hpool hidx hd

end Sys2Proof.Machine

/-! SUPPORT and O41. SPAWN's lanes once their records are placed, and the wait in which every JREC ends. -/

namespace Sys2Proof.Machine

/-! ### Instructions that end in a wait for stamps (R255, R272) -/

section DrainAccess

variable {s : State} {x : View} {i : Instr} {ms : Pred} {d : Device} {w : DrainWait}
  {f : Env → SplitRef → Device → View → Mask → Res} (hx : s.issuer = some x) (hr : x.g.inRange i.spans = true)
  (ha : x.active ms ≠ 0) (hf : f s.env s.cur s.dev x (x.active ms) = drainThen s.cur d x w)

include hx hr ha hf

/-- With every stamp performed the instruction writes and goes on. -/
theorem State.access_drainThen_nil (h : d.unreached w.stamps = []) : s.access i 8 ms f =
    .next (s.afterOn (if w.acquire then d.order s.cur.core .acq .dev else d) x (w.written x)) :=
  State.access_view hx hr ha (hf.trans (drainThen_nil h))

/-- With a stamp that is not performed it parks. -/
theorem State.access_drainThen_ne_nil {g : Group} (h : d.unreached w.stamps ≠ []) (hg : d.groups.get s.cur.key = some g) :
    s.access i 8 ms f = .next (s.withDev (d.putGroup s.cur.key
      (g.put x.sp.low [{ x.sp with park := .drain { w with stamps := d.unreached w.stamps } }]))) :=
  State.access_done hx hr ha (hf.trans (drainThen_ne_nil h)) hg

end DrainAccess

theorem Device.unreached_singleton (d : Device) (t : Stamp) : d.unreached [t] = if d.reached t then [] else [t] := by
  cases h : d.reached t <;> simp [Device.unreached, h]

/-! ### JREC (R271, R272) -/

/-- What a JREC holds until its group's writes are performed: what it is to write in SD. -/
def jrecWait (x : View) (f : FmtT) (v : W32) : DrainWait :=
  { stamps := [{ guid := x.g.guid, count := x.g.writes }], acquire := false, s := [(f.sd.toNat, v)], v := [] }

/-- How JREC ends: its record pushed with JOIN 0, parked in a cell, or left with pool 0 exhausted (R271). -/
def JrecEnds (e : Env) (r : SplitRef) (d : Device) (x : View) (q : RecRead) (d1 : Device) (v : W32) : Prop :=
  (q.task.join = 0 ∧ v = 0 ∧
    d.place e r.core x.g.ctx { q.task with stamp := x.g.writes, stampOf := x.g.guid } = .ok (d1, true)) ∨
  (∃ c, q.task.join ≠ 0 ∧ v = BitVec.ofNat 32 c ∧ d.parkRecord e r.core x.g.ctx q = .ok (d1, some c)) ∨
  (∃ d2, q.task.join ≠ 0 ∧ d1 = d ∧ v = 0xFFFFFFFF ∧ d.parkRecord e r.core x.g.ctx q = .ok (d2, none))

theorem jrecOpen_eq_drainThen {e : Env} {r : SplitRef} {d d1 : Device} {x : View} {f : FmtT} {q : RecRead} {v : W32}
    (h : JrecEnds e r d x q d1 v) : jrecOpen e r d x f q = drainThen r d1 x (jrecWait x f v) := by
  unfold jrecOpen
  rcases h with ⟨hj, rfl, hp⟩ | ⟨c, hj, rfl, hp⟩ | ⟨d2, hj, rfl, rfl, hp⟩
  · refine (if_pos hj).trans ?_
    dsimp only at hp ⊢
    rw [hp]
    rfl
  · simp only [hj, if_false, hp, jrecWait]
  · simp only [hj, if_false, hp, jrecWait]

/-- JREC is one access that ends in a wait for the writes of its group. -/
theorem execJrec_eq_access {f : FmtT} {s : State} {x : View} {q : RecRead} {d1 : Device} {v : W32} (hopen : x.g.sealBuf = none)
    (hq : s.dev.readRecord s.env s.cur.core x.g (f.opt = 1) (x.pair f.sa.toNat) = .ok q)
    (h : JrecEnds s.env s.cur ((s.dev.descTouch s.cur.core x.g.ctx q.run).order s.cur.core .rel .dev) x q d1 v) :
    ∃ F, execJrec f s = s.access (.jrec f) 8 f.ms F ∧
      F s.env s.cur s.dev x (x.active f.ms) = drainThen s.cur d1 x (jrecWait x f v) := by
  refine ⟨_, rfl, ?_⟩
  simp only [hopen, Option.isSome_none, Bool.false_eq_true, if_false, hq]
  exact jrecOpen_eq_drainThen h

/-! ### SPAWN (R270) -/

/-- The records that SPAWN's lanes push: as they were read, with the stamp of the group's writes. -/
def spawnRecs (x : View) (l : List (Nat × RecRead)) : List (Nat × TaskRec) :=
  l.map (fun p => (p.1, { p.2.task with stamp := x.g.writes, stampOf := x.g.guid }))

section Spawn

variable {f : FmtT} {s : State} {x : View} {l : List (Nat × RecRead)} {d : Device} {done : List (Nat × Bool)}
  (hx : s.issuer = some x) (hopen : x.g.sealBuf = none) (ha : x.active f.ms ≠ 0)
  (hr : x.g.inRange (Instr.spawn f).spans = true)
  (hl : sumChecks ((lanesOf (x.active f.ms)).map (fun k =>
    (k, s.dev.readRecord s.env s.cur.core x.g (f.opt = 1) (x.g.vpair f.va.toNat k)))) = .ok l)
  (hd : eachLane (fun d (t : TaskRec) => laneOf (d.place s.env s.cur.core x.g.ctx t)) (anyOrder s.tick (spawnRecs x l))
    ((l.foldl (fun d p => d.descTouch s.cur.core x.g.ctx p.2.run) s.dev).order s.cur.core .rel .dev) = .ok (d, done, []))

include hx hopen ha hr hl hd

/-- SPAWN whose lanes' records are read and pushed with no fault goes on with its triple, or with every lane placed. -/
theorem execSpawn_next {y : View} (hend : (f.t = true ∧ y = x.writeT (x.active f.ms) f.sd.toNat (trueLanes done)) ∨
      (f.t = false ∧ y = x ∧ ∀ p ∈ spawnRecs x l, (trueLanes done).getLsbD p.1 = true)) :
    execSpawn f s = .next (s.afterOn d x (y.next 8)) := by
  unfold execSpawn
  refine State.access_view hx hr ha ?_
  simp only [hopen, Option.isSome_none, Bool.false_and, Bool.false_eq_true, if_false, hl, Checked.run_ok, spawnOpen]
  unfold spawnRecs at hd
  simp only [State.env_tick, hd, worstTrap]
  rcases hend with ⟨ht, hy⟩ | ⟨ht, hy, hall⟩ <;> rw [hy]
  · exact if_pos ht
  · have hleft : (spawnRecs x l).filter (fun p => !(trueLanes done).getLsbD p.1) = [] := by
      simpa [List.filter_eq_nil_iff] using hall
    exact (if_neg (by simp [ht])).trans (if_pos hleft)

end Spawn

/-- Settles O41: SPAWN's lanes leave none to be placed, or their triple; JREC comes to one wait for its group's writes. -/
theorem spawnsComplete : Obligations.SpawnsComplete := by
  unfold Obligations.SpawnsComplete
  intro f s x hx hopen ha
  refine ⟨?_, ?_⟩
  · intro l d done hr hl recs hd placed
    exact ⟨fun ht => execSpawn_next hx hopen ha hr hl hd (.inl ⟨ht, rfl⟩),
      fun ht hall => execSpawn_next hx hopen ha hr hl hd (.inr ⟨ht, rfl, hall⟩)⟩
  · intro q d c hr hq own d0 d1 v hends
    have hends : JrecEnds s.env s.cur d0 x q d1 v := by
      rcases hends with ⟨hj, rfl, hv, hp⟩ | ⟨hj, rfl, hv, hp⟩ | ⟨hj, hd1, hv, hp⟩
      · exact .inl ⟨hj, hv, hp⟩
      · exact .inr (.inl ⟨c, hj, hv, hp⟩)
      · exact .inr (.inr ⟨d, hj, hd1, hv, hp⟩)
    obtain ⟨F, hexec, hF⟩ := execJrec_eq_access hopen hq hends
    have hown := d1.unreached_singleton own
    intro y
    refine ⟨fun hreached => ?_, fun g hlate hg => ⟨jrecWait x f v, rfl, ?_, rfl, rfl⟩⟩
    · rw [if_pos hreached] at hown
      exact hexec.trans (State.access_drainThen_nil hx hr ha hF hown)
    · rw [if_neg (by simp [hlate])] at hown
      refine hexec.trans ((State.access_drainThen_ne_nil hx hr ha hF (by simp [jrecWait, own, hown]) hg).trans ?_)
      simp only [jrecWait, own, hown]

end Sys2Proof.Machine

/-! SUPPORT and O42. SWNEW and the instructions on a swarm that a register names. -/

namespace Sys2Proof.Machine

/-! ### Instructions on a swarm (R289) -/

section SwarmOps

variable {f : FmtT} {s : State} {x : View} {i : Instr} {acts : Swarm → Bool}
  {effect : Env → Device → View → Nat → Swarm → Except Miss Device} (hx : s.issuer = some x)
  (hopen : x.g.sealBuf = none) (ha : x.active f.ms ≠ 0) (hi : i.spans = [])

include hx hopen ha hi

/-- On no swarm, or one in a state on which it does not act, SD is 1. -/
theorem State.swarmOp_idle (h : (s.dev.namedSwarm x.g.ctx (x.s f.sa.toNat)).all (fun p => !acts p.2) = true) :
    s.swarmOp i f acts effect = .next (s.afterOn s.dev x ((x.setS f.sd.toNat 1).next 8)) := by
  unfold State.swarmOp
  refine State.access_view hx (by simp [hi, Group.inRange]) ha ?_
  simp only [hopen, Option.isSome_none, Bool.false_eq_true, if_false]
  cases hn : s.dev.namedSwarm x.g.ctx (x.s f.sa.toNat) with
  | none => rfl
  | some p =>
    have hidle : ¬acts p.2 = true := by simpa [hn] using h
    exact if_neg hidle

/-- On a swarm in a state on which it acts, SD is 0 and its effect is done. -/
theorem State.swarmOp_acts {k : Nat} {sw : Swarm} {d : Device} {g : Group}
    (hn : s.dev.namedSwarm x.g.ctx (x.s f.sa.toNat) = some (k, sw)) (hacts : acts sw = true)
    (hd : effect s.env (s.dev.commit s.cur.key ((x.setS f.sd.toNat 0).next 8)) x k sw = .ok d)
    (hg : d.groups.get s.cur.key = some g) : s.swarmOp i f acts effect = .next (s.withDev (d.putGroup s.cur.key
      (g.put x.sp.low [((x.setS f.sd.toNat 0).next 8).sp]))) := by
  unfold State.swarmOp
  refine State.access_done hx (by simp [hi, Group.inRange]) ha ?_ hg
  simp only [hopen, Option.isSome_none, Bool.false_eq_true, if_false, hn, hacts, if_true, hd]

end SwarmOps

/-- SWDL, SWCAN and SWEND are one operation each on the swarm that a register names, in the states on which they act (R289). -/
theorem exec_eq_swarmOp {f : FmtT} {i : Instr} {acts : Swarm → Bool} (s : State)
    (h : (i = .swdl f ∧ acts = fun w => decide (w.st = .live)) ∨
      (i = .swcan f ∧ acts = fun w => decide (w.st = .live ∨ w.st = .closed)) ∨
      (i = .swendClose f ∧ acts = fun w => decide (w.st = .live)) ∨
      (i = .swendRun f ∧ acts = fun w => decide (w.st = .live))) : ∃ effect, exec i s = s.swarmOp i f acts effect := by
  rcases h with ⟨rfl, rfl⟩ | ⟨rfl, rfl⟩ | ⟨rfl, rfl⟩ | ⟨rfl, rfl⟩
  · exact ⟨_, show execSwdl f s = _ by rw [execSwdl]⟩
  · exact ⟨_, show execSwcan f s = _ by simp only [execSwcan, Bool.decide_or]; rfl⟩
  · exact ⟨_, show execSwendClose f s = _ by rw [execSwendClose]⟩
  · exact ⟨_, show execSwendRun f s = _ by rw [execSwendRun]⟩

/-! ### SWNEW (R287) -/

/-- A swarm enters under a free identifier, which SD takes. -/
theorem swarmEnter_some {r : SplitRef} {d : Device} {x : View} {f : FmtT} {sw : Swarm} {k : Nat}
    (hk : (d.ctxs.get x.g.ctx).bind Ctx.nextSwarm = some k) : swarmEnter r d x f sw =
      Res.view (d.updCtx x.g.ctx (fun c => { c with swarms := c.swarms.set k sw, lastSwarm := k })) r.key
        ((x.setS f.sd.toNat (BitVec.ofNat 32 k)).next 8) := by
  simp only [swarmEnter, hk]

/-- The swarm that a descriptor's bytes give (R287). -/
def descSwarm (bytes : List Byte) : Swarm :=
  Swarm.ofDesc ((bytesToWords bytes).getD 1 0) ((bytesToWords bytes).getD 2 0)

section Swnew

variable {f : FmtT} {s : State} {x : View} {l : Run} {bytes : List Byte} {k : Nat} (hx : s.issuer = some x)
  (hopen : x.g.sealBuf = none) (ha : x.active f.ms ≠ 0) (hr : x.g.inRange (Instr.swnew f).spans = true)
  (hl : s.dev.descRun s.env s.cur.core x.g 32 32 (x.pair f.sa.toNat) = .ok (l, bytes))

include hx hopen ha hr hl

theorem execSwnew_refused (hok : s.dev.swarmOk x.g.ctx (descSwarm bytes) = false) : execSwnew f s =
    .next (s.afterOn (s.dev.descTouch s.cur.core x.g.ctx l) x ((x.setS f.sd.toNat 0).next 8)) := by
  unfold execSwnew
  refine State.access_view hx hr ha ?_
  unfold descSwarm at hok
  simp only [hopen, Option.isSome_none, Bool.false_eq_true, if_false, hl, hok, Bool.not_false, if_true]

theorem execSwnew_plain (hok : s.dev.swarmOk x.g.ctx (descSwarm bytes) = true) (h0 : (bytesToWords bytes).getD 0 0 = 0)
    (hk : ((s.dev.descTouch s.cur.core x.g.ctx l).ctxs.get x.g.ctx).bind Ctx.nextSwarm = some k) : execSwnew f s =
    .next (s.afterOn ((s.dev.descTouch s.cur.core x.g.ctx l).updCtx x.g.ctx
        (fun c => { c with swarms := c.swarms.set k (descSwarm bytes), lastSwarm := k })) x
      ((x.setS f.sd.toNat (BitVec.ofNat 32 k)).next 8)) := by
  unfold execSwnew
  refine State.access_view hx hr ha ?_
  unfold descSwarm at hok ⊢
  simp only [hopen, Option.isSome_none, Bool.false_eq_true, if_false, hl, hok, Bool.not_true, h0, if_true]
  exact swarmEnter_some hk

/-- A swarm with a continuation: its record is read as SPAWN reads one, and its RESULT taken (R270). -/
theorem execSwnew_continued {q : RecRead} {d1 : Device} (hok : s.dev.swarmOk x.g.ctx (descSwarm bytes) = true)
    (h0 : (bytesToWords bytes).getD 0 0 ≠ 0)
    (hq : (s.dev.descTouch s.cur.core x.g.ctx l).readRecord s.env s.cur.core x.g false ((bytesToWords bytes).getD 0 0) = .ok q)
    (hd : ((s.dev.descTouch s.cur.core x.g.ctx l).descTouch s.cur.core x.g.ctx q.run).claimResult s.env s.cur.core x.g.ctx q.task
      = .ok d1)
    (hk : (d1.ctxs.get x.g.ctx).bind Ctx.nextSwarm = some k) : execSwnew f s =
    .next (s.afterOn (d1.updCtx x.g.ctx
        (fun c => { c with swarms := c.swarms.set k { descSwarm bytes with expiry := some q.task }, lastSwarm := k })) x
      ((x.setS f.sd.toNat (BitVec.ofNat 32 k)).next 8)) := by
  unfold execSwnew
  refine State.access_view hx hr ha ?_
  unfold descSwarm at hok ⊢
  simp only [hopen, Option.isSome_none, Bool.false_eq_true, if_false, hl, hok, Bool.not_true, h0, hq, hd]
  exact swarmEnter_some hk

end Swnew

/-- Settles O42: SWNEW enters the swarm that its descriptor gives or refuses it; the others act on a swarm or leave it. -/
theorem swarmsComplete : Obligations.SwarmsComplete := by
  unfold Obligations.SwarmsComplete
  intro f s x hx hopen ha
  refine ⟨fun l bytes k hr hl => ⟨?_, ?_, ?_⟩, fun i acts hi hacts hidle => ?_, ?_⟩
  · exact fun hok => execSwnew_refused hx hopen ha hr hl hok
  · exact fun hok h0 hk => execSwnew_plain hx hopen ha hr hl hok h0 hk
  · exact fun q d1 hok h0 hq hd hk => execSwnew_continued hx hopen ha hr hl hok h0 hq hd hk
  · obtain ⟨effect, hexec⟩ := exec_eq_swarmOp s hacts
    exact hexec.trans (State.swarmOp_idle hx hopen ha hi hidle)
  · intro k sw d g hn y d0 t hg
    refine ⟨fun hst hd => ?_, fun hst hd => ?_, fun hst hd => ?_, fun hst hd => ?_⟩
    · show execSwdl f s = _
      rw [execSwdl]
      exact State.swarmOp_acts hx hopen ha rfl hn (decide_eq_true hst) (congrArg Except.ok hd.symm) hg
    · show execSwcan f s = _
      rw [execSwcan]
      exact State.swarmOp_acts hx hopen ha rfl hn (by simpa using hst) hd hg
    · show execSwendClose f s = _
      rw [execSwendClose]
      exact State.swarmOp_acts hx hopen ha rfl hn (decide_eq_true hst) (congrArg Except.ok hd.symm) hg
    · show execSwendRun f s = _
      rw [execSwendRun]
      exact State.swarmOp_acts hx hopen ha rfl hn (decide_eq_true hst) hd hg

end Sys2Proof.Machine

/-! SUPPORT and O50. The retries and re-checks of a parked split, one lemma for each that is due. -/

namespace Sys2Proof.Machine

/-- One lane's push in a retry of SPAWN: the device that takes its record, or the lane left for the next retry (R270). -/
def respawn (e : Env) (core ctx : Nat) (p : Device × List (Nat × TaskRec)) (t : Nat × TaskRec) :
    Device × List (Nat × TaskRec) :=
  match p.1.pushLocal e core (QRec.mk' ctx t.2 e.now) with
  | .ok (some d) => (d, p.2)
  | _ => (p.1, p.2 ++ [t])

section Retries

variable {s : State} {core slot lane : Nat} {x : View} (hx : s.viewAt core slot lane = some x)

include hx

/-- A SPAWN ends once its yield is over and its lanes that were left are all placed (R270). -/
theorem execSpawnRetry_placed {f : FmtT} {left : List (Nat × TaskRec)} {placed : Mask} {since : Nat} {others : List Nat}
    {d : Device} (hp : x.sp.park = .spawn f left placed since others)
    (hover : x.yieldOver s.plat.cycles.toNat since others = true)
    (hd : (anyOrder s.tick left).foldl (respawn s.env core x.g.ctx) (s.dev, []) = (d, [])) :
    execSpawnRetry core slot lane s = .next (s.afterParked core slot d x (x.running.next 8)) := by
  unfold execSpawnRetry
  refine State.onParked_view hx ?_
  have hover : x.yieldOver s.env.plat.cycles.toNat since others = true := hover
  simp only [hp, hover, Bool.not_true, Bool.false_eq_true, if_false, State.env_tick]
  refine (if_pos (congrArg Prod.snd hd)).trans ?_
  exact congrArg (fun q => some (Res.view q (slotKey core slot) (x.running.next 8))) (congrArg Prod.fst hd)

/-- An FWAIT that a reference has woken does what its check comes to (R279, R284). -/
theorem execFwaitRecheck_woken {f : FmtT} {poll : Bool} {since : Nat} {d : Device} {y : View}
    (hp : x.sp.park = .fwait f poll true since)
    (hy : fwaitAgain s.env { core, slot, lane } s.dev x f poll = Res.view d (slotKey core slot) y) :
    execFwaitRecheck core slot lane s = .next (s.afterParked core slot d x y) := by
  unfold execFwaitRecheck
  refine State.onParked_view hx ?_
  simp only [hp, hy]

/-- So does one without a reference, 256 cycles after its last check (R284). -/
theorem execFwaitPollTimeout_due {f : FmtT} {woken : Bool} {since : Nat} {d : Device} {y : View}
    (hp : x.sp.park = .fwait f true woken since) (h : since + 256 ≤ s.plat.cycles.toNat)
    (hy : fwaitAgain s.env { core, slot, lane } s.dev x f true = Res.view d (slotKey core slot) y) :
    execFwaitPollTimeout core slot lane s = .next (s.afterParked core slot d x y) := by
  unfold execFwaitPollTimeout
  refine State.onParked_view hx ?_
  have h : since + 256 ≤ s.env.plat.cycles.toNat := h
  simp only [hp, h, if_true, hy]

/-- The first HSTW that waits on a stream ends once its entries find room or the stream drops them (R380). -/
theorem execHstwResume_first {f : FmtT} {left : List Nat} {done act m : Mask} {since : Nat} {st : HStream} {d1 d2 : Device}
    (hp : x.sp.park = .hstw f left done act since) (hst : s.dev.stream x.g.ctx f.md.toNat = some st)
    (hsz : st.esz = f.sub.toNat) (hroom : s.dev.streamFull x.g.ctx f.md.toNat st = false ∨ st.drop = true)
    (hfirst : ∀ t ∈ s.dev.streamWaiters x.g.ctx f.md.toNat, since ≤ t)
    (hl : s.dev.streamLanes s.env x.g.ctx f.md.toNat (left.map (fun l => (l, x.running.regBytes f.va.toNat l st.size))) done
      = .ok (d1, [], m))
    (hpub : (d1.order core .rel .sys).streamPublish s.env x.g.ctx f.md.toNat = .ok d2) :
    execHstwResume core slot lane s =
      .next (s.afterParked core slot d2 x ((x.running.writeT act f.sd.toNat m).next 8)) := by
  have hwaits : ((s.dev.streamFull x.g.ctx f.md.toNat st && !st.drop) ||
      (s.dev.streamWaiters x.g.ctx f.md.toNat).any (fun t => decide (t < since))) = false := by
    simpa using ⟨fun hfull => hroom.resolve_left (by simp [hfull]), hfirst⟩
  unfold execHstwResume
  refine State.onParked_view hx ?_
  simp only [hp, hst, hsz, ne_eq, not_true_eq_false, if_false, hwaits, Bool.false_eq_true]
  exact congrArg some (hstwGo_done (x := x.running) hl hpub)

/-- A GQPUSH ends once its yield is over and its rows that were left all enter (R304). -/
theorem execGqpushRetry_entered {f : FmtT} {left : List (Nat × GqRow)} {entered act : Mask} {since : Nat} {others : List Nat}
    {c : GQueue} {d : Device} (hp : x.sp.park = .gqpush f left entered act since others)
    (hover : x.yieldOver s.plat.cycles.toNat since others = true) (hc : s.dev.gqOf core f.md.toNat x.g.ctx = some c)
    (hsz : ∀ p ∈ left, p.2.bytes.length = 64 * c.nk)
    (hd : s.dev.pushRows s.env core f.md.toNat x.g.swarm left = .ok (d, [])) :
    execGqpushRetry core slot lane s = .next (s.afterParked core slot d x ((x.running.writeT act f.sd.toNat
      (entered ||| maskOfLanes (left.map Prod.fst))).next 8)) := by
  have hover : x.yieldOver s.env.plat.cycles.toNat since others = true := hover
  have hsame : left.all (fun p => decide (p.2.bytes.length = 64 * c.nk)) = true := by simpa using hsz
  have hall : left.filter (fun p => !([] : List (Nat × GqRow)).any (fun q => q.1 = p.1)) = left := by simp
  unfold execGqpushRetry
  refine State.onParked_view hx ?_
  simp only [hp, hover, Bool.not_true, Bool.false_eq_true, if_false, hc, hsame, hd, hall, List.isEmpty_nil, if_true]
  rfl

end Retries

/-- Settles O50: each retry, when due, leaves what its definition gives. -/
theorem retriesComplete : Obligations.RetriesComplete := by
  unfold Obligations.RetriesComplete
  intro s core slot lane x hx r key x0
  refine ⟨?_, fun f poll woken since d y hp hy => ⟨?_, ?_⟩, ?_, ?_⟩
  · exact fun f left placed since others d hp hover hd => execSpawnRetry_placed hx hp hover hd
  · rintro rfl
    exact execFwaitRecheck_woken hx hp hy
  · rintro rfl h
    exact execFwaitPollTimeout_due hx hp h hy
  · exact fun _ _ _ _ _ _ _ _ _ hp hst hsz hroom hfirst hl hpub => execHstwResume_first hx hp hst hsz hroom hfirst hl hpub
  · exact fun _ _ _ _ _ _ _ _ hp hover hc hsz hd => execGqpushRetry_entered hx hp hover hc hsz hd

end Sys2Proof.Machine

/-! SUPPORT and O43. BAR, whose operations each act on a barrier of the team's block. -/

namespace Sys2Proof.Machine

/-- An instruction that acts on other splits leaves the device that its act comes to once its own split has gone on. -/
theorem Res.thenDo_ok {d d1 : Device} {e : Env} {key : Nat} {x y : View} {f : Device → Except Miss Device}
    (h : f (d.putGroup key (y.g.put x.sp.low [y.sp])) = .ok d1) : Res.thenDo d e key x y f = .whole d1 := by
  simp only [Res.thenDo, Device.finish_cons, h]

/-- The barrier of its team that a BAR instruction names. -/
def View.barrier (x : View) (d : Device) (f : FmtT) : Barrier := (d.teamOf x.g).bars.getD f.va.toNat Barrier.blank

section Barriers

variable {f : FmtT} {s : State} {x : View} {i : Instr} {op : Env → SplitRef → Device → View → Barrier → Res} {d : Device}
  (hx : s.issuer = some x) (ha : x.active f.ms ≠ 0) (hb : f.va.toNat < (s.dev.teamOf x.g).bars.length)

include hx ha hb

/-! ### Operations on a barrier (R302) -/

theorem State.barOp_whole (hr : x.g.inRange i.spans = true) (hop : op s.env s.cur s.dev x (x.barrier s.dev f) = .whole d) :
    s.barOp i f op = .next (s.withDev d) :=
  State.onDevice_whole hx hr ((if_neg (Nat.not_le.mpr hb)).trans ((if_neg ha).trans hop))

theorem State.barOp_view {y : View} (hr : x.g.inRange i.spans = true)
    (hop : op s.env s.cur s.dev x (x.barrier s.dev f) = Res.view d s.cur.key y) : s.barOp i f op = .next (s.afterOn d x y) :=
  State.onDevice_view hx hr ((if_neg (Nat.not_le.mpr hb)).trans ((if_neg ha).trans hop))

theorem State.barOp_parks {sp : Split} (hr : x.g.inRange i.spans = true)
    (hop : op s.env s.cur s.dev x (x.barrier s.dev f) = .done s.dev sp) :
    s.barOp i f op = .next (s.after x { x with sp }) :=
  State.onDevice_done (g := x.g) hx hr ((if_neg (Nat.not_le.mpr hb)).trans ((if_neg ha).trans hop)) (State.issuer_group hx)

/-! ### BAR (R301, R302) -/

theorem execBarInit_opens (hc : countOk (x.s f.sa.toNat) = true) : execBarInit f s = .next (s.withDev
    (((s.dev.putGroup s.cur.key ((x.next 8).g.put x.sp.low [(x.next 8).sp])).setBar x.g.team f.va.toNat
      (Barrier.open_ (x.s f.sa.toNat))).releaseBar x.g.team f.va.toNat 2)) := by
  unfold execBarInit
  refine State.barOp_whole hx ha hb rfl ?_
  simp only [hc, Bool.not_true, Bool.false_eq_true, if_false]
  exact Res.thenDo_ok rfl

/-- WAIT whose phase has passed goes on with 0. -/
theorem execBarWait_passed (hi : (x.barrier s.dev f).init = true) (hp : (x.barrier s.dev f).poison = false)
    (hphase : (x.barrier s.dev f).phase ≠ x.s f.sa.toNat) :
    execBarWait f s = .next (s.afterOn s.dev x ((x.setS f.sd.toNat 0).next 8)) := by
  unfold execBarWait
  refine State.barOp_view hx ha hb rfl ?_
  simp only [hi, hp, hphase, Bool.not_true, Bool.false_eq_true, if_false, ne_eq, not_false_eq_true, if_true]

/-- WAIT for the phase under way parks; one that has waited before a trap keeps the time at which it began to. -/
theorem execBarWait_parks (hi : (x.barrier s.dev f).init = true) (hp : (x.barrier s.dev f).poison = false)
    (hphase : (x.barrier s.dev f).phase = x.s f.sa.toNat) : execBarWait f s = .next (s.after x { x with sp := { x.sp with
      park := .barWait f (x.s f.sa.toNat) ((x.sp.rewait.map Prod.snd).getD s.plat.dtime) (x.s f.sb.toNat) } }) := by
  unfold execBarWait
  refine State.barOp_parks hx ha hb rfl ?_
  simp only [hi, hp, hphase, Bool.not_true, Bool.false_eq_true, if_false, ne_eq, not_true_eq_false]
  rfl

theorem execBarExpect_announces (hi : (x.barrier s.dev f).init = true) (hp : (x.barrier s.dev f).poison = false)
    (hd : (s.dev.putGroup s.cur.key ((x.next 8).g.put x.sp.low [(x.next 8).sp])).expectBar s.env x.g.team f.va.toNat
      (x.s f.sb.toNat) (x.barrier s.dev f) = .ok d) : execBarExpect f s = .next (s.withDev d) := by
  unfold execBarExpect
  refine State.barOp_whole hx ha hb rfl ?_
  simp only [hi, hp, Bool.not_true, Bool.false_eq_true, if_false]
  exact Res.thenDo_ok hd

theorem execBarArrive_counts (hi : (x.barrier s.dev f).init = true) (hp : (x.barrier s.dev f).poison = false) {n : W32}
    (hn : n = if f.opt.getLsbD 0 then x.s f.sb.toNat else 1) (hc : countOk n = true) {y : View}
    (hy : y = (x.setS f.sd.toNat (x.barrier s.dev f).phase).next 8)
    (hd : (s.dev.putGroup s.cur.key (y.g.put x.sp.low [y.sp])).arriveBar s.env x.g.team f.va.toNat x.g.gid n.toNat
      (x.barrier s.dev f) = .ok d) : execBarArrive f s = .next (s.withDev d) := by
  subst hn hy
  unfold execBarArrive
  refine State.barOp_whole hx ha hb rfl ?_
  simp only [hi, hp, hc, Bool.not_true, Bool.false_and, Bool.or_self, Bool.false_eq_true, if_false]
  exact Res.thenDo_ok hd

/-- TEST of a barrier that is open or poisoned only reads it. -/
theorem execBarTest_reads (h : (x.barrier s.dev f).init = true ∨ (x.barrier s.dev f).poison = true) :
    execBarTest f s = .next (s.afterOn s.dev x ((x.setS f.sd.toNat (if (x.barrier s.dev f).poison then 3
      else if (x.barrier s.dev f).phase = x.s f.sa.toNat then 1 else 0)).next 8)) := by
  unfold execBarTest
  refine State.barOp_view hx ha hb rfl (if_neg ?_)
  rcases h with h | h <;> simp [h]

end Barriers

/-- Settles O43: the barrier is one of the team's block, and its state decides what each operation makes of it. -/
theorem barriersComplete : Obligations.BarriersComplete := by
  unfold Obligations.BarriersComplete
  intro f s x hx ha hb b on
  refine ⟨?_, ?_, ?_, ?_, ?_, ?_⟩
  · exact fun hc => execBarInit_opens hx ha hb hc
  · exact fun d hi hp hc hd => execBarArrive_counts hx ha hb hi hp rfl hc rfl hd
  · exact fun hi hp hphase => execBarWait_passed hx ha hb hi hp hphase
  · exact fun hi hp hphase => execBarWait_parks hx ha hb hi hp hphase
  · exact fun d hi hp hd => execBarExpect_announces hx ha hb hi hp hd
  · exact fun h => execBarTest_reads hx ha hb h

end Sys2Proof.Machine

/-! SUPPORT and O44. What enters an engine: a copy or a step that a descriptor asks for, and the queries of lanes. -/

namespace Sys2Proof.Machine

/-- An instruction that traps while no handler runs raises its trap on the device that it leaves. -/
theorem State.onDevice_trap {s : State} {x : View} {spans : List (Nat × Nat)} {d : Device} {sp : Split} {t : TrapReq} {g : Group}
    {f : Env → SplitRef → Device → View → Res} (hx : s.issuer = some x) (hr : x.g.inRange spans = true)
    (hf : f s.env s.cur s.dev x = .trap d sp t) (hg : d.groups.get s.cur.key = some g) (hh : g.inHandler = false) :
    s.onDevice spans f = s.close x (d.raise s.env s.cur.key g sp t) := by
  simp [State.onDevice, hx, hr, hf, Device.apply, hg, hh]

/-! ### Copies (R296, R335) -/

/-- The copy that CPY or CPYDN enters on a device for a view. -/
def issuedCopy (d : Device) (x : View) (kind : CopyKind) (ws : List W64) : Copy :=
  { id := d.nextId, ctx := x.g.ctx, team := some x.g.team, launch := (d.teamOf x.g).launch, swarm := x.g.swarm, kind, raw := ws
    stamp := some { guid := x.g.guid, count := x.g.writes }, src := none }

/-- A checked descriptor of an open group, its future there and its engine with a slot, enters its copy. -/
theorem copyGo_enters {e : Env} {r : SplitRef} {d d1 : Device} {x : View} {f : FmtT} {kind : CopyKind} {fut : W64}
    {ws : List W64} (hopen : x.g.sealBuf = none) (hfut : d.resultOk e r.core x.g.ctx fut = .ok ())
    (hn : (issuedCopy d x kind ws).shape.1 ≠ 0) (hslot : (d.copiesOn r.core).length < 512)
    (hd : (d.order r.core .rel .dev).claimCopy e r.core (issuedCopy d x kind ws) = .ok d1) :
    copyGo e r d x f kind fut ws none = Res.view (d1.addCopy r.core (issuedCopy d x kind ws)) r.key
      ((if f.t then x.setS f.sd.toNat 0 else x).next 8) := by
  refine (onceRun_ok hfut).trans ((if_neg (Nat.not_le.mpr hslot)).trans ((onceRun_ok hd).trans ((if_neg hn).trans ?_)))
  exact if_neg (by simp [hopen])

section Descriptor

variable {f : FmtT} {s : State} {x y : View} {l : Run} {bytes : List Byte} {d : Device} (hx : s.issuer = some x)
  (hopen : x.g.sealBuf = none) (ha : x.active f.ms ≠ 0)
  (hl : s.dev.descRun s.env s.cur.core x.g 64 64 (x.pair f.sa.toNat) = .ok (l, bytes))

include hx hopen ha hl

/-- An instruction whose descriptor is read goes on as it does with the descriptor's words. -/
theorem State.copyOp_view {i : Instr} {go : Env → SplitRef → Device → View → List W64 → Res} {sealable : Bool}
    (hr : x.g.inRange i.spans = true)
    (hgo : go s.env s.cur (s.dev.descTouch s.cur.core x.g.ctx l) x (bytesToWords bytes) = Res.view d s.cur.key y) :
    s.copyOp i f go sealable = .next (s.afterOn d x y) := by
  unfold State.copyOp
  refine State.access_view hx hr ha ?_
  simp only [hopen, Option.isSome_none, Bool.false_and, Bool.false_eq_true, if_false]
  exact (onceRun_ok hl).trans hgo

theorem execCpy_next (hr : x.g.inRange (Instr.cpy f).spans = true)
    (hcheck : cpyCheck ((s.dev.descTouch s.cur.core x.g.ctx l).teamOf x.g) x.g.task.isSome (bytesToWords bytes)
      (CpyDesc.ofWords (bytesToWords bytes)) = none)
    (hgo : copyGo s.env s.cur (s.dev.descTouch s.cur.core x.g.ctx l) x f (.cpy (CpyDesc.ofWords (bytesToWords bytes)))
      (CpyDesc.ofWords (bytesToWords bytes)).fut (bytesToWords bytes) none = Res.view d s.cur.key y) :
    execCpy f s = .next (s.afterOn d x y) := by
  unfold execCpy
  refine State.copyOp_view hx hopen ha hl hr ?_
  simp only [hopen, Option.isSome_none, Bool.false_and, Bool.false_eq_true, if_false, hcheck, hgo]

theorem execCpydn_next {g : Region} {c : DnDesc} (hr : x.g.inRange (Instr.cpydn f).spans = true)
    (hg : (s.dev.descTouch s.cur.core x.g.ctx l).combOf x f.md.toNat = some g)
    (hc : c = DnDesc.ofWords g.id ((s.dev.descTouch s.cur.core x.g.ctx l).comb x.g.ctx g.id).config (bytesToWords bytes))
    (hbox : c.leaves g = false)
    (hcheck : dnCheck ((s.dev.descTouch s.cur.core x.g.ctx l).teamOf x.g) x.g.task.isSome (bytesToWords bytes) g c = none)
    (hgo : copyGo s.env s.cur (s.dev.descTouch s.cur.core x.g.ctx l) x f (.dn c) c.fut (bytesToWords bytes) none =
      Res.view d s.cur.key y) :
    execCpydn f s = .next (s.afterOn d x y) := by
  subst hc
  unfold execCpydn
  refine State.copyOp_view hx hopen ha hl hr ?_
  simp only [hopen, Option.isSome_none, Bool.false_and, Bool.false_eq_true, if_false, hg, hbox, hcheck, hgo]

end Descriptor

/-! ### Entries of the collision and dynamics engines (R337, R341, R349) -/

/-- The claim of one lane's future for an engine's entry (R341, R349). -/
def claimFut (e : Env) (r : SplitRef) (x : View) (k : EngineKind) (d : Device) (a : W64) : Except LaneErr (Device × Unit) :=
  laneOf ((d.futClaim e x.g.ctx (Agent.core r.core) a (engineTag k (r.core / 8)) x.g.swarm).map (fun d => (d, ())))

section Enters

variable {e : Env} {r : SplitRef} {d d1 : Device} {x : View} {k : EngineKind} {futs : List (Nat × W64)} {w : EngineWork}
  {us : List (Nat × Unit)} {fs : List (Nat × Nat × Nat × W64)} (hroom : (d.entriesOn (engineKey (r.core / 8) k)).length < 64)
  (hturn : d.engineTurn r.key x.g k (x.sp.queued.getD e.tick) = true)

include hroom hturn

/-- With a free entry and its turn come, an instruction claims its futures and enters its work, or meets the trap of a claim. -/
theorem engineIssue_claimed (hd : eachLane (claimFut e r x k) futs (d.order r.core .rel .dev) = .ok (d1, us, fs)) :
    engineIssue e r d x k futs w = (worstTrap fs).elim
      (Res.view (d1.addEntry (engineKey (r.core / 8) k) (d1.newEntry r x w)) r.key (x.next 8)) (.trap d1 x.sp) := by
  have hgo : ¬(decide (64 ≤ (d.entriesOn (engineKey (r.core / 8) k)).length) ||
      !d.engineTurn r.key x.g k (x.sp.queued.getD e.tick)) = true := by simp [hturn, hroom]
  unfold claimFut at hd
  unfold engineIssue
  refine (if_neg hgo).trans ?_
  simp only [hd]
  cases worstTrap fs <;> rfl

theorem engineIssue_enters (hd : eachLane (claimFut e r x k) futs (d.order r.core .rel .dev) = .ok (d1, us, [])) :
    engineIssue e r d x k futs w =
      Res.view (d1.addEntry (engineKey (r.core / 8) k) (d1.newEntry r x w)) r.key (x.next 8) :=
  engineIssue_claimed hroom hturn hd

theorem engineIssue_traps {t : TrapReq} (hd : eachLane (claimFut e r x k) futs (d.order r.core .rel .dev) = .ok (d1, us, fs))
    (ht : worstTrap fs = some t) : engineIssue e r d x k futs w = .trap d1 x.sp t := by
  rw [engineIssue_claimed hroom hturn hd, ht, Option.elim_some]

end Enters

/-- DYNS whose descriptor passes its checks goes on with its step entered. -/
theorem execDyns_next {f : FmtT} {s : State} {x : View} {l : Run} {bytes : List Byte} {d0 d1 : Device} {w : DynsWork}
    {us : List (Nat × Unit)} (hx : s.issuer = some x) (hopen : x.g.sealBuf = none) (ha : x.active f.ms ≠ 0)
    (hr : x.g.inRange (Instr.dyns f).spans = true)
    (hl : s.dev.descRun s.env s.cur.core x.g 64 64 (x.pair f.sa.toNat) = .ok (l, bytes))
    (h0 : d0 = s.dev.descTouch s.cur.core x.g.ctx l) (hw : w = DynsWork.ofWords (bytesToWords bytes))
    (hcheck : dynsCheck (bytesToWords bytes) = none) (hfut : d0.resultOk s.env s.cur.core x.g.ctx w.fut = .ok ())
    (hroom : (d0.entriesOn (engineKey (s.cur.core / 8) .dyn)).length < 64)
    (hturn : d0.engineTurn s.cur.key x.g .dyn (x.sp.queued.getD s.tick) = true)
    (hd : eachLane (claimFut s.env s.cur x .dyn) ((futOf w.fut).toList.map (fun a => (x.sp.low, a)))
      (d0.order s.cur.core .rel .dev) = .ok (d1, us, [])) :
    execDyns f s = .next (s.afterOn (d1.addEntry (engineKey (s.cur.core / 8) .dyn) (d1.newEntry s.cur x (.dyns w))) x
      (x.next 8)) := by
  subst h0 hw
  unfold execDyns
  refine State.copyOp_view hx hopen ha hl hr ?_
  simp only [hcheck]
  exact (onceRun_ok hfut).trans (congrArg Res.uniform (engineIssue_enters hroom hturn hd))

/-! ### COLQ (R340, R341) -/

/-- The queries of some lanes, as COLQ enters them. -/
def laneQueries (x : View) (f : FmtT) (query : View → Nat → Query) (lanes : List Nat) : List LaneQuery :=
  lanes.map (fun k => { lane := k, fut := x.g.vpair f.va.toNat k, q := query x k })

/-- A kind of COLQ whose own checks of a region and of every active lane pass. -/
def ColqPasses (i : Instr) (f : FmtT) (x : View) (g : Region) (query : View → Nat → Query) : Prop :=
  (i = .colqQpoint f ∧ query = (fun y k => .point (y.voxel f k)) ∧
    ∀ k ∈ lanesOf (x.active f.ms), max (x.voxel f k).1 (max (x.voxel f k).2.1 (x.voxel f k).2.2) < 2 ^ g.e) ∨
  (i = .colqQsphere f ∧ query = fun y k => .sphere (y.queryRegs f 4 k)) ∨
  (i = .colqQseg f ∧ (query = fun y k => .seg (y.queryRegs f 6 k)) ∧ g.e ≤ 10)

/-- The three kinds of COLQ are one operation, with checks that pass. -/
theorem ColqPasses.exec_eq_colq {i : Instr} {f : FmtT} {x : View} {g : Region} {query : View → Nat → Query}
    (h : ColqPasses i f x g query) (s : State) : ∃ (regionBad : Region → Bool) (laneBad : Region → View → Nat → Bool),
      exec i s = s.colq i f regionBad laneBad query ∧ regionBad g = false ∧
      ∀ k ∈ lanesOf (x.active f.ms), laneBad g x k = false := by
  rcases h with ⟨rfl, rfl, hin⟩ | ⟨rfl, rfl⟩ | ⟨rfl, rfl, he⟩
  · exact ⟨_, _, show execColqQpoint f s = _ by rw [execColqQpoint], rfl,
      fun k hk => decide_eq_false (Nat.not_le.mpr (hin k hk))⟩
  · exact ⟨_, _, show execColqQsphere f s = _ by rw [execColqQsphere], rfl, fun _ _ => rfl⟩
  · exact ⟨_, _, show execColqQseg f s = _ by rw [execColqQseg], decide_eq_false (Nat.not_lt.mpr he), fun _ _ => rfl⟩

section Colq

variable {i : Instr} {f : FmtT} {s : State} {x : View} {g : Region} {query : View → Nat → Query} {l : List (Nat × Run)}
  {d1 : Device} {us : List (Nat × Unit)} {fs : List (Nat × Nat × Nat × W64)} (hx : s.issuer = some x)
  (hopen : x.g.sealBuf = none) (ha : x.active f.ms ≠ 0) (hr : x.g.inRange i.spans = true) (hi : ColqPasses i f x g query)
  (hg : s.dev.combOf x f.md.toNat = some g) (hrank : g.rank = 3)
  (hl : sumChecks ((lanesOf (x.active f.ms)).map (fun k =>
    (k, s.dev.futRun s.env s.cur.core x.g.ctx (x.g.vpair f.va.toNat k)))) = .ok l)

include hopen hi hg hrank hl

/-- COLQ on a region of rank 3, its lanes' futures there, comes to the entry of its queries. -/
theorem exec_colq_eq_access : ∃ F, exec i s = s.access i 8 f.ms F ∧ F s.env s.cur s.dev x (x.active f.ms) =
    engineIssue s.env s.cur s.dev x .col ((lanesOf (x.active f.ms)).map (fun k => (k, x.g.vpair f.va.toNat k)))
      (.colq g.id (laneQueries x f query (lanesOf (x.active f.ms)))) := by
  obtain ⟨regionBad, laneBad, hexec, hregion, hlane⟩ := hi.exec_eq_colq s
  refine ⟨_, hexec, ?_⟩
  have hchecks : sumChecks ((lanesOf (x.active f.ms)).map (fun k => (k, if laneBad g x k then
      .error (.fault 0x11 0 0 []) else s.dev.futRun s.env s.cur.core x.g.ctx (x.g.vpair f.va.toNat k)))) = .ok l := by
    rw [← hl]
    exact congrArg sumChecks (List.map_congr_left (fun k hk => by simp [hlane k hk]))
  simp only [hopen, Option.isSome_none, Bool.false_eq_true, if_false, hg, hrank, ne_eq, not_true_eq_false, hregion, hchecks,
    Checked.run_ok]
  rfl

include hx ha hr

variable (hroom : (s.dev.entriesOn (engineKey (s.cur.core / 8) .col)).length < 64)
  (hturn : s.dev.engineTurn s.cur.key x.g .col (x.sp.queued.getD s.tick) = true)

include hroom hturn

theorem exec_colq_next (hd : eachLane (claimFut s.env s.cur x .col)
      ((lanesOf (x.active f.ms)).map (fun k => (k, x.g.vpair f.va.toNat k))) (s.dev.order s.cur.core .rel .dev) = .ok (d1, us, [])) :
    exec i s = .next (s.afterOn (d1.addEntry (engineKey (s.cur.core / 8) .col) (d1.newEntry s.cur x
      (.colq g.id (laneQueries x f query (lanesOf (x.active f.ms)))))) x (x.next 8)) := by
  obtain ⟨F, hexec, hF⟩ := exec_colq_eq_access hopen hi hg hrank hl
  exact hexec.trans (State.access_view hx hr ha (hF.trans (engineIssue_enters hroom hturn hd)))

theorem exec_colq_traps {t : TrapReq} {h : Group} (hd : eachLane (claimFut s.env s.cur x .col)
      ((lanesOf (x.active f.ms)).map (fun k => (k, x.g.vpair f.va.toNat k))) (s.dev.order s.cur.core .rel .dev) = .ok (d1, us, fs))
    (ht : worstTrap fs = some t) (hh : d1.groups.get s.cur.key = some h) (hfree : h.inHandler = false) :
    exec i s = s.close x (d1.raise s.env s.cur.key h x.sp t) := by
  obtain ⟨F, hexec, hF⟩ := exec_colq_eq_access hopen hi hg hrank hl
  exact hexec.trans (State.onDevice_trap hx hr ((if_neg ha).trans (hF.trans (engineIssue_traps hroom hturn hd ht))) hh hfree)

end Colq

/-- Settles O44: a descriptor that passes its checks enters its copy or step, and lanes that pass theirs their queries. -/
theorem engineIssuesComplete : Obligations.EngineIssuesComplete := by
  unfold Obligations.EngineIssuesComplete
  intro f s x hx hopen ha
  refine ⟨?_, ?_, ?_⟩
  · intro i l bytes kind fut d1 hr hl ws d0 hkind hfut c hn hslot hd
    rcases hkind with ⟨rfl, rfl, rfl, hcheck⟩ | ⟨g, rfl, hg, rfl, rfl, hbox, hcheck⟩
    · exact execCpy_next hx hopen ha hl hr hcheck (copyGo_enters hopen hfut hn hslot hd)
    · exact execCpydn_next hx hopen ha hl hr hg rfl hbox hcheck (copyGo_enters hopen hfut hn hslot hd)
  · intro l bytes d1 us hr hl ws d0 w key hcheck hfut hroom hturn hd
    exact execDyns_next hx hopen ha hr hl rfl rfl hcheck hfut hroom hturn hd
  · intro i g query l d1 us fs hr hi hg hrank lanes key fut hl hroom hturn hd
    refine ⟨?_, fun t h ht hh hfree => ?_⟩
    · rintro rfl
      exact exec_colq_next hx hopen ha hr hi hg hrank hl hroom hturn hd
    · exact exec_colq_traps hx hopen ha hr hi hg hrank hl hroom hturn hd ht hh hfree

end Sys2Proof.Machine

/-! SUPPORT and O45. The gather-queue instructions, whose group is from then on one that has used a queue. -/

namespace Sys2Proof.Machine

/-- The view, its group one that has used a gather queue. -/
def View.gathering (x : View) : View := { x with g := { x.g with usedGq := true } }

/-- The rows that GQPUSH's lanes push: their bytes as they were read, with the stamp of the group's writes. -/
def gqRows (s : State) (x : View) (f : FmtT) (l : List (Nat × Run × List Byte × List Nat)) : List (Nat × GqRow) :=
  l.map (fun p => (p.1, { bytes := p.2.2.1, tag := x.g.vpair f.vb.toNat p.1, fut := f.opt.getLsbD 1
                          stamp := { guid := x.g.guid, count := x.g.writes }, time := s.plat.dtime }))

/-- The view once GQPUSH's rows have been read: their lines noted, and whether they touched a PRIV page. -/
def View.readRows (x : View) (l : List (Nat × Run × List Byte × List Nat)) : View :=
  (x.noteLoad (l.flatMap (fun p => p.2.2.2))).notePriv (l.any (fun p => runPriv p.2.1))

/-- Reading rows leaves the group's swarm. -/
@[simp] theorem View.readRows_swarm (x : View) (l : List (Nat × Run × List Byte × List Nat)) :
    (x.readRows l).g.swarm = x.g.swarm := by
  unfold View.readRows View.notePriv
  split <;> rfl

/-- Rows that all enter, or that may leave lanes out, end their push with the triple of the lanes that entered (R304). -/
theorem gqpushOpen_entered {e : Env} {r : SplitRef} {d d1 : Device} {x : View} {f : FmtT} {act : Mask}
    {rows left : List (Nat × GqRow)} (hd : d.pushRows e r.core f.md.toNat x.g.swarm rows = .ok (d1, left))
    (h : f.opt.getLsbD 0 = false ∨ left = []) : gqpushOpen e r d x f act rows = Res.view d1 r.key ((x.gathering.writeT act
      f.sd.toNat (maskOfLanes ((rows.filter (fun p => !left.any (fun q => q.1 = p.1))).map Prod.fst))).next 8) := by
  simp only [gqpushOpen, hd]
  refine if_neg ?_
  rcases h with h | rfl
  · simp only [h, Bool.false_and, Bool.false_eq_true, not_false_eq_true]
  · simp

/-- What an open group's instruction does where a sealed one's would trap. -/
theorem Group.ite_sealed_of_open {α : Type} {g : Group} (hopen : g.sealBuf = none) (a b : α) :
    (if g.sealBuf.isSome then a else b) = b := by
  simp [hopen]

/-- A popper whose tiles wait for no stamp goes on with them (R306). -/
theorem popEnd_ready {key : Nat} {d : Device} {x : View} {f : FmtT} {fmt nk pad : Nat} {tiles : List (List GqRow)}
    (h : d.lateRows tiles = []) :
    popEnd key d x f fmt nk pad tiles = Res.view d key ((x.gathering.running.putTiles f fmt nk pad tiles).next 8) := by
  unfold popEnd
  rw [h]
  rfl

section Gather

variable {f : FmtT} {s : State} {x : View} {c : GQueue} (hx : s.issuer = some x) (hopen : x.g.sealBuf = none)

include hx hopen

/-! ### GQCFG, GQFLUSH and GQPUSH (R303 to R305) -/

theorem execGqcfg_next (ha : x.active f.ms ≠ 0) (hr : x.g.inRange (Instr.gqcfg f).spans = true) {q : Device × W32}
    (hq : q = s.dev.gqConfig s.cur.core f.md.toNat x.g.ctx (x.pair f.sa.toNat)) :
    execGqcfg f s = .next (s.afterOn q.1 x ((x.gathering.setS f.sd.toNat q.2).next 8)) := by
  subst hq
  unfold execGqcfg
  exact State.access_view hx hr ha (Group.ite_sealed_of_open hopen _ _)

variable (hc : s.dev.gqOf s.cur.core f.md.toNat x.g.ctx = some c)

include hc

theorem execGqflush_next (ha : x.active f.ms ≠ 0) (hr : x.g.inRange (Instr.gqflush f).spans = true) :
    execGqflush f s = .next (s.afterOn (s.dev.setGq s.cur.core f.md.toNat c.flush) x (x.gathering.next 8)) := by
  unfold execGqflush
  refine State.access_view hx hr ha ((Group.ite_sealed_of_open hopen _ _).trans ?_)
  simp only [hc]
  rfl

theorem execGqpush_next {l : List (Nat × Run × List Byte × List Nat)} {d : Device} {left : List (Nat × GqRow)}
    (ha : x.active f.ms ≠ 0) (hr : x.g.inRange (Instr.gqpush f).spans = true)
    (hl : sumChecks ((lanesOf (x.active f.ms)).map (fun k =>
      (k, s.dev.rowRead s.env s.cur.core x f (64 * c.nk) k))) = .ok l)
    (hd : (l.foldl (fun d p => d.descTouch s.cur.core x.g.ctx p.2.1) s.dev).pushRows s.env s.cur.core f.md.toNat x.g.swarm
      (gqRows s x f l) = .ok (d, left))
    (h : f.opt.getLsbD 0 = false ∨ left = []) :
    execGqpush f s = .next (s.afterOn d x (((x.readRows l).gathering.writeT (x.active f.ms) f.sd.toNat
      (maskOfLanes (((gqRows s x f l).filter (fun p => !left.any (fun q => q.1 = p.1))).map Prod.fst))).next 8)) := by
  unfold execGqpush
  refine State.access_view hx hr ha ?_
  simp only [hopen, Option.isSome_none, Bool.false_and, Bool.false_eq_true, if_false, hc, hl, Checked.run_ok]
  exact gqpushOpen_entered (x := x.readRows l) (by rw [View.readRows_swarm]; exact hd) h

/-! ### GQPOP (R306) -/

variable (he : x.sp.e ≠ 0) (hfull : x.sp.e = laneMask x.g.width) (hr : x.g.inRange (Instr.gqpop f).spans = true)
  (hfile : f.va.toNat + 4 * c.nk ≤ 320) (hreg : f.va.toNat + 4 * c.nk ≤ x.g.nreg)

omit hx in
include he hfull hfile hreg in
/-- GQPOP that passes its checks comes to its tiles, past those of the parked poppers. -/
theorem execGqpop_eq_onDevice : ∃ F, execGqpop f s = s.onDevice (Instr.gqpop f).spans F ∧
    F s.env s.cur s.dev x = popNow s.env s.cur s.dev x f c := by
  refine ⟨_, rfl, (if_neg he).trans ?_⟩
  simp only [hopen, Option.isSome_none, Bool.false_eq_true, if_false, hfull, ne_eq, not_true_eq_false, hc,
    Nat.not_lt.mpr hfile, Nat.not_lt.mpr hreg]

include he hfull hr hfile hreg

theorem execGqpop_takes {d : Device} {tiles : List (List GqRow)}
    (hready : s.dev.popperTiles s.cur.core f.md.toNat <
      (readyTiles (s.dev.popperTiles s.cur.core f.md.toNat + 1) c.tiles).length)
    (hd : s.dev.takeTiles s.env s.cur.core f.md.toNat s.cur.key x.g (s.dev.popperTiles s.cur.core f.md.toNat) = .ok (d, tiles))
    (hlate : d.lateRows tiles = []) :
    execGqpop f s = .next (s.afterOn d x ((x.gathering.running.putTiles f c.fmt c.nk c.pad tiles).next 8)) := by
  obtain ⟨F, hexec, hF⟩ := execGqpop_eq_onDevice hopen hc he hfull hfile hreg
  refine hexec.trans (State.onDevice_view hx hr (hF.trans ?_))
  simp only [popNow, Nat.not_le.mpr hready, if_false, hd]
  exact popEnd_ready hlate

variable (hnone : (readyTiles (s.dev.popperTiles s.cur.core f.md.toNat + 1) c.tiles).length ≤
  s.dev.popperTiles s.cur.core f.md.toNat)

include hnone

theorem execGqpop_empty (htry : f.sub = 1) :
    execGqpop f s = .next (s.afterOn s.dev x ((x.gathering.running.putTiles f c.fmt c.nk c.pad []).next 8)) := by
  obtain ⟨F, hexec, hF⟩ := execGqpop_eq_onDevice hopen hc he hfull hfile hreg
  refine hexec.trans (State.onDevice_view hx hr (hF.trans ?_))
  exact (if_pos hnone).trans ((if_pos htry).trans (popEnd_ready rfl))

theorem execGqpop_parks (hwait : f.sub ≠ 1) :
    execGqpop f s = .next (s.after x { x.gathering with sp := { x.sp with park := .gqpop f } }) := by
  obtain ⟨F, hexec, hF⟩ := execGqpop_eq_onDevice hopen hc he hfull hfile hreg
  have hpark : popNow s.env s.cur s.dev x f c = .done (s.dev.commit s.cur.key x.gathering) { x.sp with park := .gqpop f } :=
    (if_pos hnone).trans (if_neg hwait)
  refine (hexec.trans (State.onDevice_done hx hr (hF.trans hpark) (Device.putGroup_get _ _ _))).trans ?_
  simp only [Device.commit, Device.putGroup_putGroup, Device.splitsAt, State.issuer_group hx]
  rfl

end Gather

/-- Settles O45: each instruction's checks pass, and the queue decides what it comes to. -/
theorem gatherCompletes : Obligations.GatherCompletes := by
  unfold Obligations.GatherCompletes
  intro f s x hx hopen q used
  refine ⟨?_, ?_, ?_, ?_⟩
  · exact fun ha hr => execGqcfg_next hx hopen ha hr rfl
  · exact fun c ha hc hr => execGqflush_next hx hopen hc ha hr
  · exact fun c l d left ha hc hr hl hd h => execGqpush_next hx hopen hc ha hr hl hd h
  · intro c he hfull hc hr hfile hreg y past
    refine ⟨?_, ?_, ?_⟩
    · exact fun d tiles hready hd hlate => execGqpop_takes hx hopen hc he hfull hr hfile hreg hready hd hlate
    · exact fun hnone htry => execGqpop_empty hx hopen hc he hfull hr hfile hreg hnone htry
    · exact fun hnone hwait => execGqpop_parks hx hopen hc he hfull hr hfile hreg hnone hwait

end Sys2Proof.Machine

/-! SUPPORT and O52. The events of copies, gather queues, engines and streams, one lemma for each that is due. -/

namespace Sys2Proof.Machine

/-- An event of the device that is due leaves what it makes of its device. -/
theorem State.whenDue_true {s : State} {due : Bool} {f : Env → Device → Device} (h : due = true) :
    s.whenDue due f = .next (s.withDev (f s.env s.dev)) := by
  simp [State.whenDue, h]

/-- The first element with a property that also has another is the first with both. -/
theorem find?_and_of_find? {α : Type} {l : List α} {p r : α → Bool} {a : α} (h : l.find? p = some a) (hr : r a = true) :
    l.find? (fun b => p b && r b) = some a := by
  rw [List.find?_eq_some_iff_append] at h ⊢
  obtain ⟨hp, before, after, hl, hnot⟩ := h
  exact ⟨by simp [hp, hr], before, after, hl, fun b hb => by simpa using Or.inl (by simpa using hnot b hb)⟩

/-! ### Copies (R297, R298) -/

section Copies

variable {s : State} {core id : Nat} {c : Copy} {d1 : Device} {j : Nat} (hc : s.dev.copyOn core id = some c)
  (hready : s.dev.copyReady c = true)

include hc hready

theorem execCopyComplete_moved {d : Device} (hmove : Device.copyMove s.dev s.env core c c.shape.1 0 s.dev = (d1, j, none))
    (hd : d1.copyDone s.env core c (c.shape.1 * c.shape.2) = .ok d) : execCopyComplete core id s = .next (s.withDev d) := by
  unfold execCopyComplete
  exact State.onDev_ok (by simp [hc, hready, hmove, hd])

theorem execCopyFault_met {code det : Nat} {a : W64} {ts : List Touched}
    (hmove : Device.copyMove s.dev s.env core c c.shape.1 0 s.dev = (d1, j, some (.fault code det a ts))) :
    execCopyFault core id s =
      .next (s.withDev ((d1.retouch ts).copyFaulted s.env core c code det a (j * c.shape.2))) := by
  unfold execCopyFault
  exact State.onDev_ok (by simp [hc, hready, hmove])

end Copies

/-! ### Gather queues (R305, R306) -/

section Queues

variable {s : State} {core q : Nat} {c : GQueue} (hc : s.dev.gqs.get (gqKey core q) = some c)

include hc

/-- An open tile whose oldest row has waited its time becomes ready. -/
theorem execGqTimeout_due {t : Tile} {row : GqRow} {rows : List GqRow} (ht : c.openTile = some t) (hrows : t.rows = row :: rows)
    (hset : c.tout ≠ 0) (hpast : row.time.toNat + c.tout ≤ s.plat.dtime.toNat) : execGqTimeout core q s =
      .next (s.withDev { s.dev with gqs := s.dev.gqs.set (gqKey core q) c.flush }) := by
  unfold execGqTimeout
  refine (State.whenDue_true (by simp [hc, ht, hrows, hset, hpast])).trans ?_
  rw [AMap.upd_of_get _ hc]

/-- The parked popper that comes next takes its tiles and goes on. -/
theorem execGqTileDeliver_popper {p : Nat × Group × Split × FmtT} {x : View} {f : FmtT} {d : Device} {tiles : List (List GqRow)}
    (hp : s.dev.popTarget core q = some p) (hx : s.viewAt core (p.1 % 48) p.2.2.1.low = some x) (hpark : x.sp.park = .gqpop f)
    (hd : s.dev.takeTiles s.env core q (slotKey core (p.1 % 48)) x.g = .ok (d, tiles)) (hlate : d.lateRows tiles = []) :
    execGqTileDeliver core q s = .next (s.afterParked core (p.1 % 48) d x
      ((x.gathering.running.putTiles f c.fmt c.nk c.pad tiles).next 8)) := by
  simp only [execGqTileDeliver, hp]
  refine State.onParked_view hx ?_
  simp only [hpark, hc, SplitRef.key, hd]
  exact congrArg some (popEnd_ready hlate)

end Queues

/-! ### Engines (R338, R347, R351) -/

section Engines

variable {s : State} {cluster : Nat}

theorem execEngineEntryStart_due {kind : EngineKind} {t : Entry} (hready : engineReady s.plat cluster kind = true)
    (hroom : engineRoom kind (s.dev.entriesOn (engineKey cluster kind)) = true)
    (ht : s.dev.nextEntry s.env ((s.dev.entriesOn (engineKey cluster kind)).filter (fun t => !t.started)) = some t) :
    execEngineEntryStart cluster kind s = .next (s.withDev { s.dev with
      entries := s.dev.entries.upd (engineKey cluster kind) (fun l => l.map (fun u =>
        if u.id = t.id then { u with started := true } else u)) }) := by
  unfold execEngineEntryStart
  refine (State.whenDue_true (by simp [hready, hroom])).trans ?_
  simp only [ht]

/-- A lane's query that has started, or finds room to, ends. -/
theorem execColqQueryDone_due {id lane region : Nat} {t : Entry} {left : List LaneQuery} {q : LaneQuery} {d : Device}
    (ht : s.dev.entryRuns (engineKey cluster .col) id = some t) (hwork : t.work = .colq region left)
    (hq : left.find? (fun q => q.lane = lane) = some q)
    (hroom : q.reg.isSome = true ∨ queryRoom (s.dev.entriesOn (engineKey cluster .col)) ≠ 0)
    (hd : s.dev.queryDone s.env cluster t region q = .ok d) : execColqQueryDone cluster id lane s = .next (s.withDev d) := by
  have hfind : left.find? (fun q => decide (q.lane = lane) &&
      (q.reg.isSome || decide (queryRoom (s.dev.entriesOn (engineKey cluster .col)) ≠ 0))) = some q :=
    find?_and_of_find? hq (by simpa using hroom)
  unfold execColqQueryDone
  refine State.onDev_ok ?_
  simp only [ht, hwork, hfind, Option.map_some, hd]

theorem execDynsBodyStep_due {id : Nat} {t : Entry} {w : DynsWork} {d : Device}
    (ht : s.dev.entryRuns (engineKey cluster .dyn) id = some t) (hwork : t.work = .dyns w)
    (hd : s.dev.dynsBody s.env cluster t w = .ok d) : execDynsBodyStep cluster id s = .next (s.withDev d) := by
  unfold execDynsBodyStep
  refine State.onDev_ok ?_
  simp only [ht, hwork, hd]

end Engines

/-! ### Streams (R379) -/

theorem execStreamTimeout_due {s : State} {ctx k : Nat} {st : HStream} (hst : s.dev.stream ctx k = some st) (hset : st.tus ≠ 0)
    (hfresh : st.fresh ≠ 0) (hpast : st.first.toNat + 1000 * st.tus ≤ s.plat.dtime.toNat) : execStreamTimeout ctx k s =
      .next (s.withDev ((s.dev.updStream ctx k (fun s => { s with fresh := 0 })).interrupt s.env st.vec)) := by
  unfold execStreamTimeout
  refine (State.whenDue_true (by simp [hst, hset, hfresh, hpast])).trans ?_
  simp only [hst]

/-- Settles O52: each event, when due, leaves what its definition gives. -/
theorem engineEventsComplete : Obligations.EngineEventsComplete := by
  unfold Obligations.EngineEventsComplete
  intro s d
  refine ⟨fun core id c hc hready => ⟨?_, ?_⟩, ?_, ?_, ?_, ?_, ?_, ?_⟩
  · exact fun d1 j hmove hd => execCopyComplete_moved hc hready hmove hd
  · exact fun d1 j code det a ts hmove => execCopyFault_met hc hready hmove
  · exact fun core q c t row rows hc ht hrows hset hpast => execGqTimeout_due hc ht hrows hset hpast
  · exact fun core q p x f c tiles hp hx hpark hc hd hlate => execGqTileDeliver_popper hc hp hx hpark hd hlate
  · exact fun cluster kind t hready hroom ht => execEngineEntryStart_due hready hroom ht
  · exact fun cluster id lane t region left q ht hwork hq hroom hd => execColqQueryDone_due ht hwork hq hroom hd
  · exact fun cluster id t w ht hwork hd => execDynsBodyStep_due ht hwork hd
  · exact fun ctx k st hst hset hfresh hpast => execStreamTimeout_due hst hset hfresh hpast

end Sys2Proof.Machine

/-! SUPPORT, O9 and O11. The platform's invariant: what it speaks of, the events that leave all of that alone, and the events of
reset, clocks, firmware and attestation that change it (R410 to R417). -/

namespace Sys2Proof.Machine

open Sys2Proof.Spec

/-- What the platform's invariant speaks of. -/
def Platform.gist (p : Platform) : (Bool × Bool) × (Bool × Bool) × Nat × Option Firmware × W64 × Bool × Nat :=
  ((p.tripped, p.inReset), (p.pps.lock, p.pps.en), p.inc, p.fw, p.ready, p.booting.isSome, p.attStatus)

theorem platformOk_of_gist_eq {p q : Platform} (hp : PlatformOk p) (h : q.gist = p.gist) : PlatformOk q := by
  simp only [Platform.gist, Prod.mk.injEq] at h
  obtain ⟨⟨htrip, hreset⟩, ⟨hlock, hen⟩, hinc, hfw, hready, hboot, hatt⟩ := h
  unfold PlatformOk
  rw [htrip, hreset, hlock, hen, hinc, hfw, hready, hboot, hatt]
  exact hp

/-- A platform in reset meets the invariant, whatever fuses it has. -/
theorem Platform.intoReset_ok (p : Platform) (tripped : Bool) (m : Memory) :
    PlatformOk { p.intoReset tripped with staging := m } :=
  ⟨fun _ => rfl, nofun, (by decide : 42520176231 ≤ nominalInc), (by decide : nominalInc ≤ 43379169689), fun _ => rfl, fun _ => rfl, nofun,
    Nat.zero_le 3⟩

/-! ### Operations that leave alone what the invariant speaks of -/

/-- The states agree on what the platform's invariant speaks of. -/
def State.SameGist (s t : State) : Prop := t.plat.gist = s.plat.gist

theorem State.SameGist.withDev (s : State) (d : Device) : s.SameGist (s.withDev d) := rfl

theorem State.SameGist.ite {c : Prop} [Decidable c] {s a b : State} (ha : s.SameGist a) (hb : s.SameGist b) :
    s.SameGist (if c then a else b) := by
  split
  · exact ha
  · exact hb

theorem State.createCtx_sameGist (s : State) : s.SameGist s.createCtx := by
  simp only [State.createCtx]
  split
  · rfl
  · split <;> rfl

theorem State.createQ_sameGist (ctx q : Nat) (s : State) : s.SameGist (State.createQ ctx q s) := by
  unfold State.createQ
  refine .ite rfl (.ite rfl (.ite rfl ?_))
  split
  · rfl
  · exact .ite rfl rfl

theorem State.mopRetry_sameGist (s : State) : s.SameGist s.mopRetry := by
  unfold State.mopRetry
  split
  · rfl
  next op ctx q a _ =>
    by_cases hop : op = 1
    · simp only [if_pos hop]
      exact State.createCtx_sameGist { s with plat := { s.plat with maddr := a } }
    · simp only [if_neg hop]
      exact State.createQ_sameGist ctx q { s with plat := { s.plat with maddr := a } }

theorem State.mopDone_sameGist (s : State) (ctx : Nat) : s.SameGist (s.mopDone ctx) := by
  unfold State.mopDone
  split
  · rfl
  · exact .ite (.ite rfl rfl) (.ite rfl rfl)

theorem State.destroyQueueOp_sameGist (ctx q : Nat) (s : State) : s.SameGist (State.destroyQueueOp ctx q s) := by
  unfold State.destroyQueueOp
  exact .ite rfl (State.mopDone_sameGist _ ctx)

theorem State.destroyCtx_sameGist (ctx : Nat) (s : State) : s.SameGist (State.destroyCtx ctx s) := by
  unfold State.destroyCtx
  split
  · rfl
  · exact State.mopDone_sameGist _ ctx

theorem State.mop_sameGist {s : State} {f : State → State} (hf : s.SameGist (f s)) : s.SameGist (s.mop f) :=
  .ite rfl (.ite rfl hf)

theorem Platform.writePcap_gist (p : Platform) (width : Nat) (v : W64) : (p.writePcap width v).gist = p.gist :=
  (apply_ite Platform.gist _ _ _).trans (ite_self _)

theorem Platform.refclk_gist (p : Platform) : p.refclk.gist = p.gist := (apply_ite Platform.gist _ _ _).trans (ite_self _)

theorem State.writeEnergy_sameGist (s : State) (off width : Nat) (v : W64) : s.SameGist (s.writeEnergy off width v) :=
  .ite (s.plat.writePcap_gist _ _) (.ite rfl rfl)

theorem execBar2Access_sameGist {a : HostAccess} {s t : State} (h : execBar2Access a s = .next t) : s.SameGist t := by
  simp only [execBar2Access] at h
  split at h <;> cases h
  · rfl
  · refine .ite (.ite rfl rfl) ?_
    simp only [State.SameGist, State.stagingAccess, Platform.gist, Option.isSome_map]

theorem execEnergyCharge_sameGist {r : EnergyReading} {s t : State} (h : execEnergyCharge r s = .next t) : s.SameGist t := by
  simp only [execEnergyCharge] at h
  split at h <;> (cases h; rfl)

theorem execQueueFree_sameGist {ctx q : Nat} {s t : State} (h : execQueueFree ctx q s = .next t) : s.SameGist t := by
  simp only [execQueueFree] at h
  cases h
  exact .ite (State.mopDone_sameGist _ ctx) rfl

theorem execPpscaploRead_sameGist {s t : State} (h : execPpscaploRead s = .next t) : s.SameGist t := by
  simp only [execPpscaploRead] at h
  split at h <;> (cases h; rfl)

end Sys2Proof.Machine

/-! ### Changes of the platform that keep the invariant -/

namespace Sys2Proof.Spec

open Sys2Proof.Machine

theorem clusterBits_cp {k : Nat} (hk : k < 8) : (clusterBits k).getLsbD 63 = false := by
  interval_cases k <;> decide

theorem PlatformOk.sameGist {s t : State} (hp : PlatformOk s.plat) (h : s.SameGist t) : PlatformOk t.plat :=
  platformOk_of_gist_eq hp h

theorem PlatformOk.choose {c : Prop} [Decidable c] {a b : State} (ha : PlatformOk a.plat) (hb : PlatformOk b.plat) :
    PlatformOk (if c then a else b).plat := by
  split
  · exact ha
  · exact hb

section Kept

variable {p : Platform} (hp : PlatformOk p)

include hp

theorem PlatformOk.ite {c : Prop} [Decidable c] {q : Platform} (hq : c → PlatformOk q) : PlatformOk (if c then q else p) := by
  split
  next h => exact hq h
  next => exact hp

theorem PlatformOk.resetRelease (hs : p.tripped = false) :
    PlatformOk { p with inReset := false, dtime := 0, dfrac := 0, cycles := 0 } := by
  obtain ⟨-, hlock, hlo, hhi, hfw, hcp, hboot, hatt⟩ := hp
  exact ⟨fun h => absurd h (by simp [hs]), hlock, hlo, hhi, hfw, hcp, hboot, hatt⟩

/-- The discipline may change so long as LOCK needs EN. -/
theorem PlatformOk.withPps {q : Pps} (hq : q.lock = true → q.en = true) : PlatformOk { p with pps := q } := by
  obtain ⟨htrip, -, hlo, hhi, hfw, hcp, hboot, hatt⟩ := hp
  exact ⟨htrip, hq, hlo, hhi, hfw, hcp, hboot, hatt⟩

/-- The increment steered by an edge stays in its bounds (R411). -/
theorem PlatformOk.steered_bounds (tick diff : Nat) :
    42520176231 ≤ steered tick p.inc diff ∧ steered tick p.inc diff ≤ 43379169689 := by
  obtain ⟨-, -, hlo, hhi, -⟩ := hp
  simp only [steered, clampInc]
  split
  · exact ⟨hlo, hhi⟩
  · split <;> omega

theorem PlatformOk.capture (hen : p.pps.en = true) (tick : Nat) : PlatformOk (p.capture tick) := by
  have hpps {q : Pps} (hq : q.en = p.pps.en) : PlatformOk { p with pps := q } := hp.withPps fun _ => hq.trans hen
  simp only [Platform.capture]
  split
  · exact hpps rfl
  next a _ =>
    split
    · exact hpps rfl
    · obtain ⟨hlo, hhi⟩ := hp.steered_bounds tick (p.dtime - a).toNat
      obtain ⟨htrip, -, -, -, hfw, hcp, hboot, hatt⟩ := hp
      exact ⟨htrip, fun _ => hen, hlo, hhi, hfw, hcp, hboot, hatt⟩

theorem PlatformOk.writePpsctl (v : W32) : PlatformOk (p.writePpsctl v) := by
  unfold Platform.writePpsctl
  split
  · exact hp
  · split
    · exact hp.withPps fun _ => rfl
    · exact hp.withPps nofun

theorem PlatformOk.withAttStatus {n : Nat} (hn : n ≤ 3) (latched : BitVec 256) (rep : List Byte) :
    PlatformOk { p with attStatus := n, latched, attrep := rep } := by
  obtain ⟨htrip, hlock, hlo, hhi, hfw, hcp, hboot, -⟩ := hp
  exact ⟨htrip, hlock, hlo, hhi, hfw, hcp, hboot, hn⟩

theorem PlatformOk.go : PlatformOk p.go := by
  unfold Platform.go
  split
  · exact hp
  · split
    · exact hp.withAttStatus (by decide) _ _
    · split
      · exact hp
      · exact hp.withAttStatus (by decide) _ _

theorem PlatformOk.writeI3c (off width : Nat) (v : W64) : PlatformOk (p.writeI3c off width v) := by
  simp only [Platform.writeI3c]
  split
  · exact hp
  · split
    · exact hp.writePpsctl _
    · split
      · exact platformOk_of_gist_eq hp rfl
      · split
        · exact hp.ite fun _ => hp.go
        · exact hp

/-- With no function ready, the firmware may change. -/
theorem PlatformOk.firmware {q : Platform} (hready : p.ready = 0)
    (h : q.gist = { p with fw := q.fw, booting := q.booting }.gist) : PlatformOk q := by
  obtain ⟨htrip, hlock, hlo, hhi, -, -, -, hatt⟩ := hp
  exact platformOk_of_gist_eq (p := { p with fw := q.fw, booting := q.booting })
    ⟨htrip, hlock, hlo, hhi, fun _ => hready, fun _ => hready, fun _ => hready, hatt⟩ h

theorem PlatformOk.bootStart (hcp : p.ready.getLsbD 63 = false) (tick : Nat) : PlatformOk (p.bootStart tick) := by
  have hready : p.ready = 0 := by
    obtain ⟨-, -, -, -, -, hcp', -, -⟩ := hp
    exact hcp' hcp
  unfold Platform.bootStart
  split
  · exact hp.firmware hready rfl
  · split <;> exact hp.firmware hready rfl

theorem PlatformOk.bootEnd {b : Nat × Memory} (hb : p.booting = some b) (a : Nat) (m : Memory) : PlatformOk (p.bootEnd a m) := by
  have hready : p.ready = 0 := by
    obtain ⟨-, -, -, -, -, -, hboot, -⟩ := hp
    exact hboot (by simp [hb])
  unfold Platform.bootEnd
  split <;> exact hp.firmware hready rfl

/-- CP rises once an image runs and none is checked; the others, once CP has risen (R415). -/
theorem PlatformOk.rise {bit : Nat} (hbit : p.mayRise bit = true) (m : Memory) :
    PlatformOk { p with ready := p.ready ||| (1#64 <<< bit), staging := m } := by
  obtain ⟨htrip, hlock, hlo, hhi, hfw, hcp, hboot, hatt⟩ := hp
  have hfw' : p.fw ≠ none ∧ p.booting.isSome = false ∧ (p.ready ||| (1#64 <<< bit)).getLsbD 63 = true := by
    unfold Platform.mayRise at hbit
    split at hbit
    next h63 =>
      subst h63
      simp only [Bool.and_eq_true, Option.isSome_iff_ne_none, Option.isNone_iff_eq_none] at hbit
      exact ⟨hbit.1, by simp [hbit.2], by simp⟩
    next =>
      simp only [Bool.and_eq_true] at hbit
      have hr : p.ready.getLsbD 63 = true := hbit.1.2
      have hne : p.ready ≠ 0 := fun h0 => by simp [h0] at hr
      exact ⟨fun h => hne (hfw h), eq_false_of_ne_true fun h => hne (hboot h), by simp [hr]⟩
  obtain ⟨hsome, hidle, hset⟩ := hfw'
  exact ⟨htrip, hlock, hlo, hhi, fun h => absurd h hsome, fun h => absurd (hset.symm.trans h) (by decide),
    fun h => absurd (hidle.symm.trans h) (by decide), hatt⟩

/-- Bits of READY that fall leave CP, whatever cluster goes offline (R427). -/
theorem PlatformOk.takeOffline {k : Nat} (hk : k < 8) : PlatformOk (p.takeOffline k) := by
  obtain ⟨htrip, hlock, hlo, hhi, hfw, hcp, hboot, hatt⟩ := hp
  have hz (h : p.ready = 0) : (p.takeOffline k).ready = 0 := by simp [Platform.takeOffline, h]
  have h63 : (p.takeOffline k).ready.getLsbD 63 = p.ready.getLsbD 63 := by
    rw [Platform.takeOffline, BitVec.getLsbD_and, BitVec.getLsbD_not, clusterBits_cp hk]
    exact Bool.and_true _
  exact ⟨htrip, hlock, hlo, hhi, fun h => hz (hfw h), fun h => hz (hcp (h63.symm.trans h)), fun h => hz (hboot h), hatt⟩

end Kept

end Sys2Proof.Spec

namespace Sys2Proof.Machine

open Sys2Proof.Spec

/-! ### Every event that acts on the platform, and the step -/

/-- An event that acts on the platform alone keeps the invariant when what it does to it does. -/
theorem State.onPlat_platformOk {s t : State} {f : Platform → Platform} (hf : PlatformOk (f s.plat))
    (h : s.onPlat f = .next t) : PlatformOk t.plat := by
  cases h
  exact hf

section Events

variable {s t : State} (hp : PlatformOk s.plat)

include hp

theorem execThermtrip_platformOk {k : Nat} {v : BitVec 16} (h : execThermtrip k v s = .next t) : PlatformOk t.plat := by
  unfold execThermtrip at h
  split at h <;> cases h
  · exact Platform.intoReset_ok _ _ _
  · exact hp

theorem execClockControl_platformOk {temps : List (BitVec 16)} (h : execClockControl temps s = .next t) :
    PlatformOk t.plat := by
  simp only [execClockControl] at h
  cases h
  split
  · exact Platform.intoReset_ok _ _ _
  · split <;> exact platformOk_of_gist_eq hp rfl

theorem execFunctionReady_platformOk {bit : Nat} (h : execFunctionReady bit s = .next t) : PlatformOk t.plat := by
  simp only [execFunctionReady] at h
  split at h <;> cases h
  · exact hp
  next hb =>
    simp only [Bool.or_eq_true, Bool.not_eq_true', not_or, Bool.not_eq_false] at hb
    have hrise := hp.rise hb.2 (if bit = 63 then [] else s.plat.staging)
    split
    · exact platformOk_of_gist_eq hrise (State.mopRetry_sameGist _)
    · exact hrise

theorem execControlParityError_platformOk {k : Nat} (h : execControlParityError k s = .next t) : PlatformOk t.plat := by
  simp only [execControlParityError] at h
  split at h <;> cases h
  · exact hp
  next hk =>
    simp only [Bool.or_eq_true, decide_eq_true_eq, not_or, Nat.not_le] at hk
    exact hp.takeOffline hk.1

theorem State.boot_platformOk : PlatformOk s.boot.plat := by
  unfold State.boot
  split
  · exact hp
  · split
    · exact platformOk_of_gist_eq hp rfl
    next hcp => exact hp.bootStart (eq_false_of_ne_true hcp) _

theorem execBoot_platformOk (h : execBoot s = .next t) : PlatformOk t.plat := by
  unfold execBoot at h
  split at h <;> cases h
  next hb => exact hp.bootEnd hb _ _
  next => exact State.boot_platformOk hp

theorem State.writeMop_platformOk (v : W64) : PlatformOk (s.writeMop v).plat := by
  have hmop {f : State → State} (hf : s.SameGist (f s)) : PlatformOk (s.mop f).plat := hp.sameGist (State.mop_sameGist hf)
  simp only [State.writeMop]
  split
  · exact hmop s.createCtx_sameGist
  · exact hmop (State.destroyCtx_sameGist _ s)
  · exact hmop (State.createQ_sameGist _ _ s)
  · exact hmop (State.destroyQueueOp_sameGist _ _ s)
  · exact State.boot_platformOk hp
  · exact hmop rfl

theorem State.writeBar0_platformOk (off width : Nat) (v : W64) : PlatformOk (s.writeBar0 off width v).plat := by
  have hrest {u : State} (hu : s.SameGist u) : PlatformOk u.plat := hp.sameGist hu
  unfold State.writeBar0
  exact .choose hp (.choose (hrest rfl) (.choose (State.writeMop_platformOk hp _) (hrest (.ite (.withDev s _)
    (.ite (.withDev s _) (.ite (.withDev s _) (.ite (s.writeEnergy_sameGist _ _ _) (.ite (.withDev s _) rfl))))))))

theorem execRegisterWrite_platformOk {space : RegSpace} {off width : Nat} {v : W64}
    (h : execRegisterWrite space off width v s = .next t) : PlatformOk t.plat := by
  unfold execRegisterWrite at h
  split at h
  · cases h; exact hp
  · split at h <;> cases h
    · exact State.writeBar0_platformOk hp _ _ _
    · exact hp.writeI3c _ _ _

theorem execResetRelease_platformOk : execResetRelease s = .next t → PlatformOk t.plat :=
  State.onPlat_platformOk (hp.ite fun h => hp.resetRelease (by simp at h; exact h.1.2))

theorem execLinkTraining_platformOk {high : Bool} : execLinkTraining high s = .next t → PlatformOk t.plat :=
  State.onPlat_platformOk (platformOk_of_gist_eq hp ((apply_ite Platform.gist _ _ _).trans (ite_self _)))

theorem execPpsEdge_platformOk : execPpsEdge s = .next t → PlatformOk t.plat :=
  State.onPlat_platformOk (by
    have hedge : PlatformOk { s.plat with pps := { s.plat.pps with edge := some s.plat.dtime } } :=
      platformOk_of_gist_eq hp rfl
    split
    · exact hp
    · dsimp only
      split
      next hen => exact hedge.capture hen _
      next => exact hedge)

theorem execPpsEdgeMissed_platformOk : execPpsEdgeMissed s = .next t → PlatformOk t.plat :=
  State.onPlat_platformOk (hp.ite fun _ => hp.withPps nofun)

theorem execPpsSeenExpiry_platformOk : execPpsSeenExpiry s = .next t → PlatformOk t.plat :=
  State.onPlat_platformOk (hp.ite fun _ => platformOk_of_gist_eq hp rfl)

theorem execAttestationReport_platformOk : execAttestationReport s = .next t → PlatformOk t.plat :=
  State.onPlat_platformOk (by
    split
    · exact hp
    · split
      · exact hp
      · exact hp.withAttStatus (by decide) _ _)

/-- Every event that acts on the platform keeps its invariant. -/
theorem exec_actsOnPlatform_platformOk {i : Instr} (hi : actsOnPlatform i = true) (h : exec i s = .next t) :
    PlatformOk t.plat := by
  cases i with
  | registerWrite => exact execRegisterWrite_platformOk hp h
  | bar2Access => exact hp.sameGist (execBar2Access_sameGist h)
  | thermtrip => exact execThermtrip_platformOk hp h
  | functionReady => exact execFunctionReady_platformOk hp h
  | queueFree => exact hp.sameGist (execQueueFree_sameGist h)
  | energyCharge => exact hp.sameGist (execEnergyCharge_sameGist h)
  | clockControl => exact execClockControl_platformOk hp h
  | controlParityError => exact execControlParityError_platformOk hp h
  | reset => cases h; exact Platform.intoReset_ok _ _ _
  | ppscaploRead => exact hp.sameGist (execPpscaploRead_sameGist h)
  | boot => exact execBoot_platformOk hp h
  | createQueue => cases h; exact hp.sameGist (State.mop_sameGist (State.createQ_sameGist _ _ s))
  | destroyContext => cases h; exact hp.sameGist (State.mop_sameGist (State.destroyCtx_sameGist _ s))
  | destroyQueue => cases h; exact hp.sameGist (State.mop_sameGist (State.destroyQueueOp_sameGist _ _ s))
  | createContext => cases h; exact hp.sameGist (State.mop_sameGist s.createCtx_sameGist)
  | linkTraining => exact execLinkTraining_platformOk hp h
  | ppsctlWrite => cases h; exact hp.writePpsctl _
  | pcapWrite => cases h; exact platformOk_of_gist_eq hp (s.plat.writePcap_gist _ _)
  | resetRelease => exact execResetRelease_platformOk hp h
  | ppsEdge => exact execPpsEdge_platformOk hp h
  | ppsEdgeMissed => exact execPpsEdgeMissed_platformOk hp h
  | attctlGo => cases h; exact hp.go
  | attestationReport => exact execAttestationReport_platformOk hp h
  | refclkEdge => cases h; exact platformOk_of_gist_eq hp s.plat.refclk_gist
  | ppsSeenExpiry => exact execPpsSeenExpiry_platformOk hp h
  | _ => cases hi

/-- Every instruction and event keeps the platform's invariant. -/
theorem exec_platformOk {i : Instr} (h : exec i s = .next t) : PlatformOk t.plat := by
  cases hi : actsOnPlatform i with
  | true => exact exec_actsOnPlatform_platformOk hp hi h
  | false =>
    obtain ⟨d, rfl⟩ := exec_onlyDevice i s hi t h
    exact hp

end Events

theorem PlatformStep.platformOk {p q : Platform} (hp : PlatformOk p) (h : PlatformStep p q) : PlatformOk q := by
  obtain rfl | ⟨i, s, t, rfl, hexec, rfl⟩ := h
  · exact hp
  · exact exec_platformOk hp hexec

/-- Settles O9: a step moves time, of which the invariant does not speak, and then does to the platform what one instruction or
event does. -/
theorem platformKept : Obligations.PlatformKept := by
  unfold Obligations.PlatformKept
  intro s t hp h
  obtain ⟨rest, hstep⟩ := step_platformStep h
  exact hstep.platformOk (p := (s.begin rest).plat) (platformOk_of_gist_eq hp rfl)

/-- Settles O11: the platform after reset is held in reset with nothing ready, and no group runs. -/
theorem platformAtReset : Obligations.PlatformAtReset :=
  ⟨Platform.reset.intoReset_ok false [], nofun⟩

end Sys2Proof.Machine

/-! SUPPORT and O6. Every instruction and event answers a next state or a fault: the shared operations refuse nothing, and every
arm of the dispatcher is one of them or a next state. -/

namespace Sys2Proof.Machine

/-- The outcome is no refusal. -/
def Answered (o : Host.Outcome State Fault Refusal) : Prop := ∀ r, o ≠ .refused r

theorem Answered.next (t : State) : Answered (.next t) := nofun

theorem Answered.fault (f : Fault) : Answered (.fault f) := nofun

theorem Answered.ite {c : Prop} [Decidable c] {a b : Host.Outcome State Fault Refusal} (ha : Answered a) (hb : Answered b) :
    Answered (if c then a else b) := by
  split
  · exact ha
  · exact hb

/-! ### The shared operations -/

section Shared

variable (s : State)

theorem State.close_answered (x : View) (r : Except Miss Device) : Answered (s.close x r) := by
  cases r <;> exact .next _

theorem State.onView_answered (spans : List (Nat × Nat)) (f : View → Out) : Answered (s.onView spans f) := by
  unfold State.onView
  split
  · exact .fault _
  · split <;> exact s.close_answered _ _

theorem State.onDevice_answered (spans : List (Nat × Nat)) (f : Env → SplitRef → Device → View → Res) :
    Answered (s.onDevice spans f) := by
  unfold State.onDevice
  split
  · exact .fault _
  · split
    · split
      · exact s.close_answered _ _
      · exact .next _
    · exact .next _
    · exact .next _
    · exact s.close_answered _ _

theorem State.onDev_answered (ctx core swarm : Nat) (f : Env → Device → Option (Except Miss Device)) :
    Answered (s.onDev ctx core f swarm) := by
  obtain ⟨d, hd⟩ := s.onDev_next ctx core swarm f
  exact hd ▸ .next _

theorem State.closeParked_answered (core slot : Nat) (g : Group) (r : Except Miss Device) :
    Answered (s.closeParked core slot g r) := by
  unfold State.closeParked
  split <;> exact .next _

theorem State.onParked_answered (core slot lane : Nat) (f : Env → SplitRef → Device → View → Option Res) :
    Answered (s.onParked core slot lane f) := by
  unfold State.onParked
  split
  · exact .next _
  · split
    · exact .next _
    · exact s.closeParked_answered _ _ _ _
    · exact s.closeParked_answered _ _ _ _
    · exact .next _
    · exact .next _
    · exact s.closeParked_answered _ _ _ _

theorem State.onGroup_answered (core slot : Nat) (f : Env → Device → Group → Option Group) : Answered (s.onGroup core slot f) := by
  unfold State.onGroup
  split
  · exact .next _
  · split <;> exact .next _

/-! ### The shapes of instructions and events -/

theorem State.scalar_answered (n : Nat) (f : View → View) : Answered (s.scalar n f) := s.onView_answered _ _

theorem State.binS_answered (op : W32 → W32 → W32) (d a b : SReg) : Answered (s.binS op d a b) := s.scalar_answered _ _

theorem State.immS_answered (op : W32 → W32 → W32) (d a : SReg) (i : W32) : Answered (s.immS op d a i) := s.scalar_answered _ _

theorem State.branch_answered (f : FmtB) (p : View → Bool) : Answered (s.branch f p) := s.onView_answered _ _

theorem State.vector_answered (i : Instr) (n : Nat) (ms : Pred) (f : View → Mask → View) : Answered (s.vector i n ms f) :=
  s.onView_answered _ _

theorem State.vecV_answered (i : Instr) (f : FmtV) (r : View → Nat → W32 × Flags) : Answered (s.vecV i f r) :=
  s.vector_answered _ _ _ _

theorem State.vecT_answered (i : Instr) (f : FmtV) (r : View → Nat → Bool × Flags) : Answered (s.vecT i f r) :=
  s.vector_answered _ _ _ _

theorem State.access_answered (i : Instr) (n : Nat) (ms : Pred) (f : Env → SplitRef → Device → View → Mask → Res) :
    Answered (s.access i n ms f) := s.onDevice_answered _ _

theorem State.barOp_answered (i : Instr) (f : FmtT) (op : Env → SplitRef → Device → View → Barrier → Res) :
    Answered (s.barOp i f op) := s.onDevice_answered _ _

theorem State.swarmOp_answered (i : Instr) (f : FmtT) (acts : Swarm → Bool)
    (effect : Env → Device → View → Nat → Swarm → Except Miss Device) : Answered (s.swarmOp i f acts effect) :=
  s.access_answered _ _ _ _

theorem State.copyOp_answered (i : Instr) (f : FmtT) (go : Env → SplitRef → Device → View → List W64 → Res) (sealable : Bool) :
    Answered (s.copyOp i f go sealable) := s.access_answered _ _ _ _

theorem State.colq_answered (i : Instr) (f : FmtT) (regionBad : Region → Bool) (laneBad : Region → View → Nat → Bool)
    (query : View → Nat → Query) : Answered (s.colq i f regionBad laneBad query) := s.access_answered _ _ _ _

theorem State.poolOnce_answered (i : Instr) (f : FmtT) (limit : Nat) (go : Env → SplitRef → Device → View → Nat → Res) :
    Answered (s.poolOnce i f limit go) := s.access_answered _ _ _ _

theorem State.modulo_answered (i : Instr) (f : FmtM) (go : SplitRef → Device → View → Nat → List (Nat × Nat) → (View → View) → Res) :
    Answered (s.modulo i f go) := s.access_answered _ _ _ _

theorem State.onPacket_answered (ctx q : Nat) (is : List W64 → Bool) (go : Env → Device → Packet → Except Miss Device) :
    Answered (s.onPacket ctx q is go) := s.onDev_answered _ _ _ _

theorem State.onSplit_answered (core slot lane : Nat) (f : Env → View → Option Split) :
    Answered (s.onSplit core slot lane f) := s.onParked_answered _ _ _ _

theorem State.whenDue_answered (due : Bool) (f : Env → Device → Device) : Answered (s.whenDue due f) := .next _

/-! ### Instructions and events that look at the state before they use a shared operation -/

theorem execTret_answered : Answered (execTret s) := by
  unfold execTret
  split
  · exact .fault _
  · split <;> exact s.close_answered _ _

theorem execPageWalkDone_answered (cluster ctx : Nat) (va : W64) : Answered (execPageWalkDone cluster ctx va s) := by
  simp only [execPageWalkDone]
  split
  · exact .next _
  · split
    · exact .next _
    · split <;> exact .next _

theorem execGqTileDeliver_answered (core q : Nat) : Answered (execGqTileDeliver core q s) := by
  unfold execGqTileDeliver
  split
  · exact .next _
  · exact s.onParked_answered _ _ _ _

theorem execJoinDecrement_answered (idx : Nat) : Answered (execJoinDecrement idx s) := by
  unfold execJoinDecrement
  split
  · exact .next _
  · exact s.onDev_answered _ _ _ _

theorem execSealedRequeue_answered (idx : Nat) : Answered (execSealedRequeue idx s) := by
  unfold execSealedRequeue
  split
  · exact .next _
  · exact s.onDev_answered _ _ _ _

theorem execDevicePushRetry_answered (idx : Nat) : Answered (execDevicePushRetry idx s) := by
  unfold execDevicePushRetry
  split
  · exact .next _
  · exact s.onDev_answered _ _ _ _

theorem execRegisterWrite_answered (space : RegSpace) (off width : Nat) (v : W64) :
    Answered (execRegisterWrite space off width v s) := by
  unfold execRegisterWrite
  split
  · exact .next _
  · split <;> exact .next _

theorem execBoot_answered : Answered (execBoot s) := by
  unfold execBoot
  split <;> exact .next _

end Shared

/-! ### The dispatcher -/

/-- Every arm of the dispatcher is a shared operation or a next state. -/
theorem exec_answered (i : Instr) (s : State) : Answered (exec i s) := by
  cases i with
  | nop | smov | smovPair | smovImm | sli | sadd64 | sadd64Imm | ssub64 | ssub64Imm | slea | sleaImm | spopc | spopcL | sclz
    | sclzL | sbfx | sbfi | smask =>
    dsimp only [exec]
    exact s.scalar_answered _ _
  | scmp =>
    dsimp only [exec, execScmp]
    exact s.scalar_answered _ _
  | sadd | ssub | smul | smulhs | smulhn | sand | sor | sxor | sandn | sshl | sshr | ssar | smin | smax | sminn | smaxn |
    sdivn | sremn =>
    dsimp only [exec]
    exact s.binS_answered _ _ _ _
  | saddImm | ssubImm | smulImm | smulhsImm | smulhnImm | sandImm | sorImm | sxorImm | sandnImm | sshlImm | sshrImm |
    ssarImm | sminImm | smaxImm | sminnImm | smaxnImm | sdivnImm | sremnImm =>
    dsimp only [exec]
    exact s.immS_answered _ _ _ _
  | br | brs | brany =>
    dsimp only [exec]
    exact s.branch_answered _ _
  | brv | bway | jmp | call | calli | ret | syncs | exit | exitAll | yield | yieldImm | trap | smovr | smovw | mma | mmas |
    aclr | adrain | amerge | mtrans | fetchFault | illop =>
    dsimp only [exec]
    exact s.onView_answered _ _
  | vli | vbcst | vlane | vscan | vrowmap | vbfx | vv2s | vcvt | vcvts | vrand | vseed | vdot8 | vdot4 | vred =>
    dsimp only [exec]
    exact s.vector_answered _ _ _ _
  | vmov | vadd | vsub | vmul | vmulh | vmad | vand | vor | vxor | vandn | vshl | vshr | vsar | vmin | vmax | vabs | vsel |
    vpopc | vclz | vshuf | vpack | vunpk | vfadd | vfsub | vfmul | vfma | vfms | vfmin | vfmax | vfabs | vfneg | vfdiv |
    vfsqrt | vfclass | vfadda | vfdot2 | vfscale | vfrnd | vrcp | vrsq | vexp2 | vlog2 | vsin | vcos | vtanh | vsigm |
    vmkabs =>
    dsimp only [exec]
    exact s.vecV_answered _ _ _
  | vcmp | vfcmp | visabs =>
    dsimp only [exec]
    exact s.vecT_answered _ _ _
  | watch | gqpop =>
    dsimp only [exec]
    exact s.onDevice_answered _ _
  | qld | ldg | stg | lds | sts | ldfrag | ldu | stsc | atomg | atoms | redg | bestmax | tld | tst | hld | citer | ccount |
    fence | cache | disc | spawn | jrec | fnew | fres | fwait | fpoll | freg | fcan | swnew | gqcfg | gqpush | gqflush |
    palloc | pfree | hstw | sigdec =>
    dsimp only [exec]
    exact s.access_answered _ _ _ _
  | barInit | barArrive | barWait | barExpect | barTest =>
    dsimp only [exec]
    exact s.barOp_answered _ _ _
  | swdl | swcan | swendClose | swendRun =>
    dsimp only [exec]
    exact s.swarmOp_answered _ _ _ _
  | cpy | cpydn | dyns =>
    dsimp only [exec]
    exact s.copyOp_answered _ _ _ _
  | colqQpoint | colqQsphere | colqQseg =>
    dsimp only [exec]
    exact s.colq_answered _ _ _ _ _
  | pdef | preset | regdef =>
    dsimp only [exec]
    exact s.poolOnce_answered _ _ _ _
  | ldsm | stsm =>
    dsimp only [exec]
    exact s.modulo_answered _ _ _
  | nopPacket | launch | tasks | copyPacket | signalPacket | waitPacket | graph | rangeInval | rangeAcquire | rangeRelease |
    rangeClass | stream =>
    dsimp only [exec]
    exact s.onPacket_answered _ _ _ _
  | packetRead | packetComplete | graphNodeComplete | sealCommitDone | copyComplete | copyFault | deadlineExpiry |
    waitSatisfied | swarmCancelComplete | swarmFree | preempt =>
    dsimp only [exec]
    exact s.onDev_answered _ _ _ _
  | teamAdmit | cancelDelivery | colqQueryDone | dynsBodyStep | teamResume =>
    dsimp only [exec, execTeamAdmit, execCancelDelivery, execColqQueryDone, execDynsBodyStep, execTeamResume]
    exact s.onDev_answered _ _ _ _
  | qwidxWrite | sridxWrite | teamFree | erridxWrite | residencyWaitEnd | coreGateDecide | coreGateCommit | coreWake |
    correctedError | uncorrectableError | erdropRead =>
    dsimp only [exec]
    exact s.whenDue_answered _ _
  | drainStampReached | gqTimeout | engineEntryStart | coalesceTimeout | streamTimeout | engineGate =>
    dsimp only [exec, execDrainStampReached, execGqTimeout, execEngineEntryStart, execCoalesceTimeout, execStreamTimeout,
      execEngineGate]
    exact s.whenDue_answered _ _
  | watchWake | watchTimeout | barWaitTimeout | gqpushRetry | spawnRetry | fwaitRecheck | fwaitPollTimeout | hstwResume |
    splitEligibilityBoost =>
    dsimp only [exec]
    exact s.onParked_answered _ _ _ _
  | yieldEnd | spinDemote | spinRestore | spinRestoreTimeout =>
    dsimp only [exec]
    exact s.onSplit_answered _ _ _ _
  | instructionComplete | sealStoreStallEnd | starvationBoost | splitFillDone =>
    dsimp only [exec]
    exact s.onGroup_answered _ _ _
  | queueFree | clockControl | reset | createQueue | destroyContext | destroyQueue | createContext | linkTraining | ppsctlWrite
    | pcapWrite | resetRelease | ppsEdge | ppsEdgeMissed | attctlGo | attestationReport | refclkEdge | ppsSeenExpiry =>
    dsimp only [exec]
    exact .next _
  | bar2Access | thermtrip | functionReady | energyCharge | controlParityError | ppscaploRead =>
    dsimp only [exec]
    exact .ite (.next _) (.next _)
  | tret => dsimp only [exec]; exact execTret_answered s
  | pageWalkDone => dsimp only [exec]; exact execPageWalkDone_answered s _ _ _
  | gqTileDeliver => dsimp only [exec]; exact execGqTileDeliver_answered s _ _
  | joinDecrement => dsimp only [exec]; exact execJoinDecrement_answered s _
  | sealedRequeue => dsimp only [exec]; exact execSealedRequeue_answered s _
  | devicePushRetry => dsimp only [exec]; exact execDevicePushRetry_answered s _
  | registerWrite => dsimp only [exec]; exact execRegisterWrite_answered s _ _ _ _
  | boot => dsimp only [exec]; exact execBoot_answered s

/-- Settles O6, arm by arm of the dispatcher. -/
theorem nothingRefused : Obligations.NothingRefused := exec_answered

end Sys2Proof.Machine

/-! SUPPORT and O24. Vector instructions of format V: the word and the flags that each active lane gives (R127, R128, R133 to
R167). -/

namespace Sys2Proof.Machine

open Sys2Proof.Spec Sys2Proof.Safety

section WriteV

variable (x : View) (m : Mask) (d : Nat) (f : Nat → W32 × Flags)

theorem View.writeV_eq : x.writeV m d f = View.raiseFlags
    { x with g := x.g.setVs d ((lanesOf m).map (fun l => (l, (f l).1))) } (orFlags ((lanesOf m).map (fun l => (f l).2))) := by
  simp only [View.writeV, List.map_map]
  rfl

/-- With no lane there is no effect. -/
theorem View.writeV_zero : x.writeV 0 d f = x := by
  rw [View.writeV_eq, lanesOf_zero]
  rfl

theorem View.writeV_sp : (x.writeV m d f).sp = x.sp := by rw [View.writeV_eq, View.raiseFlags_eq]

/-- Of the group only vector registers and the flags in flight change. -/
theorem View.writeV_group : ∃ v, (x.writeV m d f).g = { x.g with
    v, inflight := x.g.inflight ++ (if orFlags ((lanesOf m).map (fun l => (f l).2)) = 0 then []
      else [orFlags ((lanesOf m).map (fun l => (f l).2))]) } := by
  rw [View.writeV_eq, View.raiseFlags_eq, Group.setVs_eq]
  exact ⟨_, rfl⟩

theorem View.v_writeV (q : Nat) {l : Nat} (hl : l < 96) :
    (x.writeV m d f).v q l = if q = d ∧ m.getLsbD l = true then (f l).1 else x.v q l := by
  rw [View.writeV_eq, View.raiseFlags_eq]
  refine (Group.vreg_setVs x.g d (fun l => (f l).1) (fun _ => lt_of_mem_lanesOf) hl).trans ?_
  simp only [mem_lanesOf, View.v]

end WriteV

/-- Format V goes on with the results of its active lanes. -/
theorem State.vecV_next {s : State} {x : View} {i : Instr} {f : FmtV} (r : View → Nat → W32 × Flags)
    (hx : s.issuer = some x) (hr : x.g.inRange i.spans = true) :
    s.vecV i f r = .next (s.after x ((x.writeV (x.active f.ms) f.vd.toNat (r x)).next 8)) :=
  State.vector_next hx hr (x.writeV_zero _ _)

/-- The instructions of format V go on with the results of their active lanes. -/
theorem exec_of_laneResult {i : Instr} {f : FmtV} {r : View → Nat → W32 × Flags} {s : State} {x : View}
    (h : laneResult i = some (f, r)) (hx : s.issuer = some x) (hr : x.g.inRange i.spans = true) :
    exec i s = .next (s.after x ((x.writeV (x.active f.ms) f.vd.toNat (r x)).next 8)) := by
  cases i with
  | vmov | vadd | vsub | vmul | vmad | vand | vor | vxor | vandn | vshl | vshr | vsar | vmin | vmax | vabs | vsel | vpopc | vclz
    | vshuf | vpack | vunpk | vfadd | vfsub | vfmul | vfdiv | vfma | vfms | vfmin | vfmax | vfabs | vfneg | vfsqrt | vfclass
    | vfadda | vfdot2 | vfscale | vfrnd | vrcp | vrsq | vexp2 | vlog2 | vsin | vcos | vtanh | vsigm | vmkabs =>
    cases h
    exact State.vecV_next _ hx hr
  | vmulh =>
    cases h
    refine (State.vecV_next _ hx hr).trans ?_
    by_cases hty : f.ty = .n32 <;> simp only [hty, if_true, if_false]
  | vbcst =>
    cases h
    dsimp only [exec, execVbcst]
    exact State.vector_next hx hr (x.writeV_zero _ _)
  | vscan =>
    cases h
    change execVscan f s = _
    unfold execVscan
    exact State.vector_next hx hr (x.writeV_zero _ _)
  | vlane =>
    cases h
    dsimp only [exec, execVlane]
    refine (State.vector_next hx hr ?_).trans ?_
    · exact x.writeV_zero _ _
    · refine congrArg (fun r => Host.Outcome.next (s.after x ((x.writeV (x.active f.ms) f.vd.toNat r).next 8))) (funext fun l => ?_)
      split
      next h => rw [if_pos (BitVec.eq_of_toNat_eq h)]
      next h =>
        have h1 : f.md = 1 := BitVec.eq_of_toNat_eq h
        rw [h1]
        rfl
      next h0 h1 => rw [if_neg fun h => h0 (congrArg BitVec.toNat h), if_neg fun h => h1 (congrArg BitVec.toNat h)]
  | _ => cases h

/-- Settles O24: each instruction writes its lanes' words and raises their flags. -/
theorem vectorCompletes : Obligations.VectorCompletes := by
  unfold Obligations.VectorCompletes
  intro i f r s x h hx hr
  have hv := x.v_writeV (x.active f.ms) f.vd.toNat (r x)
  obtain ⟨v, hg⟩ := x.writeV_group (x.active f.ms) f.vd.toNat (r x)
  exact ⟨_, exec_of_laneResult h hx hr, x.writeV_sp _ _ _, by rw [hg], by rw [hg]; rfl,
    fun l hl ha => (hv _ hl).trans (if_pos ⟨rfl, ha⟩), fun q l hl hn => (hv q hl).trans (if_neg hn), by rw [hg]; exact ⟨rfl, rfl⟩⟩

end Sys2Proof.Machine

/-! SUPPORT and O46. Cell pools and the definition of regions: what an instruction with a number in SB comes to, and the lanes of
PALLOC and PFREE (R316 to R321, R324). -/

namespace Sys2Proof.Machine

/-- A change of vector registers keeps the seal buffer. -/
theorem Group.foldl_sealBuf {α : Type} {step : Group → α → Group} (h : ∀ g a, (step g a).sealBuf = g.sealBuf) (l : List α)
    (g : Group) : (l.foldl step g).sealBuf = g.sealBuf := by
  induction l generalizing g with
  | nil => rfl
  | cons a l ih => exact (ih (step g a)).trans (h g a)

/-- An open group records no operation on cells (R322). -/
theorem View.poolNote_of_open {x : View} (hopen : x.g.sealBuf = none) (free : Bool) (pool : Nat) (gen : W32)
    (cells : List Nat) : x.poolNote free pool gen cells = x := by
  simp only [View.poolNote, hopen]

/-- An open group needs no room for pool records (R322). -/
theorem poolRoom_of_open {x : View} (hopen : x.g.sealBuf = none) (d : Device) (act : Mask) (go : View → Res) :
    poolRoom d x act go = go x := by
  simp only [poolRoom, hopen]

/-- PALLOC and PFREE act on a defined pool other than pool 0 (R319). -/
theorem allocPool_of_defd {d : Device} {x : View} {f : FmtT} {k : Nat} (hk : k = (x.s f.sb.toNat).toNat) (hlt : k < 64)
    (hne : k ≠ 0) (hp : (d.pool x.g.ctx k).defd = true) (act : Mask) (go : Nat → Pool → Res) :
    allocPool d x f act go = go k (d.pool x.g.ctx k) := by
  subst hk
  simp [allocPool, hp, hne, Nat.not_le.mpr hlt]

section Pools

variable {f : FmtT} {s : State} {x : View} (hx : s.issuer = some x) (hopen : x.g.sealBuf = none) (ha : x.active f.ms ≠ 0)

include hx hopen ha

/-- An instruction that acts once, its number below the limit, goes on as it does with that number (R316). -/
theorem State.poolOnce_view {i : Instr} {limit k : Nat} {go : Env → SplitRef → Device → View → Nat → Res} {d : Device}
    {y : View} (hr : x.g.inRange i.spans = true) (hk : k = (x.s f.sb.toNat).toNat) (hlt : k < limit)
    (hgo : go s.env s.cur s.dev x k = Res.view d s.cur.key y) : s.poolOnce i f limit go = .next (s.afterOn d x y) := by
  subst hk
  exact State.access_view hx hr ha ((Group.ite_sealed_of_open hopen _ _).trans ((if_neg (Nat.not_le.mpr hlt)).trans hgo))

theorem execPdef_next {k : Nat} {l : Run} {bytes : List Byte} {q : Device × W32}
    (hr : x.g.inRange (Instr.pdef f).spans = true) (hk : k = (x.s f.sb.toNat).toNat) (hlt : k < 64)
    (hl : s.dev.descRun s.env s.cur.core x.g 32 32 (x.pair f.sa.toNat) = .ok (l, bytes))
    (hq : q = (s.dev.descTouch s.cur.core x.g.ctx l).pdef x.g.ctx k (bytesToWords bytes)) :
    execPdef f s = .next (s.afterOn q.1 x ((x.setS f.sd.toNat q.2).next 8)) := by
  subst hq
  exact State.poolOnce_view hx hopen ha hr hk hlt (by simp only [hl])

theorem execPreset_next {k : Nat} (hr : x.g.inRange (Instr.preset f).spans = true) (hk : k = (x.s f.sb.toNat).toNat)
    (hlt : k < 64) (hne : k ≠ 0) : execPreset f s = .next (s.afterOn (s.dev.poolReset x.g.ctx k) x
      ((x.setS f.sd.toNat (if (s.dev.pool x.g.ctx k).defd then 0 else 1)).next 8)) :=
  State.poolOnce_view hx hopen ha hr hk hlt (if_neg hne)

theorem execRegdef_next {k : Nat} {q : Device × W32} (hr : x.g.inRange (Instr.regdef f).spans = true)
    (hk : k = (x.s f.sb.toNat).toNat) (hlt : k < 1024) (hq : q = s.dev.regdef x.g.ctx k (x.pair f.sa.toNat)) :
    execRegdef f s = .next (s.afterOn q.1 x ((x.setS f.sd.toNat q.2).next 8)) := by
  subst hq
  exact State.poolOnce_view hx hopen ha hr hk hlt rfl

theorem execPalloc_next {k : Nat} {d : Device} {got : List (Nat × Option Nat)}
    (hr : x.g.inRange (Instr.palloc f).spans = true) (hk : k = (x.s f.sb.toNat).toNat) (hlt : k < 64) (hne : k ≠ 0)
    (hp : (s.dev.pool x.g.ctx k).defd = true)
    (hroom : f.t = true → (lanesOf (x.active f.ms)).length ≤ (s.dev.pool x.g.ctx k).count - (s.dev.pool x.g.ctx k).live)
    (hd : eachLane (fun d (_ : Unit) => laneOf (d.allocLane s.env x.g.ctx k (f.opt.getLsbD 0)))
      ((lanesOf (x.active f.ms)).map (fun l => (l, ()))) (s.dev.order s.cur.core .acq .dev) = .ok (d, got, [])) {y : View}
    (hy : y = { x with g := got.foldl (fun g q =>
      g.setVpair f.va.toNat q.1 ((q.2.map (s.dev.pool x.g.ctx k).cellAt).getD 0)) x.g }) :
    execPalloc f s = .next (s.afterOn d x ((if f.t then y else y.writeT (x.active f.ms) f.sd.toNat
      (maskOfLanes ((got.filter (fun q => q.2.isSome)).map Prod.fst))).next 8)) := by
  have hysealed : y.g.sealBuf = none := by
    rw [hy]
    exact (Group.foldl_sealBuf (by intros; rfl) got x.g).trans hopen
  have hfull : (f.t && decide ((s.dev.pool x.g.ctx k).count - (s.dev.pool x.g.ctx k).live <
      (lanesOf (x.active f.ms)).length)) = false := by
    cases ht : f.t with
    | false => rfl
    | true => simpa using hroom ht
  unfold execPalloc
  refine State.access_view hx hr ha ((allocPool_of_defd hk hlt hne hp _ _).trans ?_)
  simp only [hfull, Bool.false_eq_true, if_false, poolRoom_of_open hopen, hd, worstTrap]
  rw [List.foldl_ext (g := fun g q => g.setVpair f.va.toNat q.1 ((q.2.map (s.dev.pool x.g.ctx k).cellAt).getD 0)), ← hy,
    View.poolNote_of_open hysealed]
  rintro g ⟨l, c⟩ -
  cases c <;> rfl

theorem execPfree_next {k : Nat} {d : Device} {got : List (Nat × Nat × Bool)}
    (hr : x.g.inRange (Instr.pfree f).spans = true) (hk : k = (x.s f.sb.toNat).toNat) (hlt : k < 64) (hne : k ≠ 0)
    (hp : (s.dev.pool x.g.ctx k).defd = true)
    (hidx : ∀ l ∈ lanesOf (x.active f.ms), ((s.dev.pool x.g.ctx k).index (x.g.vpair f.va.toNat l)).isSome = true)
    (hd : eachLane (fun d (c : Nat) => laneOf ((d.freeLane s.env x.g.ctx k false c).map (fun q => (q.1, c, q.2))))
      ((lanesOf (x.active f.ms)).map (fun l => (l, ((s.dev.pool x.g.ctx k).index (x.g.vpair f.va.toNat l)).getD 0)))
      (s.dev.order s.cur.core .rel .dev) = .ok (d, got, []))
    (hgot : ∀ q ∈ got, q.2.2 = true) : execPfree f s = .next (s.afterOn d x (x.next 8)) := by
  have hbad : ((lanesOf (x.active f.ms)).map (fun l =>
      (l, (s.dev.pool x.g.ctx k).index (x.g.vpair f.va.toNat l)))).any (fun q => q.2.isNone) = false := by
    rw [List.any_map, List.any_eq_false]
    exact fun l hl => by simp [Option.ne_none_iff_isSome.mpr (hidx l hl)]
  have hdbl : got.filter (fun q => !q.2.2) = [] := by simpa [List.filter_eq_nil_iff] using hgot
  unfold execPfree
  refine State.access_view hx hr ha ((allocPool_of_defd hk hlt hne hp _ _).trans ?_)
  simp only [hbad, Bool.false_eq_true, if_false, poolRoom_of_open hopen, List.map_map, Function.comp_def, hopen,
    Option.isSome_none, hd, hdbl, List.map_nil, List.append_nil, worstTrap, View.poolNote_of_open hopen]

end Pools

/-- Settles O46: the number in SB names a pool or a region, and the lanes of an open group leave their cells. -/
theorem poolsComplete : Obligations.PoolsComplete := by
  unfold Obligations.PoolsComplete
  intro f s x hx hopen ha k p lanes
  refine ⟨?_, ?_, ?_, ?_, ?_⟩
  · exact fun l bytes hr hlt hl => execPdef_next hx hopen ha hr rfl hlt hl rfl
  · exact fun hr hlt hne => execPreset_next hx hopen ha hr rfl hlt hne
  · exact fun hr hlt => execRegdef_next hx hopen ha hr rfl hlt rfl
  · exact fun d got hr hlt hne hp hroom hd => execPalloc_next hx hopen ha hr rfl hlt hne hp hroom hd rfl
  · exact fun d got hr hlt hne hp hidx hd hgot => execPfree_next hx hopen ha hr rfl hlt hne hp hidx hd hgot

end Sys2Proof.Machine

/-! SUPPORT, O53 and O54. Command queues: a packet that is due starts with its effect, kind by kind, and the events of its life
(R364, R368, R369, R373, R378, R380, R394, R395). -/

namespace Sys2Proof.Machine

open Sys2Proof.Spec

/-! ### The packet that a command processor acts on -/

/-- Going on past what does not miss. -/
theorem Device.orFault_ok {α : Type} {d : Device} {e : Env} {ctx q n detail : Nat} {m : Except Miss α}
    {f : α → Except Miss Device} {a : α} (h : m = .ok a) : d.orFault e ctx q n detail m f = f a := by
  simp only [Device.orFault, h]

section Packets

variable {s : State} {ctx q : Nat} {d0 d : Device} {p : Packet}

/-- A packet that is due leaves the device its kind makes. -/
theorem State.onPacket_ok {is : List W64 → Bool} {go : Env → Device → Packet → Except Miss Device}
    (hdue : s.dev.duePacket s.tick ctx q is = some (d0, p)) (hgo : go s.env d0 p = .ok d) :
    s.onPacket ctx q is go = .next (s.withDev d) := by
  have hdue : s.dev.duePacket s.env.tick ctx q is = some (d0, p) := hdue
  unfold State.onPacket
  refine State.onDev_ok ?_
  simp only [hdue, Option.map_some, hgo]

theorem execNopPacket_due (hdue : s.dev.duePacket s.tick ctx q (ofType 0) = some (d0, p)) :
    execNopPacket ctx q s = .next (s.withDev (packetEnds d0 s.env ctx q p.n)) := State.onPacket_ok hdue rfl

theorem execLaunch_due {id : Nat} (hdue : s.dev.duePacket s.tick ctx q (ofType 1) = some (d0, p))
    (hd : d0.startLaunch s.env { ctx, q, n := p.n, node := none } (d0.capOf ctx q) (p.words.drop 2) = .ok (d, .launch id)) :
    execLaunch ctx q s = .next (s.withDev (d.setWork ctx q p.n (.launch id))) :=
  State.onPacket_ok hdue (Device.orFault_ok hd)

/-- TASKS ends when every record has been pushed, and waits with those left otherwise. -/
theorem execTasks_due {n i : Nat} (hdue : s.dev.duePacket s.tick ctx q (ofType 2) = some (d0, p))
    (hn : n = ((p.words.getD 3 0).extractLsb' 0 16).toNat) (hbegin : p.work = .begin)
    (hd : d0.pushTasks s.env ctx (p.words.getD 2 0) n 0 = (d, i, none)) :
    execTasks ctx q s = .next (s.withDev (if n ≤ i then packetEnds (d.setWork ctx q p.n (.tasks i)) s.env ctx q p.n
      else d.setWork ctx q p.n (.tasks i))) := by
  subst hn
  refine State.onPacket_ok hdue ?_
  simp only [hbegin, Nat.sub_zero, hd]
  rfl

theorem execCopyPacket_due {core id : Nat} (hdue : s.dev.duePacket s.tick ctx q (ofType 3) = some (d0, p))
    (hd : d0.startCopy s.env { ctx, q, n := p.n, node := none } (p.words.getD 2 0) = .ok (d, .copy core id)) :
    execCopyPacket ctx q s = .next (s.withDev (d.setWork ctx q p.n (.copy core id))) :=
  State.onPacket_ok hdue (Device.orFault_ok hd)

theorem execSignalPacket_due (hdue : s.dev.duePacket s.tick ctx q (ofType 4) = some (d0, p))
    (hd : d0.signalDec s.env ctx Agent.cp (p.words.getD 2 0) ((p.words.getD 3 0).extractLsb' 0 16).toNat false false = .ok d) :
    execSignalPacket ctx q s = .next (s.withDev (packetEnds d s.env ctx q p.n)) :=
  State.onPacket_ok hdue (Device.orFault_ok hd)

theorem execWaitPacket_due (hdue : s.dev.duePacket s.tick ctx q (ofType 5) = some (d0, p)) :
    execWaitPacket ctx q s = .next (s.withDev (d0.setWork ctx q p.n .wait)) := State.onPacket_ok hdue rfl

theorem execGraph_due {g : Graph} (hdue : s.dev.duePacket s.tick ctx q (ofType 6) = some (d0, p))
    (hg : g = { nodes := p.words.getD 2 0, nn := ((p.words.getD 3 0).extractLsb' 0 16).toNat
                maxIter := ((p.words.getD 3 0).extractLsb' 32 32).toNat, iter := 1, rearm := false, bad := false
                faulted := false, node := [] })
    (hd : (d0.setWork ctx q p.n (.graph g)).startIteration s.env ctx q p.n = .ok d) :
    execGraph ctx q s = .next (s.withDev d) := by
  subst hg
  exact State.onPacket_ok hdue (Device.orFault_ok hd)

/-! ### RANGE (R394, R395) -/

/-- A RANGE that waits for no commit and no RANGE before it takes its steps, its own last, and ends. -/
theorem State.onRange_due {is : List W64 → Bool} (own : Packet → Device → List RangeLeaf → Device) {l : List RangeLeaf}
    {spans : List (Nat × Nat)} (hdue : s.dev.duePacket s.tick ctx q is = some (d0, p))
    (hl : d0.rangeLeaves s.plat ctx (rangeOf p.words).1 (rangeOf p.words).2 = some l)
    (hspans : spans = spansOf (rangeOf p.words).1 (rangeOf p.words).2 l)
    (hcommits : d0.rangeCommits ctx spans = false) (hbehind : d0.rangeBehind ctx p = false)
    (hd : d0.rangeAborts s.env ctx spans = .ok d) :
    s.onPacket ctx q is (fun e d p => rangePacket ctx q (own p) e d p) = .next (s.withDev (((own p (((d.rangeSettle
      s.env ctx).rangeStores l).rangeTlbs ctx (rangeOf p.words).1 (rangeOf p.words).2) l).updPacket ctx q p.n (fun o => { o with
        work := .none, spans })).tryEnd s.env ctx q p.n)) := by
  have hl : d0.rangeLeaves s.env.plat ctx (rangeOf p.words).1 (rangeOf p.words).2 = some l := hl
  refine State.onPacket_ok hdue ?_
  simp only [rangePacket, hl, ← hspans, hcommits, hbehind, Bool.or_self, Bool.false_eq_true, if_false, hd]

theorem execStream_released (hdue : s.dev.duePacket s.tick ctx q (ofType 8) = some (d0, p)) (ha : p.words.getD 2 0 = 0) :
    execStream ctx q s = .next (s.withDev (packetEnds (d0.updCtx ctx (fun c => { c with
      streams := c.streams.erase ((p.words.getD 3 0).extractLsb' 0 4).toNat })) s.env ctx q p.n)) :=
  State.onPacket_ok hdue (if_pos ha)

theorem execStream_configured {k : Nat} {st : HStream} {d1 : Device} {bytes : List Byte}
    (hdue : s.dev.duePacket s.tick ctx q (ofType 8) = some (d0, p)) (ha : p.words.getD 2 0 ≠ 0)
    (hread : d0.cpRead s.env ctx false (p.words.getD 2 0) 64 = .ok (d1, bytes))
    (hk : k = ((p.words.getD 3 0).extractLsb' 0 4).toNat) (hst : st = HStream.ofWords (bytesToWords bytes))
    (hok : streamBad (bytesToWords bytes) = false)
    (hd : d1.streamStore s.env ctx st.whost st.waddr (natToBytes 16 0) = .ok d) :
    execStream ctx q s = .next (s.withDev (packetEnds { d.updCtx ctx (fun c => { c with streams := c.streams.set k st }) with
      sridx := d.sridx.set (sridxKey ctx k) 0 } s.env ctx q p.n)) := by
  subst hk hst
  refine State.onPacket_ok hdue ((if_neg ha).trans ((Device.orFault_ok hread).trans ?_))
  exact (if_neg (by simp [hok])).trans (Device.orFault_ok hd)

end Packets

/-- Settles O53: a packet that is due is acted on, and its kind says what is left. -/
theorem packetsComplete : Obligations.PacketsComplete := by
  unfold Obligations.PacketsComplete
  intro s ctx q d0 d p due ends w
  refine ⟨fun hdue => execNopPacket_due hdue, fun id hdue hd => execLaunch_due hdue hd, ?_,
    fun core id hdue hd => execCopyPacket_due hdue hd, fun hdue hd => execSignalPacket_due hdue hd,
    fun hdue => execWaitPacket_due hdue, fun hdue hd => execGraph_due hdue rfl hd, ?_,
    fun hdue ha => execStream_released hdue ha,
    fun d1 bytes d2 hdue ha hread hok hd => execStream_configured hdue ha hread rfl rfl hok hd⟩
  · intro n i hdue hn hbegin hd
    refine (execTasks_due hdue hn hbegin hd).trans ?_
    split <;> rfl
  · intro i op own hdue hi r l hl spans hcommits hbehind hd
    obtain ⟨rfl, rfl, rfl⟩ | ⟨rfl, rfl, rfl⟩ | ⟨rfl, rfl, rfl⟩ | ⟨rfl, rfl, rfl⟩ := hi
    · exact State.onRange_due (fun _ d _ => d) hdue hl rfl hcommits hbehind hd
    · exact State.onRange_due (fun _ d l => (d.rangeCaches l).rangeEntries (withOwn true) l) hdue hl rfl hcommits hbehind hd
    · exact State.onRange_due (fun _ d l => (d.rangeDrop l).rangeEntries (withOwn false) l) hdue hl rfl hcommits hbehind hd
    · exact State.onRange_due (fun p d l => (d.rangeCaches l).rangeEntries (withClass p.words) l) hdue hl rfl hcommits hbehind hd

/-! ### The events of a packet's life -/

section Queues

variable {s : State} {ctx q : Nat}

/-- A write index within the ring is taken (R364, R368). -/
theorem execQwidxWrite_inRing {c : CQueue} {v : W64} (hc : s.dev.queue ctx q = some c) (hcp : s.plat.ready.getLsbD 63 = true)
    (hlo : c.widx ≤ v.toNat) (hhi : v.toNat ≤ c.ridx + 2 ^ c.log2n) :
    execQwidxWrite ctx q 8 v s = .next (s.withDev (s.dev.updQueue ctx q (fun c => { c with widx := v.toNat }))) := by
  have hcp : s.env.plat.ready.getLsbD 63 = true := hcp
  refine (State.whenDue_true rfl).trans ?_
  simp only [Device.writeQwidx, hc, hcp, Nat.not_lt.mpr hlo, Nat.not_lt.mpr hhi]
  simp

theorem execSridxWrite_word {k : Nat} {v : W64} (hk : k < 16) (hctx : ctx < 16) :
    execSridxWrite ctx k 8 v s = .next (s.withDev { s.dev with sridx := s.dev.sridx.set (sridxKey ctx k) v }) := by
  refine (State.whenDue_true rfl).trans ?_
  simp only [Device.writeSridx, Nat.not_le.mpr hk, Nat.not_le.mpr hctx]
  simp

theorem execPacketRead_due {c : CQueue} {d1 d2 : Device} {bytes : List Byte} {bad : Bool} (hc : s.dev.queue ctx q = some c)
    (hst : c.st = .active) (hlive : c.dying = false) (hmore : c.ridx < c.widx)
    (hread : s.dev.cpRead s.env ctx c.qhost (c.slot c.ridx) 64 = .ok (d1, bytes))
    (hbad : d1.classBad s.plat ctx (bytesToWords bytes) = some bad)
    (hd : d1.takePacket s.env ctx q c (bytesToWords bytes) bad = .ok d2) : execPacketRead ctx q s = .next (s.withDev d2) := by
  have hbad : d1.classBad s.env.plat ctx (bytesToWords bytes) = some bad := hbad
  have hgo : (c.st ≠ .active || c.dying || decide (c.widx ≤ c.ridx)) = false := by simp [hst, hlive, hmore]
  refine State.onDev_ok ?_
  simp only [hc, hgo, Bool.false_eq_true, if_false, hread, hbad, Option.map_some, hd]

section Started

variable {n : Nat} {p : Packet} (hp : s.dev.packet ctx q n = some p)

include hp

theorem execWaitSatisfied_holds {d1 : Device} {l : List Byte} (hst : p.st = .started) (hwork : p.work = .wait)
    (hload : s.dev.load s.plat s.tick ctx Agent.cp false (p.words.getD 2 0) 8 = .ok (d1, l, false))
    (hholds : waitHolds p.words (bytesToNat l) = true) :
    execWaitSatisfied ctx q n s = .next (s.withDev (packetEnds d1 s.env ctx q n)) := by
  have hload : s.dev.load s.env.plat s.env.tick ctx Agent.cp false (p.words.getD 2 0) 8 = .ok (d1, l, false) := hload
  have hwaits : (p.st = .started && p.work = .wait) = true := by simp [hst, hwork]
  refine State.onDev_ok ?_
  simp only [hp, hwaits, if_true, hload, Bool.false_eq_true, if_false, hholds]
  rfl

theorem execPacketComplete_ended {d : Device} (hst : p.st = .started) (hwork : p.work = .none)
    (hd : s.dev.endPacket s.env ctx q n = .ok d) : execPacketComplete ctx q n s = .next (s.withDev d) := by
  refine State.onDev_ok ?_
  simp only [hp, hst, ne_eq, not_true_eq_false, if_false, hwork, hd]

theorem execPacketComplete_launch {id : Nat} {d : Device} (hst : p.st = .started) (hwork : p.work = .launch id)
    (hended : s.dev.launchEnded id = true)
    (hd : ((s.dev.endLaunch id).1.updPacket ctx q n (fun p => { p with
      work := .none, faulted := p.faulted || (s.dev.endLaunch id).2 })).endPacket s.env ctx q n = .ok d) :
    execPacketComplete ctx q n s = .next (s.withDev d) := by
  refine State.onDev_ok ?_
  simp only [hp, hst, ne_eq, not_true_eq_false, if_false, hwork, hended, if_true, hd]

/-- The graph that a packet runs. -/
theorem Device.graphOf_packet {g : Graph} (hwork : p.work = .graph g) : s.dev.graphOf ctx q n = some g := by
  simp only [Device.graphOf, hp, Option.bind_some, hwork]

/-- A running node whose work is neither to begin nor a stream completes once that work has ended. -/
theorem execGraphNodeComplete_ended {g : Graph} {node : Nat} {t : GNode} {d1 d2 : Device} {bad : Bool}
    (hwork : p.work = .graph g) (ht : g.node.get node = some t) (hrun : t.running = true)
    (hstream : ∀ next since, t.work ≠ .stream next since) (hbegin : t.work ≠ .begin)
    (hended : s.dev.workEnded t = some (d1, bad)) (hd : d1.endNode s.env ctx q n node g t bad p.aborted = .ok d2) :
    execGraphNodeComplete ctx q n node s = .next (s.withDev d2) := by
  refine State.onDev_ok ?_
  simp only [hp, Device.graphOf_packet hp hwork, Option.bind_some, ht, Option.map_some, hrun, Bool.not_true, Bool.false_eq_true,
    if_false, hended, hd]

end Started

end Queues

/-- Settles O54: each event, when due, leaves what its definition gives. -/
theorem queueEventsComplete : Obligations.QueueEventsComplete := by
  unfold Obligations.QueueEventsComplete
  intro s ctx q c hc
  refine ⟨fun v hcp hlo hhi => execQwidxWrite_inRing hc hcp hlo hhi, fun k v hk hctx => execSridxWrite_word hk hctx,
    fun d1 bytes bad d2 hst hlive hmore hread hbad hd => execPacketRead_due hc hst hlive hmore hread hbad hd,
    fun n p hp hst => ⟨?_, ?_, ?_, ?_⟩⟩
  · exact fun d1 l hwork hload hholds => execWaitSatisfied_holds hp hst hwork hload hholds
  · exact fun d hwork hd => execPacketComplete_ended hp hst hwork hd
  · exact fun id d hwork hended hd => execPacketComplete_launch hp hst hwork hended hd
  · exact fun g node t d1 bad d2 hwork ht hrun hstream hbegin hended hd =>
      execGraphNodeComplete_ended hp hwork ht hrun hstream hbegin hended hd

end Sys2Proof.Machine

/-! SUPPORT and O56. The management operations that the device serves (R365 to R367, R376, R415). -/

namespace Sys2Proof.Machine

section Served

variable {s : State} (hbusy : s.plat.busy = false) (hreset : s.plat.inReset = false) (hcp : s.plat.ready.getLsbD 63 = true)

include hbusy hreset hcp

/-- While CP has risen and no other operation is under way, an operation does what it does (R365). -/
theorem State.mop_served (f : State → State) : s.mop f = f s := by
  simp only [State.mop, hbusy, hreset, hcp, Bool.or_self, Bool.not_true, Bool.false_eq_true, if_false]

theorem execCreateContext_served {c : Nat} {l : List W64} (hc : s.dev.freeCtx = some c) (hready : s.descriptorWaits = false)
    (hl : s.descriptor = some l) (hok : ctxOk s.plat.part.capacity l = true) :
    execCreateContext s = .next { s with
      dev := { s.dev with ctxs := s.dev.ctxs.set c (Ctx.ofWords l) }
      plat := { s.plat with result := 0, busy := false, mopWait := none, newCtx := c
                            energy := { s.plat.energy with res := s.plat.energy.res.erase c } } } := by
  simp only [execCreateContext, State.mop_served hbusy hreset hcp, State.createCtx, hready, Bool.false_eq_true, if_false, hl,
    Option.bind_some, hok, if_true, hc]

theorem execCreateContext_waits (hwaits : s.descriptorWaits = true) :
    execCreateContext s = .next (s.mopStall 1 0 0) := by
  simp only [execCreateContext, State.mop_served hbusy hreset hcp, State.createCtx, hwaits, if_true]

theorem execCreateQueue_served {ctx q : Nat} {l : List W64} (hctx : (s.dev.ctxs.get ctx).isSome = true)
    (hq : s.dev.queue ctx q = none) (hready : s.descriptorWaits = false) (hl : s.descriptor = some l) (hok : queueOk l = true) :
    execCreateQueue ctx q s = .next ((s.withDev (s.dev.updCtx ctx (fun c => { c with
      queues := c.queues.set q (CQueue.ofWords l) }))).mopResult 0 false) := by
  simp only [execCreateQueue, State.mop_served hbusy hreset hcp, State.createQ, Option.isNone_eq_false_iff.mpr hctx, hq,
    Option.isSome_none, hready, Bool.false_eq_true, if_false, hl, hok, if_true]

/-- An operation on a context that does not exist gives RESULT 4. -/
theorem execDestroyContext_noContext {ctx : Nat} (hctx : s.dev.ctxs.get ctx = none) :
    execDestroyContext ctx s = .next (s.mopResult 4 false) := by
  simp only [execDestroyContext, State.mop_served hbusy hreset hcp, State.destroyCtx, hctx]

theorem execCreateQueue_noContext {ctx q : Nat} (hctx : s.dev.ctxs.get ctx = none) :
    execCreateQueue ctx q s = .next (s.mopResult 4 false) := by
  simp only [execCreateQueue, State.mop_served hbusy hreset hcp, State.createQ, hctx, Option.isNone_none, if_true]

/-- An operation on a queue that does not exist gives RESULT 4. -/
theorem execDestroyQueue_noQueue {ctx q : Nat} (hq : s.dev.queue ctx q = none) :
    execDestroyQueue ctx q s = .next (s.mopResult 4 false) := by
  simp only [execDestroyQueue, State.mop_served hbusy hreset hcp, State.destroyQueueOp, hq, Option.isNone_none, if_true]

theorem execDestroyQueue_served {ctx q : Nat} {c : CQueue} (hq : s.dev.queue ctx q = some c) : execDestroyQueue ctx q s =
    .next (((s.withDev ((s.dev.destroyQ s.env ctx q).freeQ ctx q)).mopResult 0 true).mopDone ctx) := by
  simp only [execDestroyQueue, State.mop_served hbusy hreset hcp, State.destroyQueueOp, hq, Option.isNone_some,
    Bool.false_eq_true, if_false]

/-- A context without queues has none to destroy first. -/
theorem execDestroyContext_noQueues {ctx : Nat} {c : Ctx} (hctx : s.dev.ctxs.get ctx = some c) (hqs : c.queues = []) :
    execDestroyContext ctx s = .next (((s.withDev (s.dev.updCtx ctx (fun c => { c with dying := true }))).mopResult 0
      true).mopDone ctx) := by
  simp only [execDestroyContext, State.mop_served hbusy hreset hcp, State.destroyCtx, hctx, hqs, List.map_nil, List.foldl_nil]

end Served

/-- A destroyed queue whose packets have all ended becomes FREE (R376). -/
theorem execQueueFree_due {s : State} {ctx q : Nat} {c : CQueue} (hq : s.dev.queue ctx q = some c) (hdying : c.dying = true)
    (hpkts : c.pkts = []) : execQueueFree ctx q s = .next ((s.withDev (s.dev.updCtx ctx (fun x => { x with
      queues := x.queues.erase q }))).mopDone ctx) := by
  simp only [execQueueFree, Device.freeQ, hq, hdying, hpkts, List.isEmpty_nil, Bool.and_self, if_true]

/-- Settles O56: the operations are served, and each does what its definition gives. -/
theorem managementCompletes : Obligations.ManagementCompletes := by
  unfold Obligations.ManagementCompletes
  intro s hbusy hreset hcp
  refine ⟨?_, ?_, ?_, ?_, ?_, ?_, ?_, ?_⟩
  · exact fun c l hc hready hl hok => ⟨_, execCreateContext_served hbusy hreset hcp hc hready hl hok, rfl, rfl, rfl⟩
  · exact fun hwaits => execCreateContext_waits hbusy hreset hcp hwaits
  · exact fun ctx q l hctx hq hready hl hok => execCreateQueue_served hbusy hreset hcp hctx hq hready hl hok
  · exact fun ctx q hctx => ⟨execDestroyContext_noContext hbusy hreset hcp hctx, execCreateQueue_noContext hbusy hreset hcp hctx⟩
  · exact fun ctx q hq => execDestroyQueue_noQueue hbusy hreset hcp hq
  · exact fun ctx q c hq => execDestroyQueue_served hbusy hreset hcp hq
  · exact fun ctx c hctx hqs => execDestroyContext_noQueues hbusy hreset hcp hctx hqs
  · exact fun ctx q c hq hdying hpkts => execQueueFree_due hq hdying hpkts

end Sys2Proof.Machine

/-! SUPPORT and O57. The events of reset, time, firmware and attestation (R410 to R417). -/

namespace Sys2Proof.Machine

/-- An event that acts on the platform leaves what its function gives. -/
theorem State.onPlat_eq {s : State} {f : Platform → Platform} {q : Platform} (h : f s.plat = q) :
    s.onPlat f = .next { s with plat := q } := h ▸ rfl

section Platform

variable {s : State}

/-! ### Reset (R410, R416) -/

theorem execResetRelease_due (hreset : s.plat.inReset = true) (htrip : s.plat.tripped = false)
    (hcool : ∀ k, k < 16 → (s.plat.tsens.get k).toInt < 1840) : execResetRelease s =
      .next { s with plat := { s.plat with inReset := false, dtime := 0, dfrac := 0, cycles := 0 } } := by
  have hhot : s.plat.hot = false := by
    unfold Platform.hot
    rw [List.any_eq_false]
    intro k hk
    simpa using hcool k (List.mem_range.mp hk)
  exact State.onPlat_eq (if_pos (by simp [hreset, htrip, hhot]))

theorem execThermtrip_due {k : Nat} {t : BitVec 16} (hk : k < 16) (ht : 1840 ≤ t.toInt) : execThermtrip k t s =
    .next (State.intoReset { s with plat := { s.plat with tsens := s.plat.tsens.set k t } } true) := by
  unfold execThermtrip
  exact if_pos (by simp [hk, ht])

/-! ### DTIME and its discipline (R411) -/

/-- An edge of REFCLK adds the increment to DTIME and its fraction. -/
theorem Platform.refclk_time {p : Platform} (hreset : p.inReset = false) :
    p.refclk.dtime ++ p.refclk.dfrac = (p.dtime ++ p.dfrac) + BitVec.ofNat 96 p.inc := by
  have happ (t : BitVec 96) : t.extractLsb' 32 64 ++ t.extractLsb' 0 32 = t := by
    rw [BitVec.extractLsb'_append_extractLsb'_eq_extractLsb' (by decide), BitVec.extractLsb'_eq_self]
  simp only [Platform.refclk, hreset, Bool.false_eq_true, if_false, happ]

theorem Platform.refclk_rest {p : Platform} (hreset : p.inReset = false) :
    { p.refclk with dtime := p.dtime, dfrac := p.dfrac } = p := by
  unfold Platform.refclk
  rw [if_neg (by simp [hreset])]

/-- The platform after an edge of the PPS input that counts. -/
def Platform.edge (p : Platform) (tick : Nat) : Platform :=
  let p1 := { p with pps := { p.pps with edge := some p.dtime } }
  if p1.pps.en then p1.capture tick else p1

theorem execPpsEdge_next (hreset : s.plat.inReset = false) :
    execPpsEdge s = .next (if shortPulse s.tick then s else { s with plat := s.plat.edge s.tick }) := by
  unfold execPpsEdge
  cases shortPulse s.tick with
  | true => exact State.onPlat_eq (if_pos (by simp))
  | false => exact State.onPlat_eq (if_neg (by simp [hreset]))

/-- A capture notes the edge, whatever it makes of the discipline. -/
theorem Platform.capture_pps (p : Platform) (tick : Nat) : (p.capture tick).pps.cap = p.dtime ∧
    (p.capture tick).pps.prev = some p.dtime ∧ (p.capture tick).pps.edge = p.pps.edge := by
  simp only [Platform.capture]
  split
  · exact ⟨rfl, rfl, rfl⟩
  · split <;> exact ⟨rfl, rfl, rfl⟩

/-- An edge that is 2 µs late or more ends the discipline. -/
theorem Platform.capture_late {p : Platform} {a : W64} (tick : Nat) (hprev : p.pps.prev = some a)
    (hlate : 1000002000 ≤ (p.dtime - a).toNat) : (p.capture tick).pps.lock = false ∧ (p.capture tick).inc = p.inc := by
  simp only [Platform.capture, hprev, hlate, if_true, and_self]

theorem Platform.edge_of_en {p : Platform} (tick : Nat) (hen : p.pps.en = true) :
    p.edge tick = ({ p with pps := { p.pps with edge := some p.dtime } } : Platform).capture tick := if_pos hen

theorem Platform.edge_of_not_en {p : Platform} (tick : Nat) (hen : p.pps.en = false) :
    p.edge tick = { p with pps := { p.pps with edge := some p.dtime } } := if_neg (by simp [hen])

theorem Platform.edge_seen (p : Platform) (tick : Nat) : (p.edge tick).pps.edge = some p.dtime := by
  cases hen : p.pps.en with
  | true =>
    rw [Platform.edge_of_en tick hen]
    obtain ⟨-, -, hedge⟩ := Platform.capture_pps { p with pps := { p.pps with edge := some p.dtime } } tick
    exact hedge
  | false => rw [Platform.edge_of_not_en tick hen]

theorem execPpsctlWrite_next (hreset : s.plat.inReset = false) (v : W32) : execPpsctlWrite v s =
    .next { s with plat := { s.plat with pps := if v.getLsbD 0 then { s.plat.pps with en := true }
      else { s.plat.pps with en := false, lock := false, good := 0, prev := none } } } := by
  refine State.onPlat_eq ?_
  simp only [Platform.writePpsctl, hreset, Bool.false_eq_true, if_false]
  split <;> rfl

theorem execPpscaploRead_next (hreset : s.plat.inReset = false) : execPpscaploRead s = .next { s with
    dev := { s.dev with hostRead := natToBytes 4 s.plat.pps.cap.toNat }
    plat := { s.plat with pps := { s.plat.pps with capHi := some (s.plat.pps.cap.extractLsb' 32 32) } } } := by
  unfold execPpscaploRead
  exact if_neg (by simp [hreset])

theorem execPpsEdgeMissed_due {a : W64} (hen : s.plat.pps.en = true) (hprev : s.plat.pps.prev = some a)
    (hlate : 1000002000 ≤ (s.plat.dtime - a).toNat) : execPpsEdgeMissed s =
      .next { s with plat := { s.plat with pps := { s.plat.pps with lock := false, good := 0, prev := none } } } := by
  refine State.onPlat_eq ?_
  simp only [hprev, hen, hlate, decide_true, Bool.and_self, if_true]

theorem execPpsSeenExpiry_due {a : W64} (hedge : s.plat.pps.edge = some a) (hold : 1100000000 ≤ (s.plat.dtime - a).toNat) :
    execPpsSeenExpiry s = .next { s with plat := { s.plat with pps := { s.plat.pps with edge := none } } } := by
  refine State.onPlat_eq ?_
  simp only [hedge, hold, decide_true, if_true]

theorem execLinkTraining_next (hreset : s.plat.inReset = false) (high : Bool) :
    execLinkTraining high s = .next { s with plat := { s.plat with linkWide := some high } } :=
  State.onPlat_eq (if_neg (by simp [hreset]))

/-! ### Attestation (R417) -/

/-- GO before CP has risen fails. -/
theorem execAttctlGo_early (hreset : s.plat.inReset = false) (hcp : s.plat.ready.getLsbD 63 = false) :
    execAttctlGo s = .next { s with plat := { s.plat with attStatus := 3 } } := by
  refine State.onPlat_eq ?_
  simp only [Platform.go, hreset, hcp, Bool.false_eq_true, if_false, Bool.not_false, if_true]

/-- GO takes the nonce as it stands, unless a report is under way. -/
theorem execAttctlGo_begins (hreset : s.plat.inReset = false) (hcp : s.plat.ready.getLsbD 63 = true)
    (hidle : s.plat.attStatus ≠ 1) :
    execAttctlGo s = .next { s with plat := { s.plat with attStatus := 1, latched := s.plat.nonce } } := by
  refine State.onPlat_eq ?_
  simp only [Platform.go, hreset, hcp, Bool.false_eq_true, if_false, Bool.not_true, hidle]

theorem execAttestationReport_due {fw : Firmware} (hfw : s.plat.fw = some fw) (hatt : s.plat.attStatus = 1) :
    execAttestationReport s = .next { s with plat := { s.plat with
      attrep := s.plat.reportBody fw ++ signatureOf (s.plat.reportBody fw), attStatus := 2 } } := by
  refine State.onPlat_eq ?_
  simp only [hfw, hatt, ne_eq, not_true_eq_false, if_false]

theorem signatureOf_length (body : List Byte) : (signatureOf body).length = 4627 := by
  rw [signatureOf, List.length_take, List.length_append, List.length_replicate]
  omega

/-! ### Firmware (R413 to R415) -/

theorem execBoot_begins (hreset : s.plat.inReset = false) (hbusy : s.plat.busy = false)
    (hcp : s.plat.ready.getLsbD 63 = false) (hidle : s.plat.booting = none) :
    execBoot s = .next { s with plat := s.plat.bootStart s.tick } := by
  simp only [execBoot, hidle, State.boot, hbusy, hreset, hcp, Bool.or_self, Bool.false_eq_true, if_false]

theorem Platform.bootStart_reads {p : Platform} (tick : Nat) (hfails : p.fails < 8) (halign : p.maddr.toNat % 64 = 0) :
    p.bootStart tick = { p with busy := true, booting := some (p.maddr.toNat, p.staging) } := by
  simp only [Platform.bootStart, Nat.not_le.mpr hfails, if_false, halign, ne_eq, not_true_eq_false]

theorem execBoot_ends {a : Nat} {m : Memory} (hboot : s.plat.booting = some (a, m)) :
    execBoot s = .next { s with plat := s.plat.bootEnd a m } := by
  simp only [execBoot, hboot]

/-- A BOOT that ends is no longer busy, and with another RESULT than 0 leaves no image. -/
theorem Platform.bootEnd_result (p : Platform) (a : Nat) (m : Memory) :
    (p.bootEnd a m).busy = false ∧ ((p.bootEnd a m).result ≠ 0 → (p.bootEnd a m).fw = none) := by
  unfold Platform.bootEnd
  split
  · exact ⟨rfl, fun h => absurd rfl h⟩
  · exact ⟨rfl, fun _ => rfl⟩

/-- A management operation tried again leaves READY. -/
theorem State.mopRetry_ready (s : State) : s.mopRetry.plat.ready = s.plat.ready := by
  have h := s.mopRetry_sameGist
  simp only [State.SameGist, Platform.gist, Prod.mk.injEq] at h
  obtain ⟨-, -, -, -, hready, -, -⟩ := h
  exact hready

/-- A function that may rise does, and with CP the staging buffer goes (R413, R415). -/
theorem execFunctionReady_rises {bit : Nat} (hreset : s.plat.inReset = false) (hrise : s.plat.mayRise bit = true) :
    ∃ t, execFunctionReady bit s = .next t ∧ t.plat.ready = s.plat.ready ||| (1#64 <<< bit) ∧
      (bit = 63 → t.plat.staging = []) := by
  refine ⟨_, if_neg (by simp [hreset, hrise]), ?_, ?_⟩
  · split
    · exact State.mopRetry_ready _
    · rfl
  · rintro rfl
    rfl

end Platform

/-- Settles O57: each event, when due, leaves what its definition gives. -/
theorem platformEventsComplete : Obligations.PlatformEventsComplete := by
  unfold Obligations.PlatformEventsComplete
  intro s p on
  refine ⟨⟨rfl, rfl⟩, fun hreset htrip hcool => execResetRelease_due hreset htrip hcool,
    fun k t hk ht => ⟨_, execThermtrip_due hk ht, rfl, rfl, SMap.get_set_same _ _ _⟩, fun hreset => ?_,
    fun a m hboot => ⟨execBoot_ends hboot, p.bootEnd_result a m⟩,
    fun a hen hprev hlate => execPpsEdgeMissed_due hen hprev hlate, fun a hedge hold => execPpsSeenExpiry_due hedge hold,
    fun fw hfw hatt => ⟨execAttestationReport_due hfw hatt, signatureOf_length _⟩⟩
  refine ⟨fun high => execLinkTraining_next hreset high,
    ⟨_, State.onPlat_eq rfl, Platform.refclk_time hreset, Platform.refclk_rest hreset⟩,
    ⟨_, execPpsEdge_next hreset, p.edge_seen _, fun hen => ?_, fun hen => ?_, fun a hen hprev hlate => ?_⟩,
    fun v => execPpsctlWrite_next hreset v, execPpscaploRead_next hreset, fun hcp => execAttctlGo_early hreset hcp,
    fun hcp hidle => execAttctlGo_begins hreset hcp hidle,
    fun hbusy hcp hidle => execBoot_begins hreset hbusy hcp hidle, fun hfails halign => p.bootStart_reads _ hfails halign,
    fun bit hrise => execFunctionReady_rises hreset hrise⟩
  · rw [Platform.edge_of_en _ hen]
    obtain ⟨hcap, hprev, -⟩ := Platform.capture_pps { p with pps := { p.pps with edge := some p.dtime } } s.tick
    exact ⟨hcap, hprev⟩
  · rw [Platform.edge_of_not_en _ hen]
  · rw [Platform.edge_of_en _ hen]
    exact Platform.capture_late _ hprev hlate

end Sys2Proof.Machine

/-! SUPPORT and O58. The events of energy: charges, the control of the core clock, gating and the power cap (R416, R418 to
R424). -/

namespace Sys2Proof.Machine

/-! ### Charges (R421) -/

/-- A table written at some keys, from an entry for each. -/
theorem AMap.get_foldl_set {α : Type} (l : List Nat) (w : Nat → α) (m : AMap α) (c : Nat) :
    (l.foldl (fun m k => AMap.set m k (w k)) m).get c = if c ∈ l then some (w c) else m.get c := by
  induction l generalizing m with
  | nil => simp
  | cons k l ih =>
    refine (ih (m.set k (w k))).trans ?_
    by_cases hc : c = k
    · subst hc; simp
    · simp [hc, AMap.get_set_ne m (w k) hc]

/-- The reservoirs after a charge of every context. -/
def State.chargedRes (s : State) (r : EnergyReading) : AMap Reservoir :=
  (s.dev.ctxs.map Prod.fst).foldl (fun m c =>
    AMap.set m c ((s.plat.energy.reservoir c).charge s.plat.energy.pcap (s.dev.chargeOf s.tick c r))) s.plat.energy.res

theorem execEnergyCharge_due {s : State} {r : EnergyReading} (h : s.plat.chargeDue = true) : execEnergyCharge r s = .next { s with
    plat := { s.plat with energy := { s.plat.energy.meter s.plat.dtime r with
      charges := s.plat.energy.charges + 1, res := s.chargedRes r } }
    dev := { s.dev with issues := [] } } := by
  unfold execEnergyCharge
  exact if_neg (by simp [h])

theorem execEnergyCharge_not_due {s : State} {r : EnergyReading} (h : s.plat.chargeDue = false) :
    execEnergyCharge r s = .next s := by
  unfold execEnergyCharge
  exact if_pos (by simp [h])

/-! ### The core clock and the sensors (R416, R420) -/

/-- Sensors written one by one read as they were given. -/
theorem get_foldl_sensors {w : Nat} (l : List (BitVec w)) (b : Nat) (m : SMap w) (k : Nat) :
    SMap.get (((List.range' b l.length).zip l).foldl (fun m p => SMap.set m p.1 p.2) m) k =
      if b ≤ k then l.getD (k - b) (m.get k) else m.get k := by
  induction l generalizing b m with
  | nil => simp
  | cons v l ih =>
    simp only [List.length_cons, List.range'_succ, List.zip_cons_cons, List.foldl_cons]
    rw [ih (b + 1) (m.set b v), SMap.get_set]
    rcases lt_trichotomy k b with hlt | rfl | hgt
    · rw [if_neg (by omega), if_neg (by omega), if_neg (by omega)]
    · simp
    · rw [if_pos (by omega), if_neg (by omega), if_pos (by omega), show k - b = k - (b + 1) + 1 by omega, List.getD_cons_succ]

/-- The platform with its 16 sensors as they read now. -/
def Platform.withTemps (p : Platform) (temps : List (BitVec 16)) : Platform :=
  { p with tsens := ((List.range 16).zip temps).foldl (fun m q => SMap.set m q.1 q.2) p.tsens }

theorem Platform.sensors_withTemps (p : Platform) {temps : List (BitVec 16)} (h : temps.length = 16) :
    (p.withTemps temps).sensors = temps := by
  have hget (k : Nat) : SMap.get (p.withTemps temps).tsens k = temps.getD k (p.tsens.get k) := by
    have hread := get_foldl_sensors temps 0 p.tsens k
    rw [h, ← List.range_eq_range'] at hread
    simpa [Platform.withTemps] using hread
  refine List.ext_getElem (by simp [Platform.sensors, h]) fun k h1 h2 => ?_
  simp [Platform.sensors, hget, h2]

theorem Platform.hot_eq_any_sensors (p : Platform) : p.hot = p.sensors.any (fun v => decide (1840 ≤ v.toInt)) := by
  simp only [Platform.hot, Platform.sensors, List.any_map, Function.comp_def]

/-- A sensor at 115 °C puts the device into reset, by hardware alone (R416). -/
theorem execClockControl_hot {s : State} {temps : List (BitVec 16)} (hlen : temps.length = 16)
    (hhot : ∃ v ∈ temps, 1840 ≤ v.toInt) :
    execClockControl temps s = .next (State.intoReset { s with plat := s.plat.withTemps temps } true) := by
  have hot : (s.plat.withTemps temps).hot = true := by
    rw [Platform.hot_eq_any_sensors, Platform.sensors_withTemps _ hlen]
    simpa using hhot
  exact congrArg Host.Outcome.next (if_pos hot)

theorem execClockControl_cool {s : State} {temps : List (BitVec 16)} (hlen : temps.length = 16)
    (hreset : s.plat.inReset = false) (hcool : ∀ v ∈ temps, v.toInt < 1840) :
    execClockControl temps s = .next { s with plat := { s.plat.withTemps temps with
      energy := s.plat.energy.control s.plat.dtime.toNat temps } } := by
  have hcool : ¬ (s.plat.withTemps temps).hot = true := by
    rw [Platform.hot_eq_any_sensors, Platform.sensors_withTemps _ hlen]
    simpa using hcool
  have hreset : ¬ (s.plat.withTemps temps).inReset = true := by simp [Platform.withTemps, hreset]
  refine congrArg Host.Outcome.next ((if_neg hcool).trans ((if_neg hreset).trans ?_))
  change { s with plat := { s.plat.withTemps temps with
    energy := s.plat.energy.control s.plat.dtime.toNat (s.plat.withTemps temps).sensors } } = _
  rw [Platform.sensors_withTemps _ hlen]

/-- The clock stays within its limits (R420). -/
theorem Energy.control_mhz {en : Energy} (now : Nat) (temps : List (BitVec 16)) (hlo : 1000 ≤ en.mhz) (hhi : en.mhz ≤ 2600) :
    1000 ≤ (en.control now temps).mhz ∧ (en.control now temps).mhz ≤ 2600 := by
  simp only [Energy.control]
  split
  · exact ⟨hlo, hhi⟩
  · split
    · exact ⟨le_max_left _ _, by simp only [max_le_iff]; omega⟩
    · split
      · exact ⟨by simp only [le_min_iff]; omega, min_le_left _ _⟩
      · exact ⟨hlo, hhi⟩

/-- The clock is controlled once per 10 µs. -/
theorem Energy.control_done {en : Energy} {now : Nat} (temps : List (BitVec 16)) (h : now / 10000 ≤ en.controls) :
    en.control now temps = en := if_pos h

/-- A sensor at 105 °C takes the clock down and sets THERMAL. -/
theorem Energy.control_thermal {en : Energy} {now : Nat} {temps : List (BitVec 16)} (h : en.controls < now / 10000)
    (hhot : ∃ v ∈ temps, 1680 ≤ v.toInt) :
    (en.control now temps).mhz = max 1000 (en.mhz - 100) ∧ (en.control now temps).thermal = true := by
  have hany : anyAbove temps 1680 = true := by simpa [anyAbove] using hhot
  simp only [Energy.control, if_neg (Nat.not_le.mpr h), hany, Bool.true_or, if_true, Bool.or_true, and_self]

/-! ### Gating (R423, R424) -/

theorem execCoreGateDecide_idle {s : State} {core : Nat} (hcore : core < 64) (hidle : s.dev.coreIdle s.env core = true) :
    execCoreGateDecide core s = .next (s.withDev { s.dev with
      coreGate := s.dev.coreGate.set core (idleGate s.plat.dtime .gating (s.dev.coreGate.get core)) }) := by
  refine (State.whenDue_true (by simp [hcore])).trans ?_
  simp only [hidle, if_true]
  rfl

/-- Nothing of a core's L1 is left when all of it is written back and dropped (R424). -/
theorem Device.core_ne_of_mem_l1Clean {d : Device} {core : Nat} {x : L1Sector}
    (h : x ∈ (d.l1Clean (fun x => decide (x.core = core)) (fun x => decide (x.core = core))).l1) : x.core ≠ core := by
  unfold Device.l1Clean at h
  split at h
  next hnil => rw [hnil] at h; cases h
  next =>
    obtain ⟨y, hy, rfl⟩ := List.mem_map.mp h
    have hne : y.core ≠ core := by simpa using (List.mem_filter.mp hy).2
    rw [if_neg (by simpa using hne)]
    exact hne

/-- A core that powers down keeps nothing in its L1 and its instruction cache (R424). -/
theorem execCoreGateCommit_due {s : State} {core : Nat} (h : s.dev.coreGate.get core = some .gating) :
    ∃ t, execCoreGateCommit core s = .next t ∧ t.dev.coreGate.get core = some (.gated false) ∧
      (∀ x ∈ t.dev.l1, x.core ≠ core) ∧ (∀ y ∈ t.dev.l1Lines, y.core ≠ core) ∧ ∀ x ∈ t.dev.icache, x.core ≠ core := by
  refine ⟨_, State.whenDue_true (decide_eq_true h), AMap.get_set_same _ _ _,
    fun x hx => Device.core_ne_of_mem_l1Clean hx, fun y hy => ?_, fun x hx => ?_⟩
  · simpa using (List.mem_filter.mp hy).2
  · simpa using (List.mem_filter.mp hx).2

theorem execCoreWake_due {s : State} {core : Nat} (h : s.dev.coreGate.get core = some (.gated true)) :
    execCoreWake core s = .next (s.withDev { s.dev with coreGate := s.dev.coreGate.erase core }) :=
  State.whenDue_true (decide_eq_true h)

theorem execEngineGate_idle {s : State} {cluster : Nat} {kind : EngineKind} (hcluster : cluster < 8)
    (hidle : s.dev.entriesOn (engineKey cluster kind) = []) : execEngineGate cluster kind s = .next (s.withDev { s.dev with
      engGate := s.dev.engGate.set (engineKey cluster kind)
        (idleGate s.plat.dtime (.gated false) (s.dev.engGate.get (engineKey cluster kind))) }) := by
  unfold execEngineGate
  refine (State.whenDue_true (decide_eq_true hcluster)).trans ?_
  simp only [hidle, List.isEmpty_nil, if_true]
  rfl

/-! ### The power cap (R418) -/

theorem execPcapWrite_next {s : State} (hreset : s.plat.inReset = false) (v : W64) : execPcapWrite 8 v s =
    .next { s with plat := { s.plat with energy := { s.plat.energy with pcap := pcapOf v } } } := by
  have hgo : ¬ (decide ((8 : Nat) ≠ 8) || s.plat.inReset) = true := by simp [hreset]
  exact congrArg (fun p => Host.Outcome.next { s with plat := p }) (if_neg hgo)

/-- Settles O58: each event, when due, leaves what its definition gives. -/
theorem energyEventsComplete : Obligations.EnergyEventsComplete := by
  unfold Obligations.EnergyEventsComplete
  intro s en
  refine ⟨fun r hdue => ?_, fun r hdue => execEnergyCharge_not_due hdue, fun temps hlen => ⟨fun hhot => ?_, fun hreset hcool => ?_⟩,
    fun core hcore hidle => execCoreGateDecide_idle hcore hidle, fun core h => execCoreGateCommit_due h,
    fun core h => execCoreWake_due h, fun cluster kind hcluster hidle => execEngineGate_idle hcluster hidle,
    ?_⟩
  · refine ⟨_, execEnergyCharge_due hdue, rfl, rfl, rfl, rfl, fun c hc => ?_, fun c hc => ?_⟩
    · exact congrArg (fun o => Option.getD o Reservoir.reset) ((AMap.get_foldl_set _ _ _ c).trans (if_pos hc))
    · exact (AMap.get_foldl_set _ _ _ c).trans (if_neg hc)
  · exact ⟨_, execClockControl_hot hlen hhot, rfl, rfl⟩
  · exact ⟨_, execClockControl_cool hlen hreset hcool, rfl, rfl, fun hlo hhi => Energy.control_mhz _ _ hlo hhi,
      fun h => Energy.control_done _ h, fun h hhot => Energy.control_thermal h hhot⟩
  · intro v hreset w stores
    have hstores {n : Nat} (hn : pcapOf v = n) : stores n := hn ▸ execPcapWrite_next hreset v
    have hcap : pcapOf v = max 150 (min 550 w) := rfl
    exact ⟨fun h => hstores (by omega), fun h => hstores (by omega), fun h1 h2 => hstores (by omega)⟩

end Sys2Proof.Machine

/-! SUPPORT and O59. The events of errors (R425 to R430). -/

namespace Sys2Proof.Machine

/-! ### Outside reset every event is due -/

theorem execUncorrectableError_due {s : State} {loc : ErrLoc} (hreset : s.plat.inReset = false) (hloc : locOk loc = true) :
    execUncorrectableError loc s = .next (s.withDev (s.dev.uncorrectable s.env loc)) :=
  State.whenDue_true (by simp [hreset, hloc])

/-- The host's read index, outside reset, frees slots of the ring (R430). -/
theorem execErridxWrite_due {s : State} {width : Nat} {v : W64} (hreset : s.plat.inReset = false) :
    execErridxWrite width v s = .next (s.withDev (s.dev.writeErridx s.env width v)) :=
  State.whenDue_true (by simp [hreset])

theorem execErdropRead_next (s : State) : execErdropRead s = .next (s.withDev { s.dev with
    hostRead := natToBytes 8 s.dev.errors.drop.toNat, errors := { s.dev.errors with drop := 0 } }) := State.whenDue_true rfl

/-- Every location but an instruction cache's corrects (R425). -/
theorem execCorrectedError_due {s : State} {loc : ErrLoc} (hreset : s.plat.inReset = false)
    (hcache : ∀ c row pa, loc ≠ .icache c row pa) (hloc : locOk loc = true) :
    execCorrectedError loc s = .next (s.withDev (s.dev.corrected s.env loc)) := by
  refine State.whenDue_true ?_
  cases loc with
  | icache c row pa => exact absurd rfl (hcache c row pa)
  | _ => simp [hreset, hloc]

theorem execControlParityError_due {s : State} {k : Nat} (hreset : s.plat.inReset = false) (hk : k < 8) :
    ∃ d, execControlParityError k s = .next (State.withDev { s with plat := s.plat.takeOffline k } d) := by
  have hgo : (8 ≤ k || s.plat.inReset) = false := by simp [hreset, hk]
  exact ⟨_, if_neg (by simp [hgo])⟩

/-! ### The bits that a parity error clears -/

/-- A bit that a parity error clears is clear in READY after it (R427). -/
theorem Platform.takeOffline_ready {p : Platform} {k bit : Nat} (h : (clusterBits k).getLsbD bit = true) :
    (p.takeOffline k).ready.getLsbD bit = false := by
  rw [Platform.takeOffline, BitVec.getLsbD_and, BitVec.getLsbD_not, h]
  simp

theorem clusterBits_bits {k : Nat} (hk : k < 8) : (clusterBits k).getLsbD (32 + k) = true ∧
    (clusterBits k).getLsbD (40 + k) = true ∧ (clusterBits k).getLsbD (48 + k) = true := by
  interval_cases k <;> decide

/-- Settles O59: outside reset each event is due, and leaves what its location's definition gives. -/
theorem errorEventsComplete : Obligations.ErrorEventsComplete := by
  unfold Obligations.ErrorEventsComplete
  intro s hreset
  refine ⟨fun loc hcache hloc => execCorrectedError_due hreset hcache hloc,
    fun loc hloc => execUncorrectableError_due hreset hloc, fun c row pa => ?_, fun k hk => ?_,
    fun width v => execErridxWrite_due hreset, execErdropRead_next s⟩
  · refine ⟨_, execUncorrectableError_due hreset rfl, rfl, fun x hx => ?_⟩
    have hkept := (List.mem_filter.mp hx).2
    simpa [not_and_or] using hkept
  · obtain ⟨d, hd⟩ := execControlParityError_due hreset hk
    obtain ⟨hclu, hcol, hdyn⟩ := clusterBits_bits hk
    exact ⟨_, hd, rfl, Platform.takeOffline_ready hclu, Platform.takeOffline_ready hcol, Platform.takeOffline_ready hdyn⟩

end Sys2Proof.Machine


/-! SUPPORT and O1. The words of an instruction, format by format: each field is read back as the slice it was written to, then
opcode by opcode (R61 to R78). -/

namespace Sys2Proof

open BitVec (getLsbD_append getLsbD_cast extractLsb'_cast extractLsb'_append_eq_of_le extractLsb'_append_eq_of_add_le
  extractLsb'_eq_self)

/-! ### Codes -/

theorem Rm.ofCode_code (r : Rm) : Rm.ofCode (BitVec.ofNat 3 r.code).toNat = some r := by cases r <;> rfl

theorem Ty.ofCode_code (t : Ty) : Ty.ofCode (BitVec.ofNat 4 t.code).toNat = some t := by cases t <;> rfl

theorem Scope.ofCode_rank (c : Scope) : Scope.ofCode (BitVec.ofNat 3 c.rank).toNat = some c := by cases c <;> rfl

theorem MemOrd.ofCode_code (o : MemOrd) : MemOrd.ofCode (BitVec.ofNat 2 o.code).toNat = o := by cases o <;> rfl

theorem Width.ofCode_code (w : Width) : Width.ofCode (BitVec.ofNat 3 w.code).toNat = some w := by cases w <;> rfl

theorem scaleOfCode_val (c : Fin 5) : scaleOfCode (BitVec.ofNat 3 c.val).toNat = some c := by
  revert c
  decide

theorem Pred.ofCode_code (p : Pred) : Pred.ofCode (BitVec.ofNat 6 p.code).toNat = some p := by
  cases p with
  | none => rfl
  | t k =>
    revert k
    decide

/-! ### Slices of a word written as an append -/

theorem getLsbD_bit1 (b : Bool) : (bit1 b).getLsbD 0 = b := by cases b <;> rfl

theorem getLsbD_append_high {v w k : Nat} {x : BitVec v} {y : BitVec w} (h : w ≤ k) :
    (x ++ y).getLsbD k = x.getLsbD (k - w) := by
  rw [getLsbD_append, if_neg (not_lt.mpr h)]

theorem getLsbD_append_low {v w k : Nat} {x : BitVec v} {y : BitVec w} (h : k < w) : (x ++ y).getLsbD k = y.getLsbD k := by
  rw [getLsbD_append, if_pos h]

/-! ### Formats: the fields that words were written from

A word is an append cast to 32 bits, so that its width is still a sum when its slices are taken. -/

section Formats

variable (h : BitVec 10)

theorem FmtSI.ofWords_words (f : FmtSI) :
    FmtSI.ofWords ((bit1 f.i ++ f.fn ++ f.sb ++ f.sa ++ f.sd ++ h).cast (by rfl)) ((0#16 ++ f.xf).cast (by rfl)) f.lit =
      some f := by
  simp (disch := decide) only [FmtSI.ofWords, extractLsb'_cast, getLsbD_cast, extractLsb'_append_eq_of_le,
    extractLsb'_append_eq_of_add_le, getLsbD_append_high, getLsbD_bit1, Nat.reduceSub, extractLsb'_eq_self]
  rfl

theorem FmtV.ofWords_words (f : FmtV) :
    FmtV.ofWords ((f.md ++ f.va ++ f.vd ++ h).cast (by rfl))
      ((bit1 f.s ++ BitVec.ofNat 3 f.rm.code ++ BitVec.ofNat 4 f.ty.code ++ BitVec.ofNat 6 f.ms.code ++ f.vc ++ f.vb).cast
        (by rfl)) = some f := by
  simp (disch := decide) only [FmtV.ofWords, extractLsb'_cast, getLsbD_cast, extractLsb'_append_eq_of_le,
    extractLsb'_append_eq_of_add_le, getLsbD_append_high, getLsbD_bit1, Nat.reduceSub, extractLsb'_eq_self,
    Rm.ofCode_code, Ty.ofCode_code, Pred.ofCode_code]

theorem FmtM.ofWords_words (f : FmtM) :
    FmtM.ofWords ((f.md ++ f.vx ++ f.vd ++ h).cast (by rfl))
      ((f.off ++ BitVec.ofNat 6 f.ms.code ++ BitVec.ofNat 3 f.scope.rank ++ BitVec.ofNat 2 f.ord.code ++ bit1 f.xi ++
        BitVec.ofNat 3 f.sc.val ++ BitVec.ofNat 3 f.w.code ++ f.sa).cast (by rfl)) = some f := by
  simp (disch := decide) only [FmtM.ofWords, extractLsb'_cast, getLsbD_cast, extractLsb'_append_eq_of_le,
    extractLsb'_append_eq_of_add_le, getLsbD_append_high, getLsbD_append_low, getLsbD_bit1, Nat.reduceSub, extractLsb'_eq_self,
    Pred.ofCode_code, Scope.ofCode_rank, MemOrd.ofCode_code, scaleOfCode_val, Width.ofCode_code]

theorem FmtX.ofWords_words (f : FmtX) :
    FmtX.ofWords ((BitVec.ofNat 4 f.ta.code ++ f.xa ++ f.xd ++ h).cast (by rfl))
      ((f.xop ++ BitVec.ofNat 3 f.rm.code ++ f.sf ++ f.bs ++ BitVec.ofNat 4 f.tb.code ++ f.xs ++ f.xb).cast (by rfl)) =
      some f := by
  simp (disch := decide) only [FmtX.ofWords, extractLsb'_cast, extractLsb'_append_eq_of_le, extractLsb'_append_eq_of_add_le,
    Nat.reduceSub, extractLsb'_eq_self, Rm.ofCode_code, Ty.ofCode_code]

theorem FmtB.ofWords_words (f : FmtB) :
    FmtB.ofWords ((bit1 f.all ++ f.cnd ++ f.sb ++ f.sa ++ f.sd ++ h).cast (by rfl)) ((0#3 ++ f.tsel ++ f.off).cast (by rfl)) =
      some f := by
  simp (disch := decide) only [FmtB.ofWords, extractLsb'_cast, getLsbD_cast, extractLsb'_append_eq_of_le,
    extractLsb'_append_eq_of_add_le, getLsbD_append_high, getLsbD_bit1, Nat.reduceSub, extractLsb'_eq_self]
  rfl

theorem FmtW.ofWords_words (f : FmtW) :
    FmtW.ofWords ((0#2 ++ f.sel3 ++ f.sel2 ++ f.sel1 ++ f.sel0 ++ h).cast (by rfl)) ((f.off1 ++ f.off0).cast (by rfl))
      ((f.off3 ++ f.off2).cast (by rfl)) = some f := by
  simp (disch := decide) only [FmtW.ofWords, extractLsb'_cast, extractLsb'_append_eq_of_le, extractLsb'_append_eq_of_add_le,
    Nat.reduceSub, extractLsb'_eq_self]
  rfl

theorem FmtT.ofWords_words (f : FmtT) :
    FmtT.ofWords ((f.md ++ f.sb ++ f.sa ++ f.sd ++ h).cast (by rfl))
      ((bit1 f.t ++ f.opt ++ f.sub ++ BitVec.ofNat 6 f.ms.code ++ f.vb ++ f.va).cast (by rfl)) = some f := by
  simp (disch := decide) only [FmtT.ofWords, extractLsb'_cast, getLsbD_cast, extractLsb'_append_eq_of_le,
    extractLsb'_append_eq_of_add_le, getLsbD_append_high, getLsbD_bit1, Nat.reduceSub, extractLsb'_eq_self, Pred.ofCode_code]

/-- Format MI is format M and a third word. -/
theorem FmtMI.ofWords_words {f : FmtMI} {w0 w1 : W32} (hm : FmtM.ofWords w0 w1 = some f.m) :
    FmtMI.ofWords w0 w1 ((0#14 ++ f.vc ++ f.vb).cast (by rfl)) = some f := by
  simp (disch := decide) only [FmtMI.ofWords, hm, extractLsb'_cast, extractLsb'_append_eq_of_le, extractLsb'_append_eq_of_add_le,
    Nat.reduceSub, extractLsb'_eq_self]
  rfl

end Formats

/-! ### Opcodes of formats SI to T -/

section Tables

variable {opc : Nat}

theorem opFormat_of_ctorSI {c : FmtSI → Instr} (h : ctorSI opc = some c) : opFormat opc = some .SI ∧ opc < 256 := by
  unfold ctorSI at h
  split at h <;> cases h <;> decide

theorem opFormat_of_ctorV {c : FmtV → Instr} (h : ctorV opc = some c) : opFormat opc = some .V ∧ opc < 256 := by
  unfold ctorV at h
  split at h <;> cases h <;> decide

theorem opFormat_of_ctorVI {c : FmtVI → Instr} (h : ctorVI opc = some c) : opFormat opc = some .VI ∧ opc < 256 := by
  unfold ctorVI at h
  split at h <;> cases h <;> decide

theorem opFormat_of_ctorM {c : FmtM → Instr} (h : ctorM opc = some c) : opFormat opc = some .M ∧ opc < 256 := by
  unfold ctorM at h
  split at h <;> cases h <;> decide

theorem opFormat_of_ctorMI {c : FmtMI → Instr} (h : ctorMI opc = some c) : opFormat opc = some .MI ∧ opc < 256 := by
  unfold ctorMI at h
  split at h <;> cases h <;> decide

theorem opFormat_of_ctorX {c : FmtX → Instr} (h : ctorX opc = some c) : opFormat opc = some .X ∧ opc < 256 := by
  unfold ctorX at h
  split at h <;> cases h <;> decide

theorem opFormat_of_ctorB {c : FmtB → Instr} (h : ctorB opc = some c) : opFormat opc = some .B ∧ opc < 256 := by
  unfold ctorB at h
  split at h <;> cases h <;> decide

theorem opFormat_of_ctorW {c : FmtW → Instr} (h : ctorW opc = some c) : opFormat opc = some .W ∧ opc < 256 := by
  unfold ctorW at h
  split at h <;> cases h
  decide

theorem opFormat_of_ctorT {c : FmtT → Instr} (h : ctorT opc = some c) : opFormat opc = some .T ∧ opc < 256 := by
  unfold ctorT at h
  split at h <;> cases h <;> decide

theorem opFormat_of_ctorSplitT {f : FmtT} {i : Instr} (h : ctorSplitT opc f = some i) : opFormat opc = some .T ∧ opc < 256 := by
  unfold ctorSplitT at h
  split at h <;> cases h <;> decide

/-- An opcode of one instruction is not shared. -/
theorem ctorSplitT_of_ctorT {c : FmtT → Instr} (h : ctorT opc = some c) (f : FmtT) : ctorSplitT opc f = none := by
  unfold ctorT at h
  split at h <;> cases h <;> rfl

end Tables

/-! ### Words that decode -/

section Decode

variable {opc : Nat} {rest : List W32}

/-- What suffices to decode: an assigned opcode, the length of its format, words enough, and fields that the instruction
accepts (R61, steps 1 to 6). -/
theorem decode_of_rawDecode {w0 : W32} {fmt : Fmt} {i : Instr} (hopc : w0.extractLsb' 2 8 = BitVec.ofNat 8 opc)
    (hlen : w0.extractLsb' 0 2 = BitVec.ofNat 2 fmt.len) (hfmt : opFormat opc = some fmt ∧ opc < 256)
    (hrest : fmt.len ≤ rest.length) (hraw : rawDecode opc fmt w0 (rest.getD 0 0) (rest.getD 1 0) = some i)
    (hwf : i.wf = true) : decode (w0 :: rest) = .ok i := by
  have hopc : (w0.extractLsb' 2 8).toNat = opc := by rw [hopc, BitVec.toNat_ofNat, Nat.mod_eq_of_lt hfmt.2]
  have hlen : (w0.extractLsb' 0 2).toNat = fmt.len := by
    rw [hlen, BitVec.toNat_ofNat, Nat.mod_eq_of_lt (fmt.len_le.trans_lt (by decide))]
  have hle := fmt.len_le
  unfold decode
  dsimp only
  rw [if_neg (by omega), hopc, hlen, hfmt.1]
  dsimp only
  rw [if_neg (not_not.mpr rfl), if_neg (not_lt.mpr hrest), hraw]
  exact if_pos hwf

theorem decode_wordsSI {c : FmtSI → Instr} (hc : ctorSI opc = some c) (f : FmtSI) (hwf : (c f).wf = true) :
    decode (f.words opc ++ rest) = .ok (c f) :=
  decode_of_rawDecode (Laws.F.opcode_of _ _ _) (Laws.F.length_of _ _ _) (opFormat_of_ctorSI hc) (Nat.le_add_left 2 _)
    (congrArg₂ build hc (FmtSI.ofWords_words _ f)) hwf

theorem decode_wordsV {c : FmtV → Instr} (hc : ctorV opc = some c) (f : FmtV) (hwf : (c f).wf = true) :
    decode (f.words opc 1 ++ rest) = .ok (c f) :=
  decode_of_rawDecode (Laws.F.opcode_of _ _ _) (Laws.F.length_of _ _ _) (opFormat_of_ctorV hc) (Nat.le_add_left 1 _)
    (congrArg₂ build hc (FmtV.ofWords_words _ f)) hwf

theorem decode_wordsVI {c : FmtVI → Instr} (hc : ctorVI opc = some c) (f : FmtVI) (hwf : (c f).wf = true) :
    decode (f.words opc ++ rest) = .ok (c f) :=
  decode_of_rawDecode (Laws.F.opcode_of _ _ _) (Laws.F.length_of _ _ _) (opFormat_of_ctorVI hc) (Nat.le_add_left 2 _)
    (congrArg₂ build hc (congrArg (Option.map _) (FmtV.ofWords_words _ f.v))) hwf

theorem decode_wordsM {c : FmtM → Instr} (hc : ctorM opc = some c) (f : FmtM) (hwf : (c f).wf = true) :
    decode (f.words opc 1 ++ rest) = .ok (c f) :=
  decode_of_rawDecode (Laws.F.opcode_of _ _ _) (Laws.F.length_of _ _ _) (opFormat_of_ctorM hc) (Nat.le_add_left 1 _)
    (congrArg₂ build hc (FmtM.ofWords_words _ f)) hwf

theorem decode_wordsMI {c : FmtMI → Instr} (hc : ctorMI opc = some c) (f : FmtMI) (hwf : (c f).wf = true) :
    decode (f.words opc ++ rest) = .ok (c f) :=
  decode_of_rawDecode (Laws.F.opcode_of _ _ _) (Laws.F.length_of _ _ _) (opFormat_of_ctorMI hc) (Nat.le_add_left 2 _)
    (congrArg₂ build hc (FmtMI.ofWords_words (FmtM.ofWords_words _ f.m))) hwf

theorem decode_wordsX {c : FmtX → Instr} (hc : ctorX opc = some c) (f : FmtX) (hwf : (c f).wf = true) :
    decode (f.words opc ++ rest) = .ok (c f) :=
  decode_of_rawDecode (Laws.F.opcode_of _ _ _) (Laws.F.length_of _ _ _) (opFormat_of_ctorX hc) (Nat.le_add_left 1 _)
    (congrArg₂ build hc (FmtX.ofWords_words _ f)) hwf

theorem decode_wordsB {c : FmtB → Instr} (hc : ctorB opc = some c) (f : FmtB) (hwf : (c f).wf = true) :
    decode (f.words opc ++ rest) = .ok (c f) :=
  decode_of_rawDecode (Laws.F.opcode_of _ _ _) (Laws.F.length_of _ _ _) (opFormat_of_ctorB hc) (Nat.le_add_left 1 _)
    (congrArg₂ build hc (FmtB.ofWords_words _ f)) hwf

theorem decode_wordsW {c : FmtW → Instr} (hc : ctorW opc = some c) (f : FmtW) (hwf : (c f).wf = true) :
    decode (f.words opc ++ rest) = .ok (c f) :=
  decode_of_rawDecode (Laws.F.opcode_of _ _ _) (Laws.F.length_of _ _ _) (opFormat_of_ctorW hc) (Nat.le_add_left 2 _)
    (congrArg₂ build hc (FmtW.ofWords_words _ f)) hwf

theorem rawDecode_T {w0 w1 w2 : W32} {f : FmtT} (h : FmtT.ofWords w0 w1 = some f) :
    rawDecode opc .T w0 w1 w2 = (ctorSplitT opc f).or (build (ctorT opc) (some f)) := by
  simp only [rawDecode, h]

/-- Format T, from the fields that its words give back. -/
theorem decode_wordsT_of {f : FmtT} {i : Instr} (hfmt : opFormat opc = some .T ∧ opc < 256)
    (hi : (ctorSplitT opc f).or (build (ctorT opc) (some f)) = some i) (hwf : i.wf = true) :
    decode (f.words opc ++ rest) = .ok i :=
  decode_of_rawDecode (Laws.F.opcode_of _ _ _) (Laws.F.length_of _ _ _) hfmt (Nat.le_add_left 1 _)
    ((rawDecode_T (FmtT.ofWords_words _ f)).trans hi) hwf

theorem decode_wordsT {c : FmtT → Instr} (hc : ctorT opc = some c) (f : FmtT) (hwf : (c f).wf = true) :
    decode (f.words opc ++ rest) = .ok (c f) :=
  decode_wordsT_of (opFormat_of_ctorT hc) (by rw [ctorSplitT_of_ctorT hc, hc]; rfl) hwf

theorem decode_wordsSplitT {f : FmtT} {i : Instr} (hi : ctorSplitT opc f = some i) (hwf : i.wf = true) :
    decode (f.words opc ++ rest) = .ok i :=
  decode_wordsT_of (opFormat_of_ctorSplitT hi) (by rw [hi]; rfl) hwf

end Decode

/-! ### Format S -/

/-- The word of format S with a register operand B (R65). -/
def regWord (opc fn : Nat) (b a d : SReg) : W32 :=
  (0#1 ++ BitVec.ofNat 3 fn ++ b ++ a ++ d ++ head opc 0).cast (by rfl)

/-- The word of format S with an immediate operand B (R65). -/
def immWord (opc : Nat) (imm : BitVec 9) (a d : SReg) : W32 := (1#1 ++ imm ++ a ++ d ++ head opc 0).cast (by rfl)

theorem encS_eq (opc fn : Nat) (b a d : SReg) : encS opc fn b a d = [regWord opc fn b a d] := rfl

theorem encImm_eq (opc : Nat) (imm : BitVec 9) (a d : SReg) : encImm opc imm a d = [immWord opc imm a d] := rfl

section OneWordSlices

variable (opc fn : Nat) (b a d : SReg) (imm : BitVec 9)

@[simp] theorem regWord_i : (regWord opc fn b a d)[31] = false := by
  rw [← BitVec.getLsbD_eq_getElem]
  simp (disch := decide) only [regWord, getLsbD_cast, getLsbD_append_high, Nat.reduceSub]
  rfl

@[simp] theorem regWord_fn : (regWord opc fn b a d).extractLsb' 28 3 = BitVec.ofNat 3 fn := by
  simp (disch := decide) only [regWord, extractLsb'_cast, extractLsb'_append_eq_of_le, extractLsb'_append_eq_of_add_le,
    Nat.reduceSub, extractLsb'_eq_self]

@[simp] theorem regWord_b : (regWord opc fn b a d).extractLsb' 22 6 = b := by
  simp (disch := decide) only [regWord, extractLsb'_cast, extractLsb'_append_eq_of_le, extractLsb'_append_eq_of_add_le,
    Nat.reduceSub, extractLsb'_eq_self]

@[simp] theorem regWord_a : (regWord opc fn b a d).extractLsb' 16 6 = a := by
  simp (disch := decide) only [regWord, extractLsb'_cast, extractLsb'_append_eq_of_le, extractLsb'_append_eq_of_add_le,
    Nat.reduceSub, extractLsb'_eq_self]

@[simp] theorem regWord_d : (regWord opc fn b a d).extractLsb' 10 6 = d := by
  simp (disch := decide) only [regWord, extractLsb'_cast, extractLsb'_append_eq_of_le, extractLsb'_append_eq_of_add_le,
    Nat.reduceSub, extractLsb'_eq_self]

/-- An instruction with no operand has every bit above the opcode zero. -/
@[simp] theorem regWord_plain : (regWord opc 0 0#6 0#6 0#6).extractLsb' 10 22 = 0#22 := by
  simp (disch := decide) only [regWord, extractLsb'_cast, extractLsb'_append_eq_of_le, Nat.reduceSub]
  rfl

@[simp] theorem immWord_i : (immWord opc imm a d)[31] = true := by
  rw [← BitVec.getLsbD_eq_getElem]
  simp (disch := decide) only [immWord, getLsbD_cast, getLsbD_append_high, Nat.reduceSub]
  rfl

@[simp] theorem immWord_imm : (immWord opc imm a d).extractLsb' 22 9 = imm := by
  simp (disch := decide) only [immWord, extractLsb'_cast, extractLsb'_append_eq_of_le, extractLsb'_append_eq_of_add_le,
    Nat.reduceSub, extractLsb'_eq_self]

@[simp] theorem immWord_a : (immWord opc imm a d).extractLsb' 16 6 = a := by
  simp (disch := decide) only [immWord, extractLsb'_cast, extractLsb'_append_eq_of_le, extractLsb'_append_eq_of_add_le,
    Nat.reduceSub, extractLsb'_eq_self]

@[simp] theorem immWord_d : (immWord opc imm a d).extractLsb' 10 6 = d := by
  simp (disch := decide) only [immWord, extractLsb'_cast, extractLsb'_append_eq_of_le, extractLsb'_append_eq_of_add_le,
    Nat.reduceSub, extractLsb'_eq_self]

/-- The count of a shift: the five low bits of the immediate. -/
@[simp] theorem immWord_shift (k : BitVec 5) : (immWord opc (0#4 ++ k) a d).extractLsb' 22 5 = k := by
  simp (disch := decide) only [immWord, extractLsb'_cast, extractLsb'_append_eq_of_le, extractLsb'_append_eq_of_add_le,
    Nat.reduceSub, extractLsb'_eq_self]

/-- The number of a trap: the seven low bits of the immediate. -/
@[simp] theorem immWord_trap (k : BitVec 7) : (immWord opc (1#2 ++ k) a d).extractLsb' 22 7 = k := by
  simp (disch := decide) only [immWord, extractLsb'_cast, extractLsb'_append_eq_of_le, extractLsb'_append_eq_of_add_le,
    Nat.reduceSub, extractLsb'_eq_self]

end OneWordSlices

theorem toNat_shift_lt (k : BitVec 5) : (0#4 ++ k).toNat < 32 := by
  rw [BitVec.toNat_append]
  simpa using k.isLt

/-- What a trap's immediate holds above its number. -/
theorem trap_high (k : BitVec 7) : (show BitVec 9 from 1#2 ++ k).extractLsb' 7 2 = 1#2 := BitVec.extractLsb'_append_eq_left

section DecodeS

variable {opc : Nat} {rest : List W32} {i : Instr}

theorem decode_reg {fn : Nat} {b a d : SReg} (hraw : rawS opc (regWord opc fn b a d) = some i)
    (hfmt : opFormat opc = some .S ∧ opc < 256) (hwf : i.wf = true) : decode (encS opc fn b a d ++ rest) = .ok i := by
  rw [encS_eq]
  exact decode_of_rawDecode (Laws.F.opcode_of _ _ _) (Laws.F.length_of _ _ _) hfmt (Nat.zero_le _) hraw hwf

theorem decode_imm {imm : BitVec 9} {a d : SReg} (hraw : rawS opc (immWord opc imm a d) = some i)
    (hfmt : opFormat opc = some .S ∧ opc < 256) (hwf : i.wf = true) : decode (encImm opc imm a d ++ rest) = .ok i := by
  rw [encImm_eq]
  exact decode_of_rawDecode (Laws.F.opcode_of _ _ _) (Laws.F.length_of _ _ _) hfmt (Nat.zero_le _) hraw hwf

theorem decode_nop : decode (encode .nop ++ rest) = .ok .nop :=
  decode_of_rawDecode (opc := 0) (fmt := .S) rfl rfl (by decide) (Nat.zero_le _) rfl rfl

end DecodeS


/-! ### Opcodes shared by several instructions of format T -/

theorem Shape.codes_of_ok {x : Shape} (h : x.ok = true) : x.codes = true := by
  simp only [Shape.ok, Bool.and_eq_true] at h
  exact h.1.1

/-- A code that a shape asks for on top of its format's. -/
theorem Shape.codes_right {x : Shape} {p : Bool} (h : Shape.ok { x with codes := x.codes && p } = true) : p = true :=
  (Bool.and_eq_true_iff.mp (Shape.codes_of_ok h)).2

section FormatT

variable {f : FmtT} {va vb : VUse} {sa sb sd : SUse} {tOk : Bool} {opts subs mods : Nat}

theorem FmtT.md_lt (h : (f.shape va vb sa sb sd tOk opts subs mods).ok = true) : f.md.toNat < mods :=
  of_decide_eq_true (Bool.and_eq_true_iff.mp (Shape.codes_of_ok h)).2

theorem FmtT.sub_lt (h : (f.shape va vb sa sb sd tOk opts subs mods).ok = true) : f.sub.toNat < subs :=
  of_decide_eq_true (Bool.and_eq_true_iff.mp (Bool.and_eq_true_iff.mp (Shape.codes_of_ok h)).1).2

end FormatT

/-- Settles O1: an instruction's words lead the decoder to its format by their opcode, and each of its fields is read back from
the slice it was written to; where instructions share an opcode, a well-formed one holds the code that tells it apart. -/
theorem decodeEncode : Obligations.DecodeEncode := by
  unfold Obligations.DecodeEncode
  intro i rest hwf henc
  cases i with
  | nop => exact decode_nop
  | smov | smovPair | sadd | ssub | smul | smulhs | smulhn | sand | sor | sxor | sandn | sshl | sshr | ssar | smin | smax
  | sminn | smaxn | sadd64 | ssub64 | spopc | spopcL | sclz | sclzL | sdivn | sremn | slea | smask | jmp | calli | ret
  | syncs | exit | exitAll | yield | watch | tret =>
    exact decode_reg (by simp [rawS]) (by decide) hwf
  | smovImm | saddImm | ssubImm | smulImm | smulhsImm | smulhnImm | sandImm | sorImm | sxorImm | sandnImm | sminImm
  | smaxImm | sminnImm | smaxnImm | sadd64Imm | ssub64Imm | sdivnImm | sremnImm | sleaImm | yieldImm =>
    exact decode_imm (by simp [rawS]) (by decide) hwf
  | sshlImm | sshrImm | ssarImm => exact decode_imm (by simp [rawS, toNat_shift_lt]) (by decide) hwf
  | trap => exact decode_imm (by simp [rawS, trap_high]) (by decide) hwf
  | sli | scmp | sbfx | sbfi | smovr | smovw => exact decode_wordsSI rfl _ hwf
  | vmov | vadd | vsub | vmul | vmulh | vmad | vand | vor | vxor | vandn | vshl | vshr | vsar | vmin | vmax | vabs | vcmp
  | vsel | vpopc | vclz | vshuf | vbcst | vlane | vscan | vrowmap | vpack | vunpk | vv2s | vfadd | vfsub | vfmul | vfma
  | vfms | vfmin | vfmax | vfabs | vfneg | vfcmp | vfdiv | vfsqrt | vfclass | vfadda | vfdot2 | vfscale | vfrnd | vcvt
  | vcvts | vrcp | vrsq | vexp2 | vlog2 | vsin | vcos | vtanh | vsigm | vrand | vseed | vmkabs | visabs | vdot8 | vdot4
  | vred | mtrans =>
    exact decode_wordsV rfl _ hwf
  | vli | vbfx => exact decode_wordsVI rfl _ hwf
  | qld | ldg | stg | lds | sts | ldsm | stsm | ldfrag | ldu | stsc | bestmax | tld | tst | hld | ccount | fence | cache
  | disc =>
    exact decode_wordsM rfl _ hwf
  | atomg | atoms | redg | citer => exact decode_wordsMI rfl _ hwf
  | mma | mmas | aclr | adrain | amerge => exact decode_wordsX rfl _ hwf
  | br | brs | brv | brany | call => exact decode_wordsB rfl _ hwf
  | bway => exact decode_wordsW rfl _ hwf
  | spawn | jrec | fnew | fres | fwait | fpoll | freg | fcan | swnew | swdl | swcan | cpy | cpydn | dyns | gqcfg | gqpush
  | gqpop | gqflush | pdef | palloc | pfree | preset | regdef | hstw | sigdec =>
    exact decode_wordsT rfl _ hwf
  | swendRun | barInit | barArrive | barWait | barExpect | barTest | colqQsphere | colqQseg =>
    exact decode_wordsSplitT (by simp [ctorSplitT, of_decide_eq_true (Shape.codes_right hwf)]) hwf
  | swendClose => exact decode_wordsSplitT (by simp [ctorSplitT, Nat.lt_one_iff.mp (FmtT.md_lt hwf)]) hwf
  | colqQpoint => exact decode_wordsSplitT (by simp [ctorSplitT, Nat.lt_one_iff.mp (FmtT.sub_lt hwf)]) hwf
  | _ => exact absurd rfl henc

end Sys2Proof
